-- ==== Sys2Proof/Word.lean ====
section
/-! DEFINITION. The words of the engine: bytes, 32-bit words, 64-bit double-words (00_scope.md Table 2, R9, R10). -/

namespace Sys2Proof

/-- 8 bits. -/
abbrev Byte := BitVec 8
/-- 32 bits: a word of a packet, a record or a register. -/
abbrev Word := BitVec 32
/-- 64 bits: an identifier or an address. -/
abbrev Dword := BitVec 64

/-- An aperture offset (64 KiB, R388). -/
abbrev Offset := BitVec 16
/-- A queue number, 0 to 1023. -/
abbrev QueueNo := BitVec 10
/-- A context number, 0 to 255. -/
abbrev CtxNo := BitVec 8
/-- A table index, 0 to 4095. -/
abbrev TableNo := BitVec 12
/-- A stream descriptor number, 0 to 4095. -/
abbrev DescNo := BitVec 12
/-- A chip number, 0 to 4095. -/
abbrev ChipNo := BitVec 12
/-- A rim port, 0 to 3. -/
abbrev PortNo := BitVec 2
/-- An NVMe-oF target, 0 to 255. -/
abbrev TargetNo := BitVec 8

end Sys2Proof
end

