-- ==== Sys2Proof/Syntax.lean ====
section
/-! DEFINITION. The commands: one constructor per row of spec/opcode_table.json, with its operands. A packet command names the
admitted command it acts for by its admission number, `cmd`, which counts from 0 over the engine (log entry 9). Data that
arrives from outside (a fetched packet, a message, a frame, a read's bytes, a measurement) is an operand. -/

namespace Sys2Proof

/-- A unit of Table 2 of 12_faults_recovery.md: kind in [15:12], index in [11:0]. -/
abbrev UnitId := BitVec 16

/-- What waits on a valve (R285): a VALVE_OP held in the valve unit, the WAIT_EN of a header, or a rill WAIT. -/
inductive WaitSrc
  /-- a VALVE_OP WAIT_GE or WAIT_EQ -/
  | held (cmd : Nat)
  /-- a header's WAIT_EN -/
  | header (cmd : Nat)
  /-- a rill WAIT -/
  | rill (desc : DescNo)
  deriving DecidableEq, Repr

/-- What makes host accesses in order (R262): a command, or the generation of a descriptor. -/
inductive Mover
  /-- a command -/
  | cmd (id : Nat)
  /-- the current generation of a descriptor -/
  | desc (d : DescNo)
  deriving DecidableEq, Repr

/-- The address field through which an access faulted (R264). -/
inductive FaultSite
  /-- a packet word -/
  | packet (word : BitVec 5)
  /-- a word of a CASCADE feature record -/
  | record (feature : BitVec 6) (word : BitVec 5)
  /-- a word of a table descriptor -/
  | descriptor (word : BitVec 5)
  /-- the program of a STREAM_ARM -/
  | program
  /-- an element of a generation, or a transfer of a COPY, with the bytes delivered before it -/
  | transfer (offset : Nat)
  deriving DecidableEq, Repr

/-- The outcome codes of a page request group response (R263); `stillLacking` is Success whose new translation still lacks
permission. -/
inductive PrgCode
  /-- Success -/
  | success
  /-- Success, permission still lacking -/
  | stillLacking
  /-- Invalid Request -/
  | invalid
  /-- Response Failure -/
  | failure
  deriving DecidableEq, Repr

/-- An entry of the address translation cache (10, Translation): the address space, an untranslated page, its size in bytes as the
host returns it, and the permissions. -/
structure AtcEntry where
  /-- address space: 0 the default, PASID + 1 otherwise -/
  space : Nat
  /-- untranslated page address -/
  page : Dword
  /-- bytes, 4 KiB to 1 GiB -/
  size : Nat
  /-- reads allowed -/
  read : Bool
  /-- writes allowed -/
  write : Bool
  deriving DecidableEq, Repr

/-- Connection-management messages on QP1 (R380). -/
inductive CmKind
  /-- REQ -/
  | req
  /-- REP -/
  | rep
  /-- RTU -/
  | rtu
  deriving DecidableEq, Repr

/-- Errors a DRAM access or scrub found in one DRAM row (R161, R163). -/
structure DramFinding where
  /-- bank -/
  bank : BitVec 5
  /-- DRAM row -/
  row : BitVec 15
  /-- corrected errors -/
  corrected : Nat
  /-- an uncorrected error was found -/
  uncorrected : Bool
  deriving DecidableEq, Repr

/-- Errors that the read of a stored row met in one of its tiles; the tile's address gives the unit, bank and DRAM row (R155, R161
to R164). -/
structure EccFinding where
  /-- tile of the stored row, check tiles included -/
  tile : Nat
  /-- corrected errors -/
  corrected : Nat
  /-- an uncorrected error was found: the tile fails -/
  uncorrected : Bool
  deriving DecidableEq, Repr

/-- What the read of a stored row met: tiles that fail on the way, and errors of the DRAM. -/
structure ReadMet where
  /-- tiles that fail on the way -/
  upset : List Nat
  /-- errors that the DRAM found -/
  ecc : List EccFinding
  deriving DecidableEq, Repr

/-- The next row of a table to fold, read at its delta slot (R66, R118). -/
structure FoldRead where
  /-- table -/
  table : TableNo
  /-- errors that the DRAM found -/
  ecc : List EccFinding
  deriving DecidableEq, Repr

/-- What modifies a valve, and whether it does so in the main clock cycle of the modification just before it (R286, log entry 89). -/
structure Timed (α : Type) where
  /-- the command or stream descriptor -/
  who : α
  /-- in the same cycle as the modification just before it -/
  joins : Bool
  deriving DecidableEq, Repr

/-- The host link as it comes up (R263, R358). -/
structure HostLink where
  /-- over CXL, otherwise PCIe -/
  cxl : Bool
  /-- the host's outstanding page request allocation -/
  alloc : Word
  deriving DecidableEq, Repr

/-- What an exerciser run met in its unit (R166, R167). -/
structure ExerResult where
  /-- words of the unit that do not hold what is written to them: unit address, and the word that is read there -/
  faults : List (Word × Word)
  /-- main clock cycles of the run -/
  cycles : Dword
  deriving DecidableEq, Repr

/-- One sample of a monitor of Table 1 of 13_supervisor_power_ageing.md, in its resolution; `none` when it gave none. -/
structure MonSample where
  /-- kind, 0 to 7 -/
  kind : BitVec 4
  /-- index -/
  index : BitVec 9
  /-- the sample -/
  value : Option Int
  deriving DecidableEq, Repr

/-- A clock domain of Table 2 of 13_supervisor_power_ageing.md. -/
inductive Domain
  /-- a slice -/
  | slice (i : BitVec 5)
  /-- a vault controller -/
  | vault (i : BitVec 9)
  /-- an HBM4 channel -/
  | channel (i : BitVec 8)
  /-- a rill engine -/
  | rill (i : BitVec 6)
  /-- a sequencer core -/
  | core (i : BitVec 4)
  deriving DecidableEq, Repr

/-- Input clocks (R366). -/
inductive RefClk
  /-- SUP_REFCLK -/
  | sup
  /-- RIM_REFCLK0, ports 0 and 1 -/
  | rim0
  /-- RIM_REFCLK1, ports 2 and 3 -/
  | rim1
  deriving DecidableEq, Repr

/-- The I3C common command codes the target supports (R382). -/
inductive I3cCode
  /-- ENTDAA with the dynamic address given -/
  | entdaa (addr : BitVec 7)
  /-- SETDASA with the dynamic address given -/
  | setdasa (addr : BitVec 7)
  /-- RSTDAA -/
  | rstdaa
  /-- ENEC -/
  | enec
  /-- DISEC -/
  | disec
  /-- GETPID -/
  | getpid
  /-- GETBCR -/
  | getbcr
  /-- GETDCR -/
  | getdcr
  /-- GETSTATUS -/
  | getstatus
  deriving DecidableEq, Repr

/-- The commands of the engine. -/
inductive Instr
  /-- NOP (R33): Opcode 0x00 does nothing and completes with ST_OK after the admission checks. -/
  | nop (cmd : Nat)
  /-- GATHER_POOL (R84): Issued gather translates, sorts and de-duplicates the identifiers, fetches each unique row once at its snapshot and pools every bag. -/
  | gatherPool (cmd : Nat)
  /-- CASCADE (R103): Issued cascade gathers and pools up to 32 features, then normalises, interacts and applies the function table per sample. -/
  | cascade (cmd : Nat)
  /-- SCATTER_GRAD (R208): Issued scatter reserves confluence space, takes the bag gradients and writes one provisional gradient slot per kept use. -/
  | scatterGrad (cmd : Nat)
  /-- INTERACTION_SCATTER_GRAD (R243): A SCATTER_GRAD with FEATURE 63 runs the interaction backward, writes the dense gradients and replaces the y records with g records. -/
  | interactionScatterGrad (cmd : Nat)
  /-- MERGE_APPLY (R212): Issued merge waits for the step's SCATTER_GRADs, sums each row's slots in fixed order and applies the optimiser into PENDING copies. -/
  | mergeApply (cmd : Nat)
  /-- ZERO_ROWS (R133): Issued command reads and translates its identifiers, reserves delta slots and schedules the rows to be zeroed at the next commit. -/
  | zeroRows (cmd : Nat)
  /-- PREFETCH (R139): Issued command reads each row not already held into the gob buffer of its home slice. -/
  | prefetch (cmd : Nat)
  /-- PIN_ROWS (R136): Issued command pins all of the named rows in punty entries, or none when space is short. -/
  | pinRows (cmd : Nat)
  /-- UNPIN (R138): PIN_ROWS with UNPIN set releases the issuing context's pins and places the rows in the basin. -/
  | unpin (cmd : Nat)
  /-- ROW_MIGRATE (R175): Issued command reserves placement entries and pool slots, then starts moves of the named rows toward DEST_TIER. -/
  | rowMigrate (cmd : Nat)
  /-- TABLE_DEFINE (R49): Admin command copies in and checks a descriptor and its shard map, and creates version 0 in LOADING. -/
  | tableDefine (cmd : Nat)
  /-- VERSION_OPEN (R62): Creates working version P+1 with an empty delta on a versioned trained table. -/
  | versionOpen (cmd : Nat)
  /-- TABLE_PUBLISH (R63): Requests that a LOADING or WORKING version become PUBLISHED at a single point. -/
  | tablePublish (cmd : Nat)
  /-- TABLE_RETIRE (R65): Sets a version RETIRING and withholds the reply until its in-flight count reaches zero. -/
  | tableRetire (cmd : Nat)
  /-- TABLE_LOAD (R68): Copies stored rows, or adapter matrix B, verbatim from memory into a LOADING version. -/
  | tableLoad (cmd : Nat)
  /-- TABLE_SAVE (R68): Writes the checked stored rows, or matrix B, of a snapshot version to memory. -/
  | tableSave (cmd : Nat)
  /-- STREAM_ARM (R259): Reads and checks a rill program and starts a new generation, or stores it as the pending arm. -/
  | streamArm (cmd : Nat)
  /-- STREAM_CANCEL (R261): Aborts a descriptor's pending arm and current generation at the next element boundary. -/
  | streamCancel (cmd : Nat)
  /-- COPY (R261): Moves BYTES bytes from SRC_ADDR to DST_ADDR as a one-element generation. -/
  | copy (cmd : Nat)
  /-- VALVE_SET (R284): VALVE_OP with OP 0 sets the valve count to VALUE. -/
  | valveSet (cmd : Timed Nat)
  /-- VALVE_ADD (R284): VALVE_OP with OP 1 adds VALUE to the valve count, saturating and recording VALVE_SAT. -/
  | valveAdd (cmd : Timed Nat)
  /-- VALVE_WAIT_GE (R285): VALVE_OP with OP 2 is held in the valve unit until the count is at least VALUE. -/
  | valveWaitGe (cmd : Nat)
  /-- VALVE_WAIT_EQ (R286): VALVE_OP with OP 3 is held until the count rests at VALUE at the end of a cycle. -/
  | valveWaitEq (cmd : Nat)
  /-- VALVE_READ (R284): VALVE_OP with OP 4 returns the valve count in DETAIL0. -/
  | valveRead (cmd : Nat)
  /-- CONTEXT_OPEN (R277): Admin command checks a context record and opens the context under a new generation with its valves at zero. -/
  | contextOpen (cmd : Nat)
  /-- CONTEXT_CLOSE (R289): Fences a context, drains or aborts its commands, releases its records, sends abort frames and quarantines it. -/
  | contextClose (cmd : Nat)
  /-- HALT (R255): Rill instruction that ends the program. -/
  | rillHalt (desc : DescNo)
  /-- LOOP (R255): Rill instruction that opens loop dimension D with its index at zero. -/
  | rillLoop (desc : DescNo)
  /-- NEXT (R255): Rill instruction that advances loop dimension D and branches back while the count is not reached. -/
  | rillNext (desc : DescNo)
  /-- MOVE (R257): Rill instruction that delivers one element from its computed source to its destination in transfers. -/
  | rillMove (desc : DescNo)
  /-- POST (R255): Rill instruction that adds 1 to a valve once every earlier element is delivered and flushed. -/
  | rillPost (desc : Timed DescNo)
  /-- WAIT (R255): Rill instruction that stalls its rill engine until the valve count reaches VALUE plus the optional index. -/
  | rillWait (desc : DescNo)
  /-- FENCE (R255): Rill instruction that waits until every earlier element is delivered. -/
  | rillFence (desc : DescNo)
  /-- DOORBELL (R29): A write to UM_Q_DOORBELL is checked for overrun and advances the accepted tail of the queue. -/
  | doorbell (q : QueueNo) (tail : BitVec 16)
  /-- DB_OVERRUN_CLEAR (R29): Clearing UM_Q_STAT.DB_OVERRUN returns an OVERRUN queue to ACTIVE. -/
  | dbOverrunClear (q : QueueNo)
  /-- ENABLE_SET (R407): Setting UM_Q_CTRL.ENABLE on a DISABLED queue accepts or refuses the enable and takes its credits from the pool. -/
  | enableSet (q : QueueNo)
  /-- ENABLE_CLEAR (R407): Clearing UM_Q_CTRL.ENABLE moves the queue to DRAINING or DISABLED, or clears only the bit when FENCED. -/
  | enableClear (q : QueueNo)
  /-- REPLY_RESET (R44): A write of UM_Q_CTRL.REPLY_RESET zeroes the ring pointers and SEQ of a DISABLED queue, or is refused. -/
  | replyReset (q : QueueNo) (enable : Bool)
  /-- REPLY_CI_WRITE (R42): A write to UM_Q_REPLY_CI advances the consumer index, or is refused as an underrun. -/
  | replyCiWrite (q : QueueNo) (ci : BitVec 16)
  /-- PACKET_FETCH (R30): A fetched packet arrives and is admitted with a credit, refused with ST_QUEUE_FULL, or closed on a FENCED queue. -/
  | packetFetch (q : QueueNo) (starts : Bool) (words : List Word)
  /-- ARBITER_GRANT (R45): The arbiter grants the next eligible queue's command to a free sequencer core within its round. -/
  | arbiterGrant
  /-- COMMAND_COMPLETE (R39): A command completes: flushes, completion flag, valve post and reply record in order, returning its credit. -/
  | commandComplete (cmd : Timed Nat)
  /-- FLUSH_READ_COMPLETE (R266): A zero-length flush or checkpoint read completes, making the covered host bytes known delivered. -/
  | flushReadComplete (cmd : Nat)
  /-- VALVE_WAIT_SATISFIED (R286): A held valve wait, WAIT_EN condition or rill WAIT finds its condition true after a cycle's modifications and proceeds. -/
  | valveWaitSatisfied (src : WaitSrc)
  /-- FETCH_DATA_RETURN (R125): Tiles of a fetched row arrive from a tier, pass or fail their checks and are handed on by early restart. -/
  | fetchDataReturn (fetch : Nat) (upset : List Nat) (ecc : List EccFinding)
  /-- WRITEBACK_COMPLETE (R128): The target tier reports a write-back complete and its cullet or hold entry is freed. -/
  | writebackComplete (slice : BitVec 5) (table : TableNo) (row : BitVec 40)
  /-- WEIR_POOL_REQUEST (R151): A weir takes a pool request, reads and checks the row once and adds it into open partials. -/
  | weirPoolRequest (fetch : Nat) (upset : List Nat) (ecc : List EccFinding)
  /-- PARTIAL_ARRIVAL (R152): A weir or remote partial reaches the home slice and enters its leaf as an exact term or max candidate. -/
  | partialArrival (part : Nat)
  /-- LANE_BLOCK_ISSUE (R237): A slice issues an interaction block of up to 256 ready samples when its lanes are free. -/
  | laneBlockIssue (slice : BitVec 4) (cmd : Nat)
  /-- TXB_PARITY_FAIL (R233): A column failing TXB parity sets TXB_FAIL and the running product is rerun by column read. -/
  | txbParityFail (slice : BitVec 5)
  /-- TOWER_FRAME_SEND (R105): The engine sends a pooled, interaction or END frame on a tower-port channel. -/
  | towerFrameSend (cmd : Nat) (n : Nat) (ready : Bool)
  /-- TOWER_ACCEPT_RESUME (R105): The tensor units raise acceptance and a stalled tower channel resumes transfer. -/
  | towerAcceptResume (channel : BitVec 4)
  /-- GRADIENT_FRAME (R202): An inbound gradient frame is claimed by a SCATTER_GRAD and checked, drained, or refused. -/
  | gradientFrame (channel : BitVec 4) (bytes : List Byte)
  /-- COMMIT_POINT (R218): A MERGE_APPLY commits: PENDING copies become DIRTY, the committed step rises, E is installed, ZERO_ROWS applies and slots and records are freed. -/
  | commitPoint (cmd : Nat)
  /-- PUBLISH_TAKES_EFFECT (R63): Once earlier TABLE_LOADs complete, the version becomes PUBLISHED, the old one SUPERSEDED and a new working version opens. -/
  | publishTakesEffect (cmd : Nat)
  /-- VERSION_FREE (R65): A RETIRING version's in-flight count reaches zero, it becomes FREE and the retire posts ST_OK. -/
  | versionFree (table : TableNo) (version : Word)
  /-- FOLD (R66): In the background the delta of B+1 is written into the base row by row and its overlay entries freed. -/
  | fold (row : FoldRead)
  /-- MOVE_START (R176): A MOVING row waits for issued writes, is read, checked and copied to its new slot. -/
  | moveStart (table : TableNo) (row : BitVec 40) (met : ReadMet)
  /-- MIGRATION_EPOCH (R179): Every EPOCH_US the engine swaps every MOVING row whose copy is complete and issues its held writes. -/
  | migrationEpoch
  /-- SKIM_WINDOW_END (R186): At each skimmer window end the supervisor sets the threshold, starts demotions, halves the sketch and rebuilds the placement filter. -/
  | skimWindowEnd
  /-- LOOKUP_REQ (R195): A home chip receives a lookup request, checks it and fetches and pools its rows at VERSION. -/
  | lookupReq (msg : List Byte)
  /-- PARTIAL_RSP (R197): A requester receives a partial response and adds its partials or fails the command by STATUS. -/
  | partialRsp (msg : List Byte)
  /-- LOOKUP_TIMEOUT (R197): No PARTIAL_RSP with LAST within UM_REMOTE_TMO completes the command with ST_REMOTE_LOST. -/
  | lookupTimeout (reqId : Word)
  /-- GRAD_PUSH_DATA (R210): A home chip receives GRAD_PUSH DATA, checks it and stores provisional slots, acknowledging by status. -/
  | gradPushData (msg : List Byte)
  /-- GRAD_PUSH_COMMIT (R210): A COMMIT push makes the sender's provisional slots slots of the step, or is refused after the merge began. -/
  | gradPushCommit (msg : List Byte)
  /-- GRAD_PUSH_DISCARD (R210): A DISCARD push frees the sender's provisional slots. -/
  | gradPushDiscard (msg : List Byte)
  /-- B_PARTIAL (R223): A chip receives a peer's dB partial for combining in the adapter B update. -/
  | bPartial (msg : List Byte)
  /-- B_PARTIAL_TIMEOUT (R223): A missing B partial after UM_REMOTE_TMO ends the MERGE_APPLY with ST_REMOTE_LOST and keeps the slots. -/
  | bPartialTimeout (cmd : Nat)
  /-- GRAD_ACK (R211): A sender receives an acknowledgement of a push and proceeds, commits or fails the SCATTER_GRAD. -/
  | gradAck (msg : List Byte)
  /-- GRAD_ACK_TIMEOUT (R211): No acknowledgement within UM_REMOTE_TMO ends the SCATTER_GRAD with ST_HW_ERROR and sends DISCARD. -/
  | gradAckTimeout (cmd : Nat)
  /-- MIGRATE_REQ (R174): A home chip receives forwarded ROW_MIGRATE rows and moves them. -/
  | migrateReq (msg : List Byte)
  /-- MIGRATE_ACK (R181): A requester receives acknowledgement of forwarded migration rows. -/
  | migrateAck (msg : List Byte)
  /-- MIGRATE_ACK_TIMEOUT (R181): No MIGRATE_ACK within UM_REMOTE_TMO ends ROW_MIGRATE with ST_REMOTE_LOST. -/
  | migrateAckTimeout (cmd : Nat)
  /-- REMOTE_BAD_MSG (R193): A message of a reserved kind is dropped and counted in UM_REMOTE_BAD_MSG. -/
  | remoteBadMsg (msg : List Byte)
  /-- ABORT_FRAME_RX (R317): A received abort frame frees the sender's provisional slots and resets the matching job's contexts. -/
  | abortFrameRx (msg : List Byte) (heldOff : Bool)
  /-- ABORT_TX_FAIL (R316): The transport reports an abort frame undelivered and ABORT_TX_FAIL is recorded. -/
  | abortTxFail (peer : ChipNo) (reason : Byte) (ctx : CtxNo)
  /-- FABRIC_ABORT_SEND (R316): A write to UM_FABRIC_ABORT_SEND sends a REASON 6 abort frame to every connected peer. -/
  | fabricAbortSend (job : Word)
  /-- NVME_COMPLETION (R191): An NVMe completion returns row data or an error that is retried or ends the use. -/
  | nvmeCompletion (io : Nat) (status : BitVec 8) (dnr : Bool) (data : List Byte)
  /-- NVMF_TIMEOUT (R191): No NVMe completion within UM_NVMF_TMO ends the use with ST_REMOTE_LOST. -/
  | nvmfTimeout (io : Nat)
  /-- NVMF_CONNECTION_LOST (R191): A lost target connection fails fetches and holds write-backs for reconnection. -/
  | nvmfConnectionLost (target : TargetNo)
  /-- NVMF_CONNECT (R190): Setting UM_NVMF_TGT_CTRL.CONNECT connects, and clearing it disconnects, an NVMe-oF target. -/
  | nvmfConnect (on : Bool) (answered : Bool) (capacity : Dword)
  /-- KEEP_ALIVE (R381): Every second the engine sends Keep Alive to each connected target. -/
  | keepAlive
  /-- RIM_PEER_CONNECT (R380): Setting UM_RIM_PEER_CTRL.CONNECT starts the connection-management exchange for a peer's queue pairs. -/
  | rimPeerConnect (on : Bool)
  /-- QP_RECONNECT (R380): Every 10 ms a queue pair in error is reconnected while CONNECT is 1 and the port is up. -/
  | qpReconnect (peer : ChipNo) (port : PortNo)
  /-- CM_MESSAGE (R380): A REQ, REP or RTU on QP1 advances the connection of a queue pair. -/
  | cmMessage (peer : ChipNo) (port : PortNo) (kind : CmKind)
  /-- CNP (R379): A received congestion notification halves the queue pair's send rate. -/
  | cnp (peer : ChipNo) (port : PortNo) (abortQp : Bool)
  /-- RATE_RECOVERY (R379): Every 50 µs a queue pair's send rate recovers by 5 % of line rate. -/
  | rateRecovery
  /-- RIM_LINK_DOWN (R193): A rim port going down reroutes peer traffic to the next port that is up. -/
  | rimLinkDown (port : PortNo)
  /-- TRANSLATION_FAULT (R262): The first host access lacking translation or permission stops the command and faults a generation. -/
  | translationFault (who : Mover) (addr : Dword) (write : Bool) (site : FaultSite)
  /-- ATS_TRANSLATION_COMPLETION (R262): A Translation Completion fills the translation cache and lets waiting accesses issue. -/
  | atsTranslationCompletion (entry : AtcEntry)
  /-- PRG_RESPONSE (R263): A page request response resumes the command at its cursor or leaves the fault unresolved. -/
  | prgResponse (who : Mover) (code : PrgCode)
  /-- PRI_TIMEOUT (R263): No page response within TMO_MS makes the fault unresolved and ends the command ST_XLATE_FAULT. -/
  | priTimeout (who : Mover)
  /-- ATS_INVALIDATE (R265): An Invalidate Request stops use of the entries and is completed after issued accesses drain. -/
  | atsInvalidate (space : Nat) (page : Dword) (size : Nat)
  /-- PENDING_ARM_PROMOTE (R260): In the cycle after a generation's reply a pending arm becomes the new ACTIVE generation. -/
  | pendingArmPromote (desc : DescNo)
  /-- MEMORY_READ_COMPLETION (R291): A NoC or host read completion delivers data to the command that issued it, or is dropped if that command ended. -/
  | memoryReadCompletion (ctx : CtxNo) (cmd : Nat) (addr : Dword) (data : List Byte)
  /-- LINK_DOWN (R269): The host data link layer going down closes the host-path sluice with CAUSE 1. -/
  | linkDown
  /-- HOSTPATH_STALL (R269): A host request waiting beyond UM_HOSTPATH_TMO closes the sluice with CAUSE 2. -/
  | hostpathStall
  /-- HOST_RESET (R269): A hot reset, bus reset, FLR or CXL reset closes the sluice with CAUSE 3. -/
  | hostReset
  /-- HOSTPATH_CLOSE (R269): A write of UM_HOSTPATH_CTRL.CLOSE closes the sluice with CAUSE 4. -/
  | hostpathClose
  /-- HC_LINK_UP (R358): The host link coming up during start-up opens the sluice without re-attach. -/
  | hcLinkUp (link : HostLink)
  /-- HOSTPATH_REATTACH (R272): A write of the current EPOCH reopens a CLOSED sluice and releases held queues, replies and write-backs. -/
  | hostpathReattach (epoch : BitVec 16) (unresolved : List Dword)
  /-- CLOSE_DRAIN_DEADLINE (R289): UM_DRAIN_TMO after a close's fence, commands still running end with ST_ABORTED. -/
  | closeDrainDeadline (ctx : CtxNo)
  /-- QUARANTINE_END (R292): A quarantined context becomes FREE when its last tag retires or 2 ms have passed. -/
  | quarantineEnd (ctx : CtxNo)
  /-- CONTEXT_OPEN_WAIT_TIMEOUT (R293): A CONTEXT_OPEN waiting on a quarantined context beyond UM_DRAIN_TMO ends ST_DRAIN_TIMEOUT. -/
  | contextOpenWaitTimeout (cmd : Nat)
  /-- CONTEXT_RESET (R294): A write to UM_CTX_RESET ends every command of the context at once and reopens it under a new generation. -/
  | contextReset (ctx : CtxNo) (jobAbort : Bool)
  /-- ENGINE_RESET (R311): UM_RESET_CTRL with RUNG 2 fences, dumps, ends commands and resets the engine compute. -/
  | engineReset
  /-- PARTITION_RESET (R311): UM_RESET_CTRL with RUNG 3 resets the compute and SRAM of one partition's slices. -/
  | partitionReset (part : BitVec 2)
  /-- CHIP_RESET (R311): UM_RESET_CTRL with RUNG 4 resets the ON-9 and restarts the engine. -/
  | chipReset (fwReload : Bool)
  /-- CHIP_RST_N (R385): CHIP_RST_N held low for at least 1 µs requests a chip reset. -/
  | chipRstN (lowNs : Nat)
  /-- RUNG_TIMEOUT (R312): A rung not finished within RUNG_TMO_US records RUNG_TIMEOUT and the next rung takes over. -/
  | rungTimeout
  /-- DUMP_TRIGGER (R318): A write of UM_DUMP_CTRL.TRIGGER collects a crash dump without a fence. -/
  | dumpTrigger
  /-- DUMP_SKIP (R320): A unit that does not answer a dump read within UNIT_TMO_US gets an empty section and a DUMP_SKIP record. -/
  | dumpSkip (unit : UnitId)
  /-- DUMP_ACK (R318): A write of UM_DUMP_CTRL.ACK clears UNREAD. -/
  | dumpAck
  /-- DUMP_DATA_READ (R318): A read of UM_DUMP_DATA returns 4 dump bytes and advances the offset. -/
  | dumpDataRead
  /-- HANG_SAMPLE (R309): Every PERIOD_US the hang detector samples progress, builds wait-for edges and classes stalled nodes. -/
  | hangSample
  /-- NOT_RESPONDING (R307): A unit request unanswered within UNIT_TMO_US records NOT_RESPONDING and resets its domain. -/
  | notResponding (unit : UnitId) (block : Byte)
  /-- CORE_FAULT (R306): A core memory error or state mismatch takes the core OFFLINE, ends its commands and maps in the spare. -/
  | coreFault (core : BitVec 4) (check : BitVec 4)
  /-- CORE_WATCHDOG_EXPIRY (R306): A core holding a command misses its 10 µs watchdog report and faults. -/
  | coreWatchdogExpiry (core : BitVec 4)
  /-- CORE_IMAGE_CHECK (R306): Every 100 ms each core's firmware image is checked against its CRC-32C. -/
  | coreImageCheck (bad : List Nat)
  /-- SRAM_UE (R305): An uncorrected SRAM error records SRAM_UE with the outcome of its structure. -/
  | sramUe (slice : BitVec 5) (code : BitVec 4) (addr : BitVec 24)
  /-- LANE_GROUP_FAULT (R304): A lane group failing its parity or duplicate check is taken over by the spare group. -/
  | laneGroupFault (slice : BitVec 5) (group : BitVec 5)
  /-- MAPPING_EPOCH (R324): A unit map changes: STANDBY units take vacant positions. -/
  | mappingEpoch
  /-- UNIT_OFFLINE (R323): UM_UNIT_CTRL.OFFLINE takes a unit out of service when a spare can take its place. -/
  | unitOffline
  /-- UNIT_RESTORE (R323): UM_UNIT_CTRL.RESTORE starts SCRUB of an OFFLINE unit. -/
  | unitRestore
  /-- UNIT_PREFER (R325): UM_UNIT_CTRL.PREFER makes a STANDBY slice take back its own position at the next partition reset. -/
  | unitPrefer
  /-- UNIT_SCRUB_DONE (R323): A unit finishes clearing and enters SELFTEST. -/
  | unitScrubDone (unit : UnitId)
  /-- SELFTEST_DONE (R323): A unit's self-test ends and it becomes STANDBY, OFFLINE or FAILED. -/
  | selftestDone (unit : UnitId) (pass : Bool)
  /-- CISTERN_SCRUB (R161): Vault controllers read every DRAM row once per PERIOD and correct errors. -/
  | cisternScrub (vault : BitVec 9) (found : List DramFinding)
  /-- VAULT_OUT (R165): A vault silent for 10 µs or over its error limit is taken out of service. -/
  | vaultOut (vault : BitVec 9) (cause : BitVec 2)
  /-- CHANNEL_OUT (R304): An HBM4 channel silent for 10 µs goes OFFLINE. -/
  | channelOut (channel : BitVec 8)
  /-- CISTERN_REFRESH (R159): Each vault is refreshed at the interval of its temperature band. -/
  | cisternRefresh (vault : BitVec 9)
  /-- HBM_REFRESH (R160): Each HBM4 stack is refreshed at the rate its temperature requires. -/
  | hbmRefresh (stack : BitVec 3) (rate : BitVec 3)
  /-- EXER_START (R166): UM_EXER_CTRL.START starts an exerciser run on an OFFLINE or SELFTEST unit, or is refused. -/
  | exerStart
  /-- EXER_DONE (R167): An exerciser run ends with DONE and PASS and poisons its range. -/
  | exerDone (kind : BitVec 1) (index : BitVec 9) (result : ExerResult)
  /-- BASIN_APPLY (R110): UM_BASIN_CTRL.APPLY writes back, invalidates and drops changed classes before installing the new geometry. -/
  | basinApply
  /-- BASIN_APPLY_DONE (R110): The last changed class is done, the new geometry is installed and APPLY_BUSY clears. -/
  | basinApplyDone
  /-- BASIN_FLUSH (R131): UM_BASIN_CTRL.FLUSH writes back every dirty way and punty entry while traffic continues. -/
  | basinFlush
  /-- BASIN_FLUSH_DONE (R131): Every copy dirty at the flush is written and FLUSH_BUSY clears. -/
  | basinFlushDone
  /-- PLACE_ROW_LOOKUP (R398): A write to UM_PLACE_ROW_SEL starts a lookup of the row's placement state. -/
  | placeRowLookup (table : TableNo) (row : BitVec 40)
  /-- SKIM_MODE_WRITE (R186): A write to UM_SKIM_CFG.MODE sets the skimmer mode and resets H to 256. -/
  | skimModeWrite (mode : BitVec 2)
  /-- PART_LAYOUT_WRITE (R280): A write to UM_PART_CFG.LAYOUT takes effect only while every other context is FREE. -/
  | partLayoutWrite (layout : BitVec 4)
  /-- REGISTER_WRITE (R11): An aperture write to a register with no behaviour of its own sets, clears or ignores bits by access type. -/
  | registerWrite (off : Offset) (size : Nat) (value : Dword)
  /-- RC_REGISTER_READ (R11): An aperture read of an RC register returns and then clears its value. -/
  | rcRegisterRead (off : Offset) (size : Nat)
  /-- MULTIWORD_LOW_READ (R389): A 4-byte read of a multi-word register's low word latches its other words. -/
  | multiwordLowRead (off : Offset)
  /-- FW_LOAD (R355): UM_FW_CTRL.LOAD checks a signed firmware image and copies it into the firmware store. -/
  | fwLoad (image : List Byte) (nocError : Bool)
  /-- COMMIT_SVN (R357): UM_FW_CTRL.COMMIT_SVN raises MIN_SVN to the running image's SVN. -/
  | commitSvn
  /-- FW_KEY_REVOKE (R357): A write to UM_FW_KEY_REVOKE revokes a firmware key slot. -/
  | fwKeyRevoke (slot : BitVec 2)
  /-- PWR_GOOD_RISE (R350): PWR_GOOD rising starts the SUPERVISOR phase of start-up. -/
  | pwrGoodRise (railOk : Bool)
  /-- MEMORY_PHASE (R353): Start-up initialises SRAM, self-tests and maps units, applies repairs, trains HBM4 and zeroes DRAM. -/
  | memoryPhase (bad : List UnitId)
  /-- CORES_PHASE (R350): After the image is verified the cores self-test and context 0 opens. -/
  | coresPhase (bad : List UnitId)
  /-- READY (R358): Start-up enters READY once the cores are up and the first hold-up test is done or 500 ms passed. -/
  | ready
  /-- CHIP_RESTART (R359): After a chip reset the engine reruns MEMORY, CORES and READY, reusing its firmware. -/
  | chipRestart (bad : List UnitId)
  /-- PWR_GOOD_FALL (R385): PWR_GOOD falling with no save running is a power loss without a record. -/
  | pwrGoodFall
  /-- REFCLK_FAIL (R366): An input clock stopped or out of tolerance for 10 µs fails its monitor. -/
  | refclkFail (which : RefClk)
  /-- MONITOR_SAMPLE (R329): Every 20 µs the supervisor samples its monitors and applies power, thermal and refresh decisions. -/
  | monitorSample (samples : List MonSample)
  /-- DROOP_EVENT (R338): A slice rail droop stretches that slice's clock for 32 cycles and is counted. -/
  | droopEvent (slice : BitVec 5)
  /-- DROOP_STEP_REMOVE (R338): After 100 ms with no slice over RATE one droop step is removed. -/
  | droopStepRemove
  /-- AGE_REPLAN (R339): At start-up, every PERIOD_H or on REPLAN the supervisor recomputes VFLOOR and FMAX. -/
  | ageReplan
  /-- RIM_EYE_CHECK (R340): Every 10 ms low-margin rim ports are retrained and failing pairs reported. -/
  | rimEyeCheck (port : PortNo) (pair : BitVec 4) (margin : Nat)
  /-- HBM_TRAINING (R340): Each channel repeats read and write training every HBM_PERIOD_MS. -/
  | hbmTraining (channel : BitVec 8)
  /-- HOLD_TEST (R348): At start-up and every TEST_H the hold-up capacitor is measured and flagged. -/
  | holdTest (dropUv : Nat) (chargedMv : Nat)
  /-- DOMAIN_GATE (R331): A domain idle for its count stops its clock, entering U1 when all are stopped. -/
  | domainGate (dom : Domain)
  /-- DOMAIN_RESTART (R331): A request reaching a stopped domain waits while the clock restarts. -/
  | domainRestart (dom : Domain)
  /-- SLICE_PARK (R332): A slice idle for PARK_US with no records is parked, entering U2 when all are. -/
  | slicePark (slice : BitVec 5)
  /-- U3_ENTRY (R333): UM_SUP_PSTATE_CTRL.TARGET 3 enters U3 after write-backs and staging, or is refused. -/
  | u3Entry
  /-- U3_WAKE (R333): A TARGET of 0 or an I3C wake returns the engine to U0 within 2 ms. -/
  | u3Wake
  /-- SAG_CONFIRM (R343): Two consecutive low sag samples confirm a sag and start a save with CAUSE 1. -/
  | sagConfirm (secondLow : Bool)
  /-- SUP_REC_DATA_READ (R346): A read of UM_SUP_REC_DATA returns 4 record bytes and advances the offset. -/
  | supRecDataRead
  /-- GET_STATUS (R383): I3C command returns 8 status bytes and clears CMD_ERR. -/
  | getStatus
  /-- SET_TRAY_LIMIT (R334): I3C command sets UM_SUP_TRAY_LIMIT and records TRAY_LIMIT. -/
  | setTrayLimit (watts : BitVec 16)
  /-- I3C_CHIP_RESET (R383): I3C command with key 0x5A requests rung 4. -/
  | i3cChipReset (key : Byte)
  /-- POWER_CYCLE (R383): I3C command with key 0xA5 starts the save of CAUSE 3 before power removal. -/
  | powerCycle (key : Byte)
  /-- ENTER_U3 (R383): I3C command requests U3 under R333. -/
  | enterU3
  /-- WAKE (R383): I3C command ends U3. -/
  | wake
  /-- REC_OFFSET (R383): I3C command sets the offset into the critical-state record. -/
  | recOffset (offset : Word)
  /-- REC_READ (R383): I3C command returns 64 record bytes and advances the offset. -/
  | recRead
  /-- MONITOR (R383): I3C command returns a monitor's filtered value. -/
  | monitor (kind : Byte) (index : Byte)
  /-- I3C_CCC (R382): The engine answers the supported I3C common command codes. -/
  | i3cCcc (code : I3cCode)
  /-- RIM_LINK_UP (R378): A rim port completes its training or retrain and comes up, taking in the spare lane pair where one has failed. -/
  | rimLinkUp (port : PortNo)
  /-- QUEUE_PAIR_ERROR (R380): A data or abort queue pair enters the error state and is shown as ERROR until reconnected. -/
  | queuePairError (peer : ChipNo) (port : PortNo) (abortQp : Bool)
  /-- NOC_WRITE_ACKNOWLEDGEMENT (R266): The network-on-chip acknowledges a chip-address write, counting its bytes as known delivered and letting a completion or POST flush finish. -/
  | nocWriteAcknowledgement (cmd : Nat) (bytes : Nat)
  /-- HOST_ENABLES_PRI (R263): The host enables PRI again for the engine's function, which clears UM_PRI_STAT.STOPPED. -/
  | hostEnablesPri
  /-- VREG_WORD_UNACKNOWLEDGED (R386): A regulator set-point word goes unacknowledged, is resent up to three times and is then recorded as MON_FAIL. -/
  | vregWordUnacknowledged (rail : BitVec 4)
  /-- RETENTION_WRITE_DONE (R361): A retention-store write finishes, clearing UM_RET_STAT.BUSY and setting FAILED_REGION when it failed. -/
  | retentionWriteDone (ok : Bool)
  /-- I3C_UNKNOWN_CODE (R383): An I3C private write with an unknown code, a wrong length or an out-of-range value is ignored and sets CMD_ERR. -/
  | i3cUnknownCode (bytes : List Byte)
  deriving DecidableEq, Repr

end Sys2Proof
end

