-- ==== Sys2Proof/Config.lean ====
section
/-! DEFINITION. The free values: constants with no body, so that nothing in Lean knows what they are. A statement about
one holds whatever it is (log entry 3). -/

namespace Sys2Proof.Config

/-- Byte `n` of what the manual names undefined (R6): the content of a region after a failed command (R106, R246), of a
destination written twice or read as a source (R256, R261), of a record left by hardware the manual does not describe. -/
opaque freeByte : Nat → Byte

/-- Word `n` of what the manual leaves open: one unstated 32-bit value. -/
opaque freeWord : Nat → Word

/-- KiB by which the overlay index is short for allocation `n`; 0 where it takes the table or version (R50, R62). The manual
gives no size of the index. -/
opaque overlayShort : Nat → Nat

/-- Whether a repair map that holds `n` entries takes no further one (R361). The manual gives no size of an entry. -/
opaque mapFull : Nat → Bool

/-- Whether a stack has no repair resource left for a DRAM row of a channel, `n` rows of the stack being repaired already (R164).
The manual gives no count of them. -/
opaque noSoftRepair : Nat → Nat → Nat → Bool

/-- Code, in steps of 5 mV, of the lowest core voltage at which the slowest monitored path meets 1.0 GHz with a margin in per cent, for
the worst slack of the ageing monitors in 0.01 %, none where no monitor gives one (R339, log entry 24). -/
opaque vfloorCode : Option Int → Nat → Nat

/-- The highest number of 25 MHz steps that meets the margin at a voltage in mV (R339, log entry 24). -/
opaque fmaxSteps : Option Int → Nat → Nat → Nat

end Sys2Proof.Config
end

