-- ==== Sys2Proof/Machine/Bits.lean ====
section
/-! DEFINITION. Bit fields, byte order, checksums and small list operations (R9, R10, R54, R299). -/

namespace Sys2Proof.Machine

/-- Bits [msb:lsb] of a number (R10). -/
def field (w : Nat) (msb lsb : Nat) : Nat := (w >>> lsb) % 2 ^ (msb + 1 - lsb)

/-- Bit i of a number. -/
def bit (w : Nat) (i : Nat) : Bool := w.testBit i

/-- 1 of true. -/
def b2n (b : Bool) : Nat := if b then 1 else 0

/-- The value of bytes, the lowest address first (R9). -/
def fromLE : List Byte → Nat
  | [] => 0
  | b :: bs => b.toNat + 256 * fromLE bs

/-- `n` bytes of a value, the lowest address first (R9). -/
def toLE : Nat → Nat → List Byte
  | 0, _ => []
  | n + 1, v => BitVec.ofNat 8 v :: toLE n (v / 256)

/-- A word's four bytes. -/
def wordBytes (w : Word) : List Byte := toLE 4 w.toNat

/-- `n` words of a byte string; bytes beyond the end read 0. -/
def wordsOf : Nat → List Byte → List Word
  | 0, _ => []
  | n + 1, bs => BitVec.ofNat 32 (fromLE (bs.take 4)) :: wordsOf n (bs.drop 4)

/-- Signed value of an n-bit field. -/
def signedOf (n v : Nat) : Int := if v % 2 ^ n < 2 ^ (n - 1) then (v % 2 ^ n : Nat) else (v % 2 ^ n : Nat) - (2 ^ n : Nat)

/-- Ceiling of a ÷ b. -/
def ceilDiv (a b : Nat) : Nat := (a + b - 1) / b

/-- Saturating event count of width n (R13). -/
def satAdd (n a b : Nat) : Nat := min (a + b) (2 ^ n - 1)

/-- Element i of a list of words; a word not there reads 0. -/
def wordAt (ws : List Word) (i : Nat) : Nat := (ws.getD i 0#32).toNat

/-- The list with element i replaced. -/
def setAt {α : Type} : List α → Nat → α → List α
  | [], _, _ => []
  | _ :: xs, 0, v => v :: xs
  | x :: xs, i + 1, v => x :: setAt xs i v

/-- The list with element i modified. -/
def modAt {α : Type} : List α → Nat → (α → α) → List α
  | [], _, _ => []
  | x :: xs, 0, f => f x :: xs
  | x :: xs, i + 1, f => x :: modAt xs i f

/-- Insertion into a list sorted by `lt`, after the entries not above it. -/
def insertBy {α : Type} (lt : α → α → Bool) (x : α) : List α → List α
  | [] => [x]
  | y :: ys => if lt x y then x :: y :: ys else y :: insertBy lt x ys

/-- The list sorted by `lt`, equal entries in their order. -/
def sortBy {α : Type} (lt : α → α → Bool) (xs : List α) : List α :=
  xs.foldl (fun acc x => insertBy lt x acc) []

/-- The list without repeats, first occurrences kept. -/
def dedup {α : Type} [DecidableEq α] (xs : List α) : List α :=
  xs.foldl (fun acc x => if x ∈ acc then acc else acc ++ [x]) []

/-- The largest of a list of numbers, 0 of none. -/
def maxOf (xs : List Nat) : Nat := xs.foldl max 0

/-- The sum of a list of numbers. -/
def sumOf (xs : List Nat) : Nat := xs.foldl (· + ·) 0

/-- The first n of 0, 1, 2, … that are not in the list. -/
def lowestFree (used : List Nat) : Nat → Nat → List Nat → List Nat
  | 0, _, acc => acc.reverse
  | k + 1, i, acc => if i ∈ used then lowestFree used k (i + 1) acc else lowestFree used k (i + 1) (i :: acc)

/-! ### Checksums -/

/-- `n` shift steps of a reflected CRC register with the reflected polynomial `poly`. -/
def crcShift (poly : Nat) : Nat → Nat → Nat
  | 0, c => c
  | n + 1, c => crcShift poly n (if c % 2 = 1 then (c / 2) ^^^ poly else c / 2)

/-- A reflected CRC over bytes, from a register value. -/
def crcBytes (poly : Nat) (c : Nat) (bs : List Byte) : Nat :=
  bs.foldl (fun c b => crcShift poly 8 (c ^^^ b.toNat)) c

/-- CRC-32C: polynomial 0x1EDC 6F41 reflected, initial value and final XOR all ones (R54). -/
def crc32c (bs : List Byte) : Nat := crcBytes 0x82F63B78 0xFFFFFFFF bs ^^^ 0xFFFFFFFF

/-- CRC-64 of ECMA-182, reflected, initial value and final XOR all ones (R299). -/
def crc64 (bs : List Byte) : Nat :=
  crcBytes 0xC96C5795D7870F42 0xFFFFFFFFFFFFFFFF bs ^^^ 0xFFFFFFFFFFFFFFFF

end Sys2Proof.Machine
end

