-- ==== Sys2Proof/Machine/Sparse.lean ====
section
/-! DEFINITION. Sparse data by key in one canonical form: keys strictly rising, and no entry equal to what an unlisted key
reads as. Memory, queues, contexts, tables, valves, descriptors and registers are all held so. -/

namespace Sys2Proof.Machine

/-- A finite map from keys to values, sorted by key. -/
abbrev Sparse (α : Type) := List (Nat × α)

namespace Sparse

/-- The value at key `k`; an unlisted key reads as `d`. -/
def get {α : Type} (d : α) : Sparse α → Nat → α
  | [], _ => d
  | (j, v) :: rest, k => if k = j then v else get d rest k

/-- The map without key `k`. -/
def erase {α : Type} (m : Sparse α) (k : Nat) : Sparse α := m.filter fun e => decide (e.1 ≠ k)

/-- The map with a new entry, before the first key above its own. -/
def place {α : Type} : Sparse α → Nat → α → Sparse α
  | [], k, v => [(k, v)]
  | (j, w) :: rest, k, v => if k < j then (k, v) :: (j, w) :: rest else (j, w) :: place rest k v

/-- The map with `v` at key `k`; writing what an unlisted key reads as removes the entry. -/
def set {α : Type} [DecidableEq α] (d : α) (m : Sparse α) (k : Nat) (v : α) : Sparse α :=
  if v = d then erase m k else place (erase m k) k v

/-- The map with `f` applied to each value listed; a value that becomes the default is not listed. -/
def mapVals {α : Type} [DecidableEq α] (d : α) (f : Nat → α → α) (m : Sparse α) : Sparse α :=
  (m.map fun e => (e.1, f e.1 e.2)).filter fun e => decide (e.2 ≠ d)

/-- Every key is at least `n`, the keys rise strictly, and no value is the default. -/
def wfFrom {α : Type} [DecidableEq α] (d : α) : Nat → Sparse α → Bool
  | _, [] => true
  | n, (j, v) :: rest => decide (n ≤ j) && decide (v ≠ d) && wfFrom d (j + 1) rest

/-- The canonical form. -/
def wf {α : Type} [DecidableEq α] (d : α) (m : Sparse α) : Bool := wfFrom d 0 m

/-- The keys listed. -/
def keys {α : Type} (m : Sparse α) : List Nat := m.map (·.1)

end Sparse

end Sys2Proof.Machine
end

