-- ==== Sys2Proof/Machine/RegMap.lean ====
section
/-! DEFINITION. The fields of the control aperture, one constant each, from the field maps of 16_control_aperture.md (R393 to
R402): offset, lowest bit, width, reset value, access type, selector and the range of values a write takes (outside it the
field keeps its value). The queue registers of R403 stand in the queue itself. -/

namespace Sys2Proof.Machine

/-- Access types (R11). -/
inductive Acc
  /-- read, write -/
  | rw
  /-- read only -/
  | ro
  /-- write 1 to clear -/
  | w1c
  /-- read clears -/
  | rc
  /-- write only -/
  | wo
  deriving DecidableEq, Repr

/-- What selects the register's shown object (R390). -/
inductive Sel
  /-- one register -/
  | none
  /-- UM_CTX_SEL -/
  | ctx
  /-- UM_VALVE_SEL -/
  | valve
  /-- UM_TBL_SEL -/
  | table
  /-- UM_BASIN_CLASS_SEL -/
  | cls
  /-- UM_BASIN_SLICE_SEL -/
  | slice
  /-- UM_BASIN_SLICE_SEL and UM_BASIN_CLASS_SEL -/
  | sliceCls
  /-- UM_CONF_SEL -/
  | conf
  /-- UM_LEHR_CTX_SEL -/
  | lehrCtx
  /-- UM_FN_SLOT_SEL -/
  | fnSlot
  /-- UM_FN_SLOT_SEL and UM_FN_ENTRY_SEL -/
  | fnEntry
  /-- UM_FN_CTX_SEL -/
  | fnCtx
  /-- UM_MEM_UNIT_SEL -/
  | memUnit
  /-- UM_EXER_SEL -/
  | exer
  /-- UM_PLACE_POOL_SEL -/
  | pool
  /-- UM_SKIM_TABLE_SEL -/
  | skimTable
  /-- UM_CXL_REGION_SEL -/
  | cxl
  /-- UM_NVMF_TGT_SEL -/
  | target
  /-- UM_RIM_PORT_SEL -/
  | port
  /-- UM_RIM_PEER_SEL -/
  | peer
  /-- UM_STREAM_DESC_SEL -/
  | desc
  /-- UM_UNIT_SEL -/
  | unit
  /-- UM_SUP_MON_SEL -/
  | mon
  deriving DecidableEq, Repr

/-- One field of a register. -/
structure Fld where
  /-- offset of the register -/
  off : Nat
  /-- lowest bit in the register -/
  lsb : Nat
  /-- bits -/
  width : Nat
  /-- value at power good (R391) -/
  reset : Nat
  /-- access type -/
  acc : Acc
  /-- selector -/
  sel : Sel
  /-- least value a write takes -/
  lo : Nat
  /-- largest value a write takes -/
  hi : Nat
  deriving DecidableEq, Repr

/-- Key of a field of object `i` in the register store. -/
def Fld.key (f : Fld) (i : Nat) : Nat := (i * 65536 + f.off) * 512 + f.lsb

namespace Reg

/-- UM_ID.PART_ID [15:0] (R393): Part number: 0x0E09 on every part of this design -/
def ID_PART_ID : Fld := ⟨0x0000, 0, 16, 3593, .ro, .none, 0, (2 ^ 16 - 1)⟩
/-- UM_ID.STEPPING [23:16] (R393): Stepping: major in [23:20], minor in [19:16]; 0x11 on the stepping that this manual describes -/
def ID_STEPPING : Fld := ⟨0x0000, 16, 8, 17, .ro, .none, 0, (2 ^ 8 - 1)⟩
/-- UM_BOOT_STAT.PHASE [2:0] (R393): Table 1 of 14_startup_reset_state.md -/
def BOOT_STAT_PHASE : Fld := ⟨0x0004, 0, 3, 0, .ro, .none, 0, (2 ^ 3 - 1)⟩
/-- UM_BOOT_STAT.ERR [10:8] (R393): Table 2 of that chapter -/
def BOOT_STAT_ERR : Fld := ⟨0x0004, 8, 3, 0, .ro, .none, 0, (2 ^ 3 - 1)⟩
/-- UM_BOOT_STAT.COUNT [20:16] (R393): Slices that passed, under ERR 2 -/
def BOOT_STAT_COUNT : Fld := ⟨0x0004, 16, 5, 0, .ro, .none, 0, (2 ^ 5 - 1)⟩
/-- UM_CYCLE_COUNT.COUNT [63:0] (R393): R295 -/
def CYCLE_COUNT_COUNT : Fld := ⟨0x0008, 0, 64, 0, .ro, .none, 0, (2 ^ 64 - 1)⟩
/-- UM_CHIP_ID.CHIP [11:0] (R393): R193 -/
def CHIP_ID_CHIP : Fld := ⟨0x0010, 0, 12, 0, .rw, .none, 0, (2 ^ 12 - 1)⟩
/-- UM_JOB_CHIPS.CHIPS [12:0] (R393): R299; 0 and values above 4,096 ignored -/
def JOB_CHIPS_CHIPS : Fld := ⟨0x0014, 0, 13, 1, .rw, .none, 1, 4096⟩
/-- UM_IRQ_MASK.ERR [0] (R393): R375 -/
def IRQ_MASK_ERR : Fld := ⟨0x0018, 0, 1, 1, .rw, .none, 0, (2 ^ 1 - 1)⟩
/-- UM_FW_IMAGE_ADDR.ADDR [63:12] (R393): Chip address of the image, R355 -/
def FW_IMAGE_ADDR_ADDR : Fld := ⟨0x0020, 12, 52, 0, .rw, .none, 0, (2 ^ 52 - 1)⟩
/-- UM_FW_CTRL.LOAD [0] (R393): R355 -/
def FW_CTRL_LOAD : Fld := ⟨0x0028, 0, 1, 0, .wo, .none, 0, (2 ^ 1 - 1)⟩
/-- UM_FW_CTRL.COMMIT_SVN [1] (R393): R357 -/
def FW_CTRL_COMMIT_SVN : Fld := ⟨0x0028, 1, 1, 0, .wo, .none, 0, (2 ^ 1 - 1)⟩
/-- UM_FW_STAT.RESULT [2:0] (R393): 0 none; codes of Table 4 of 14_startup_reset_state.md -/
def FW_STAT_RESULT : Fld := ⟨0x002C, 0, 3, 0, .ro, .none, 0, (2 ^ 3 - 1)⟩
/-- UM_FW_STAT.REFUSED [4] (R393): R355 -/
def FW_STAT_REFUSED : Fld := ⟨0x002C, 4, 1, 0, .w1c, .none, 0, (2 ^ 1 - 1)⟩
/-- UM_FW_FAIL_CNT.COUNT [31:0] (R393): Failed checks -/
def FW_FAIL_CNT_COUNT : Fld := ⟨0x0030, 0, 32, 0, .rc, .none, 0, (2 ^ 32 - 1)⟩
/-- UM_FW_KEY_REVOKE.SLOT [1:0] (R393): R357 -/
def FW_KEY_REVOKE_SLOT : Fld := ⟨0x0034, 0, 2, 0, .wo, .none, 0, (2 ^ 2 - 1)⟩
/-- UM_FW_BUILD.BUILD_ID [63:0] (R393): Of the running image -/
def FW_BUILD_BUILD_ID : Fld := ⟨0x0038, 0, 64, 0, .ro, .none, 0, (2 ^ 64 - 1)⟩
/-- UM_FW_SEC_STAT.MIN_SVN [31:0] (R393): R357 -/
def FW_SEC_STAT_MIN_SVN : Fld := ⟨0x0040, 0, 32, 0, .ro, .none, 0, (2 ^ 32 - 1)⟩
/-- UM_FW_SEC_STAT.SVN [63:32] (R393): Of the running image -/
def FW_SEC_STAT_SVN : Fld := ⟨0x0040, 32, 32, 0, .ro, .none, 0, (2 ^ 32 - 1)⟩
/-- UM_FW_SEC_STAT.REVOKED [67:64] (R393): One bit per key slot -/
def FW_SEC_STAT_REVOKED : Fld := ⟨0x0040, 64, 4, 0, .ro, .none, 0, (2 ^ 4 - 1)⟩
/-- UM_FW_SEC_STAT.KEY_INDEX [73:72] (R393): Of the running image -/
def FW_SEC_STAT_KEY_INDEX : Fld := ⟨0x0040, 72, 2, 0, .ro, .none, 0, (2 ^ 2 - 1)⟩
/-- UM_RET_STAT.BUSY [0] (R393): A retention write runs -/
def RET_STAT_BUSY : Fld := ⟨0x0050, 0, 1, 0, .ro, .none, 0, (2 ^ 1 - 1)⟩
/-- UM_RET_STAT.FAILED_REGION [6:4] (R393): Last failed write: 0 none, 1 configuration, 2 security, 3 repair, 4 ageing, 5 record A, 6 record B -/
def RET_STAT_FAILED_REGION : Fld := ⟨0x0050, 4, 3, 0, .ro, .none, 0, (2 ^ 3 - 1)⟩
/-- UM_RET_STAT.MAP_FULL [8] (R393): R361 -/
def RET_STAT_MAP_FULL : Fld := ⟨0x0050, 8, 1, 0, .ro, .none, 0, (2 ^ 1 - 1)⟩
/-- UM_RET_CFG_SERIAL.SERIAL [63:0] (R393): Table 6 of 14_startup_reset_state.md -/
def RET_CFG_SERIAL_SERIAL : Fld := ⟨0x0080, 0, 64, 0, .ro, .none, 0, (2 ^ 64 - 1)⟩
/-- UM_RET_CFG_VOLT.V_ABS_MIN [9:0] (R393): mV -/
def RET_CFG_VOLT_V_ABS_MIN : Fld := ⟨0x0088, 0, 10, 600, .ro, .none, 0, (2 ^ 10 - 1)⟩
/-- UM_RET_CFG_VOLT.V_ABS_MAX [25:16] (R393): mV -/
def RET_CFG_VOLT_V_ABS_MAX : Fld := ⟨0x0088, 16, 10, 850, .ro, .none, 0, (2 ^ 10 - 1)⟩
/-- UM_RET_CFG_MISC.FMAX_CAP [10:0] (R393): MHz -/
def RET_CFG_MISC_FMAX_CAP : Fld := ⟨0x008C, 0, 11, 1000, .ro, .none, 0, (2 ^ 11 - 1)⟩
/-- UM_RET_CFG_MISC.BOOT_EXER [16] (R393): R353 -/
def RET_CFG_MISC_BOOT_EXER : Fld := ⟨0x008C, 16, 1, 0, .ro, .none, 0, (2 ^ 1 - 1)⟩
/-- UM_RET_CFG_TEST_TIME.TEST_TIME [63:0] (R393): Seconds since 1970 -/
def RET_CFG_TEST_TIME_TEST_TIME : Fld := ⟨0x0090, 0, 64, 0, .ro, .none, 0, (2 ^ 64 - 1)⟩
/-- UM_Q_CREDIT_POOL.FREE [14:0] (R394): R26 -/
def Q_CREDIT_POOL_FREE : Fld := ⟨0x0400, 0, 15, 16384, .ro, .none, 0, (2 ^ 15 - 1)⟩
/-- UM_ARB_AGE_LIMIT.LIMIT [7:0] (R394): R46; 0 ignored -/
def ARB_AGE_LIMIT_LIMIT : Fld := ⟨0x0404, 0, 8, 16, .rw, .none, 1, (2 ^ 8 - 1)⟩
/-- UM_CTX_SEL.CTX [7:0] (R394): Selected context -/
def CTX_SEL_CTX : Fld := ⟨0x0410, 0, 8, 0, .rw, .none, 0, (2 ^ 8 - 1)⟩
/-- UM_CTX_STAT.STATE [2:0] (R394): Table 2 of 11_contexts_valves_determinism.md -/
def CTX_STAT_STATE : Fld := ⟨0x0418, 0, 3, 0, .ro, .ctx, 0, (2 ^ 3 - 1)⟩
/-- UM_CTX_STAT.KIND [9:8] (R394): 1 training, 2 serving; context 0 reads 2 once open (R275) -/
def CTX_STAT_KIND : Fld := ⟨0x0418, 8, 2, 0, .ro, .ctx, 0, (2 ^ 2 - 1)⟩
/-- UM_CTX_STAT.PARTITION [17:16] (R394): R276 -/
def CTX_STAT_PARTITION : Fld := ⟨0x0418, 16, 2, 0, .ro, .ctx, 0, (2 ^ 2 - 1)⟩
/-- UM_CTX_STAT.GEN [63:32] (R394): R290 -/
def CTX_STAT_GEN : Fld := ⟨0x0418, 32, 32, 0, .ro, .ctx, 0, (2 ^ 32 - 1)⟩
/-- UM_CTX_LATE_CNT.COUNT [31:0] (R394): R291 -/
def CTX_LATE_CNT_COUNT : Fld := ⟨0x0420, 0, 32, 0, .rc, .ctx, 0, (2 ^ 32 - 1)⟩
/-- UM_CTX_JOB.JOB_ID [31:0] (R394): R314 -/
def CTX_JOB_JOB_ID : Fld := ⟨0x0424, 0, 32, 0, .rw, .ctx, 0, (2 ^ 32 - 1)⟩
/-- UM_CTX_RESET.CTX [7:0] (R394): R294 -/
def CTX_RESET_CTX : Fld := ⟨0x0428, 0, 8, 0, .wo, .none, 0, (2 ^ 8 - 1)⟩
/-- UM_CTX_RESET.JOB_ABORT [8] (R394): R316 -/
def CTX_RESET_JOB_ABORT : Fld := ⟨0x0428, 8, 1, 0, .wo, .none, 0, (2 ^ 1 - 1)⟩
/-- UM_DRAIN_TMO.US [19:0] (R394): R289; 0 ignored -/
def DRAIN_TMO_US : Fld := ⟨0x042C, 0, 20, 1000, .rw, .none, 1, (2 ^ 20 - 1)⟩
/-- UM_PART_CFG.LAYOUT [3:0] (R394): R280 -/
def PART_CFG_LAYOUT : Fld := ⟨0x0430, 0, 4, 0, .rw, .none, 0, (2 ^ 4 - 1)⟩
/-- UM_PART_STAT.CFG_ERR [0] (R394): R280 -/
def PART_STAT_CFG_ERR : Fld := ⟨0x0434, 0, 1, 0, .w1c, .none, 0, (2 ^ 1 - 1)⟩
/-- UM_VALVE_SEL.VALVE [15:0] (R394): Selected valve -/
def VALVE_SEL_VALVE : Fld := ⟨0x0440, 0, 16, 0, .rw, .none, 0, (2 ^ 16 - 1)⟩
/-- UM_VALVE_COUNT.COUNT [31:0] (R394): R283 -/
def VALVE_COUNT_COUNT : Fld := ⟨0x0444, 0, 32, 0, .ro, .valve, 0, (2 ^ 32 - 1)⟩
/-- UM_VALVE_STAT.SAT [0] (R394): R284; engine-wide, set by a saturation of any valve -/
def VALVE_STAT_SAT : Fld := ⟨0x0448, 0, 1, 0, .w1c, .none, 0, (2 ^ 1 - 1)⟩
/-- UM_VALVE_STAT.LAST [31:16] (R394): Valve of the most recent saturation, engine-wide -/
def VALVE_STAT_LAST : Fld := ⟨0x0448, 16, 16, 0, .ro, .none, 0, (2 ^ 16 - 1)⟩
/-- UM_TBL_SEL.TABLE [11:0] (R395): Selected table -/
def TBL_SEL_TABLE : Fld := ⟨0x0800, 0, 12, 0, .rw, .none, 0, (2 ^ 12 - 1)⟩
/-- UM_TBL_VER_SEL.VERSION [31:0] (R395): Version for the two registers below -/
def TBL_VER_SEL_VERSION : Fld := ⟨0x0804, 0, 32, 0, .rw, .none, 0, (2 ^ 32 - 1)⟩
/-- UM_TBL_COMMIT_STEP.STEP [31:0] (R395): R16 -/
def TBL_COMMIT_STEP_STEP : Fld := ⟨0x0808, 0, 32, 0, .ro, .table, 0, (2 ^ 32 - 1)⟩
/-- UM_TBL_PUB_VER.VERSION [31:0] (R395): R61 -/
def TBL_PUB_VER_VERSION : Fld := ⟨0x080C, 0, 32, 4294967295, .ro, .table, 0, (2 ^ 32 - 1)⟩
/-- UM_TBL_WORK_VER.VERSION [31:0] (R395): R61 -/
def TBL_WORK_VER_VERSION : Fld := ⟨0x0810, 0, 32, 4294967295, .ro, .table, 0, (2 ^ 32 - 1)⟩
/-- UM_TBL_BASE_VER.VERSION [31:0] (R395): R61 -/
def TBL_BASE_VER_VERSION : Fld := ⟨0x0814, 0, 32, 4294967295, .ro, .table, 0, (2 ^ 32 - 1)⟩
/-- UM_TBL_VER_STATE.STATE [2:0] (R395): 0 never created; 1 to 6 as Table 5 of 03_tables_versions.md -/
def TBL_VER_STATE_STATE : Fld := ⟨0x0818, 0, 3, 0, .ro, .table, 0, (2 ^ 3 - 1)⟩
/-- UM_TBL_INFLIGHT.COUNT [31:0] (R395): R70 -/
def TBL_INFLIGHT_COUNT : Fld := ⟨0x081C, 0, 32, 0, .ro, .table, 0, (2 ^ 32 - 1)⟩
/-- UM_TBL_PAD_CNT.COUNT [31:0] (R395): R57 -/
def TBL_PAD_CNT_COUNT : Fld := ⟨0x0820, 0, 32, 0, .rc, .table, 0, (2 ^ 32 - 1)⟩
/-- UM_TBL_INVALID_CNT.COUNT [31:0] (R395): R57 -/
def TBL_INVALID_CNT_COUNT : Fld := ⟨0x0824, 0, 32, 0, .rc, .table, 0, (2 ^ 32 - 1)⟩
/-- UM_TBL_MISSING_CNT.COUNT [31:0] (R395): R57 -/
def TBL_MISSING_CNT_COUNT : Fld := ⟨0x0828, 0, 32, 0, .rc, .table, 0, (2 ^ 32 - 1)⟩
/-- UM_TBL_DELTA_USED.SLOTS [31:0] (R395): R67 -/
def TBL_DELTA_USED_SLOTS : Fld := ⟨0x082C, 0, 32, 0, .ro, .table, 0, (2 ^ 32 - 1)⟩
/-- UM_TBL_FOLD_ROWS.ROWS [39:0] (R395): R66 -/
def TBL_FOLD_ROWS_ROWS : Fld := ⟨0x0830, 0, 40, 0, .ro, .table, 0, (2 ^ 40 - 1)⟩
/-- UM_TBL_GRAD_EXP.E [7:0] (R395): Signed, R201 -/
def TBL_GRAD_EXP_E : Fld := ⟨0x0838, 0, 8, 0, .ro, .table, 0, (2 ^ 8 - 1)⟩
/-- UM_TBL_GRAD_AMAX.AMAX [31:0] (R395): FP32, R219 -/
def TBL_GRAD_AMAX_AMAX : Fld := ⟨0x083C, 0, 32, 0, .ro, .table, 0, (2 ^ 32 - 1)⟩
/-- UM_TBL_GRAD_NONFINITE_CNT.COUNT [31:0] (R395): R219 -/
def TBL_GRAD_NONFINITE_CNT_COUNT : Fld := ⟨0x0840, 0, 32, 0, .rc, .table, 0, (2 ^ 32 - 1)⟩
/-- UM_TBL_MERGE_CORRUPT_CNT.COUNT [31:0] (R395): R217 -/
def TBL_MERGE_CORRUPT_CNT_COUNT : Fld := ⟨0x0844, 0, 32, 0, .rc, .table, 0, (2 ^ 32 - 1)⟩
/-- UM_BASIN_CLASS_SEL.CLASS [3:0] (R396): Selected class -/
def BASIN_CLASS_SEL_CLASS : Fld := ⟨0x0C00, 0, 4, 0, .rw, .none, 0, (2 ^ 4 - 1)⟩
/-- UM_BASIN_CLASS_CFG.GRANULES [8:0] (R396): R109 -/
def BASIN_CLASS_CFG_GRANULES : Fld := ⟨0x0C04, 0, 9, 0, .rw, .cls, 0, (2 ^ 9 - 1)⟩
/-- UM_BASIN_CLASS_CFG.WAYS [16:12] (R396): R109 -/
def BASIN_CLASS_CFG_WAYS : Fld := ⟨0x0C04, 12, 5, 8, .rw, .cls, 0, (2 ^ 5 - 1)⟩
/-- UM_BASIN_CLASS_CFG.SLOT_LOG2 [24:20] (R396): R109 -/
def BASIN_CLASS_CFG_SLOT_LOG2 : Fld := ⟨0x0C04, 20, 5, 10, .rw, .cls, 0, (2 ^ 5 - 1)⟩
/-- UM_BASIN_CLASS_CFG.FREQ_FILTER [28] (R396): R121 -/
def BASIN_CLASS_CFG_FREQ_FILTER : Fld := ⟨0x0C04, 28, 1, 1, .rw, .cls, 0, (2 ^ 1 - 1)⟩
/-- UM_BASIN_CTRL.APPLY [0] (R396): R110 -/
def BASIN_CTRL_APPLY : Fld := ⟨0x0C08, 0, 1, 0, .wo, .none, 0, (2 ^ 1 - 1)⟩
/-- UM_BASIN_CTRL.FLUSH [1] (R396): R131 -/
def BASIN_CTRL_FLUSH : Fld := ⟨0x0C08, 1, 1, 0, .wo, .none, 0, (2 ^ 1 - 1)⟩
/-- UM_BASIN_STAT.APPLY_BUSY [0] (R396): R110 -/
def BASIN_STAT_APPLY_BUSY : Fld := ⟨0x0C0C, 0, 1, 0, .ro, .none, 0, (2 ^ 1 - 1)⟩
/-- UM_BASIN_STAT.FLUSH_BUSY [1] (R396): R131 -/
def BASIN_STAT_FLUSH_BUSY : Fld := ⟨0x0C0C, 1, 1, 0, .ro, .none, 0, (2 ^ 1 - 1)⟩
/-- UM_BASIN_STAT.CFG_ERR [2] (R396): R110 -/
def BASIN_STAT_CFG_ERR : Fld := ⟨0x0C0C, 2, 1, 0, .w1c, .none, 0, (2 ^ 1 - 1)⟩
/-- UM_BASIN_STAT.GRANULES_FREE [24:16] (R396): R112 -/
def BASIN_STAT_GRANULES_FREE : Fld := ⟨0x0C0C, 16, 9, 0, .ro, .none, 0, (2 ^ 9 - 1)⟩
/-- UM_BASIN_WAY_FAIL.THRESH [3:0] (R396): R142; 0 ignored -/
def BASIN_WAY_FAIL_THRESH : Fld := ⟨0x0C10, 0, 4, 2, .rw, .none, 1, (2 ^ 4 - 1)⟩
/-- UM_BASIN_WAY_FAIL.WINDOW [31:16] (R396): ms; 0 ignored -/
def BASIN_WAY_FAIL_WINDOW : Fld := ⟨0x0C10, 16, 16, 1000, .rw, .none, 1, (2 ^ 16 - 1)⟩
/-- UM_BASIN_SLICE_SEL.SLICE [4:0] (R396): Physical slice -/
def BASIN_SLICE_SEL_SLICE : Fld := ⟨0x0C14, 0, 5, 0, .rw, .none, 0, (2 ^ 5 - 1)⟩
/-- UM_BASIN_HIT_CNT.COUNT [31:0] (R396): Slice, class -/
def BASIN_HIT_CNT_COUNT : Fld := ⟨0x0C18, 0, 32, 0, .rc, .sliceCls, 0, (2 ^ 32 - 1)⟩
/-- UM_BASIN_MISS_CNT.COUNT [31:0] (R396): Slice, class -/
def BASIN_MISS_CNT_COUNT : Fld := ⟨0x0C1C, 0, 32, 0, .rc, .sliceCls, 0, (2 ^ 32 - 1)⟩
/-- UM_BASIN_DISABLED_CNT.WAYS [11:0] (R396): Slice; R142 -/
def BASIN_DISABLED_CNT_WAYS : Fld := ⟨0x0C20, 0, 12, 0, .ro, .slice, 0, (2 ^ 12 - 1)⟩
/-- UM_PUNTY_USED.ENTRIES [5:0] (R396): Slice; R136 -/
def PUNTY_USED_ENTRIES : Fld := ⟨0x0C24, 0, 6, 0, .ro, .slice, 0, (2 ^ 6 - 1)⟩
/-- UM_GOB_PROMOTE_CNT.COUNT [31:0] (R396): Slice; R140 -/
def GOB_PROMOTE_CNT_COUNT : Fld := ⟨0x0C28, 0, 32, 0, .rc, .slice, 0, (2 ^ 32 - 1)⟩
/-- UM_GOB_DROP_CNT.COUNT [31:0] (R396): Slice; R140 -/
def GOB_DROP_CNT_COUNT : Fld := ⟨0x0C2C, 0, 32, 0, .rc, .slice, 0, (2 ^ 32 - 1)⟩
/-- UM_CULLET_STALL_CNT.COUNT [31:0] (R396): Slice; R128 -/
def CULLET_STALL_CNT_COUNT : Fld := ⟨0x0C30, 0, 32, 0, .rc, .slice, 0, (2 ^ 32 - 1)⟩
/-- UM_CULLET_HOST_HELD.TILES [11:0] (R396): Slice; R130 -/
def CULLET_HOST_HELD_TILES : Fld := ⟨0x0C34, 0, 12, 0, .ro, .slice, 0, (2 ^ 12 - 1)⟩
/-- UM_CONF_SEL.SLICE [4:0] (R396): Physical slice -/
def CONF_SEL_SLICE : Fld := ⟨0x0C40, 0, 5, 0, .rw, .none, 0, (2 ^ 5 - 1)⟩
/-- UM_CONF_FREE.TILES [16:0] (R396): Conf; R207 -/
def CONF_FREE_TILES : Fld := ⟨0x0C44, 0, 17, 130048, .ro, .conf, 0, (2 ^ 17 - 1)⟩
/-- UM_CONF_NOSPACE_CNT.COUNT [31:0] (R396): Conf; R208 -/
def CONF_NOSPACE_CNT_COUNT : Fld := ⟨0x0C48, 0, 32, 0, .rc, .conf, 0, (2 ^ 32 - 1)⟩
/-- UM_LEHR_FREE.KIB [12:0] (R396): Conf -/
def LEHR_FREE_KIB : Fld := ⟨0x0C4C, 0, 13, 4096, .ro, .conf, 0, (2 ^ 13 - 1)⟩
/-- UM_SRAM_CE_CNT.COUNT [31:0] (R396): Conf; R305 -/
def SRAM_CE_CNT_COUNT : Fld := ⟨0x0C50, 0, 32, 0, .rc, .conf, 0, (2 ^ 32 - 1)⟩
/-- UM_LANE_STAT.TXB_FAIL [0] (R396): Conf; R233 -/
def LANE_STAT_TXB_FAIL : Fld := ⟨0x0C54, 0, 1, 0, .ro, .conf, 0, (2 ^ 1 - 1)⟩
/-- UM_LANE_STAT.COLREAD [1] (R396): Conf; R233 -/
def LANE_STAT_COLREAD : Fld := ⟨0x0C54, 1, 1, 0, .ro, .conf, 0, (2 ^ 1 - 1)⟩
/-- UM_LEHR_RECOMPUTE_CNT.COUNT [31:0] (R396): R225 -/
def LEHR_RECOMPUTE_CNT_COUNT : Fld := ⟨0x0C58, 0, 32, 0, .rc, .none, 0, (2 ^ 32 - 1)⟩
/-- UM_LEHR_UNUSED_CNT.COUNT [31:0] (R396): R227 -/
def LEHR_UNUSED_CNT_COUNT : Fld := ⟨0x0C5C, 0, 32, 0, .rc, .none, 0, (2 ^ 32 - 1)⟩
/-- UM_LEHR_WAIT_CNT.COUNT [31:0] (R396): R224 -/
def LEHR_WAIT_CNT_COUNT : Fld := ⟨0x0C60, 0, 32, 0, .rc, .none, 0, (2 ^ 32 - 1)⟩
/-- UM_LEHR_CTX_SEL.CTX [7:0] (R396): Selected context -/
def LEHR_CTX_SEL_CTX : Fld := ⟨0x0C68, 0, 8, 0, .rw, .none, 0, (2 ^ 8 - 1)⟩
/-- UM_LEHR_SPILL_BASE.BASE [63:16] (R396): Cistern address, R224 -/
def LEHR_SPILL_BASE_BASE : Fld := ⟨0x0C70, 16, 48, 0, .rw, .lehrCtx, 0, (2 ^ 48 - 1)⟩
/-- UM_LEHR_SPILL_LEN.LEN [15:0] (R396): In 64 KiB -/
def LEHR_SPILL_LEN_LEN : Fld := ⟨0x0C78, 0, 16, 0, .rw, .lehrCtx, 0, (2 ^ 16 - 1)⟩
/-- UM_LEHR_SPILL_USED.KIB [25:0] (R396): R224 -/
def LEHR_SPILL_USED_KIB : Fld := ⟨0x0C7C, 0, 26, 0, .ro, .lehrCtx, 0, (2 ^ 26 - 1)⟩
/-- UM_LANE_CTRL.TXB_EN [0] (R396): R233 -/
def LANE_CTRL_TXB_EN : Fld := ⟨0x0C80, 0, 1, 1, .rw, .none, 0, (2 ^ 1 - 1)⟩
/-- UM_LANE_SCHED.PATTERN [15:0] (R396): R250 -/
def LANE_SCHED_PATTERN : Fld := ⟨0x0C84, 0, 16, 43690, .rw, .none, 0, (2 ^ 16 - 1)⟩
/-- UM_LANE_SCHED.AGE [23:16] (R396): R250; 0 ignored -/
def LANE_SCHED_AGE : Fld := ⟨0x0C84, 16, 8, 64, .rw, .none, 1, (2 ^ 8 - 1)⟩
/-- UM_NORM_EPS.EPS [31:0] (R396): FP32, R98 -/
def NORM_EPS_EPS : Fld := ⟨0x0C88, 0, 32, 730643660, .rw, .none, 0, (2 ^ 32 - 1)⟩
/-- UM_FN_SLOT_SEL.SLOT [3:0] (R396): R239 -/
def FN_SLOT_SEL_SLOT : Fld := ⟨0x0C90, 0, 4, 0, .rw, .none, 0, (2 ^ 4 - 1)⟩
/-- UM_FN_XMIN.X_MIN [31:0] (R396): FP32, selected slot -/
def FN_XMIN_X_MIN : Fld := ⟨0x0C94, 0, 32, 0, .rw, .fnSlot, 0, (2 ^ 32 - 1)⟩
/-- UM_FN_CFG.LOG2_STEP [5:0] (R396): Signed, −24 to 24 -/
def FN_CFG_LOG2_STEP : Fld := ⟨0x0C98, 0, 6, 0, .rw, .fnSlot, 0, (2 ^ 6 - 1)⟩
/-- UM_FN_STAT.CFG_ERR [0] (R396): R239 -/
def FN_STAT_CFG_ERR : Fld := ⟨0x0C9C, 0, 1, 0, .w1c, .none, 0, (2 ^ 1 - 1)⟩
/-- UM_FN_STAT.BUSY_ERR [1] (R396): R239 -/
def FN_STAT_BUSY_ERR : Fld := ⟨0x0C9C, 1, 1, 0, .w1c, .none, 0, (2 ^ 1 - 1)⟩
/-- UM_FN_ENTRY_SEL.INDEX [7:0] (R396): Segment -/
def FN_ENTRY_SEL_INDEX : Fld := ⟨0x0CA0, 0, 8, 0, .rw, .none, 0, (2 ^ 8 - 1)⟩
/-- UM_FN_ENTRY_SEL.WORD [8] (R396): 0 BASE, 1 SLOPE -/
def FN_ENTRY_SEL_WORD : Fld := ⟨0x0CA0, 8, 1, 0, .rw, .none, 0, (2 ^ 1 - 1)⟩
/-- UM_FN_ENTRY_SEL.TABLE [9] (R396): 0 value, 1 derivative -/
def FN_ENTRY_SEL_TABLE : Fld := ⟨0x0CA0, 9, 1, 0, .rw, .none, 0, (2 ^ 1 - 1)⟩
/-- UM_FN_ENTRY_DATA.DATA [31:0] (R396): FP32 word selected -/
def FN_ENTRY_DATA_DATA : Fld := ⟨0x0CA4, 0, 32, 0, .rw, .fnEntry, 0, (2 ^ 32 - 1)⟩
/-- UM_FN_CTX_SEL.CTX [7:0] (R396): Selected context -/
def FN_CTX_SEL_CTX : Fld := ⟨0x0CA8, 0, 8, 0, .rw, .none, 0, (2 ^ 8 - 1)⟩
/-- UM_FN_CTX_SLOT.SLOT [3:0] (R396): R239 -/
def FN_CTX_SLOT_SLOT : Fld := ⟨0x0CAC, 0, 4, 0, .rw, .fnCtx, 0, (2 ^ 4 - 1)⟩
/-- UM_HBM_CTRL.JET_EN [0] (R397): R157 -/
def HBM_CTRL_JET_EN : Fld := ⟨0x1000, 0, 1, 1, .rw, .none, 0, (2 ^ 1 - 1)⟩
/-- UM_HBM_REPAIR_EXHAUST.COUNT [31:0] (R397): R164 -/
def HBM_REPAIR_EXHAUST_COUNT : Fld := ⟨0x1004, 0, 32, 0, .rc, .none, 0, (2 ^ 32 - 1)⟩
/-- UM_CIST_SCRUB.EN [0] (R397): R161 -/
def CIST_SCRUB_EN : Fld := ⟨0x1008, 0, 1, 1, .rw, .none, 0, (2 ^ 1 - 1)⟩
/-- UM_CIST_SCRUB.PERIOD [15:8] (R397): Hours; 0 ignored -/
def CIST_SCRUB_PERIOD : Fld := ⟨0x1008, 8, 8, 24, .rw, .none, 1, (2 ^ 8 - 1)⟩
/-- UM_CIST_SCRUB.THRESH [23:16] (R397): R161; 0 ignored -/
def CIST_SCRUB_THRESH : Fld := ⟨0x1008, 16, 8, 8, .rw, .none, 1, (2 ^ 8 - 1)⟩
/-- UM_CIST_SCRUB.VAULT_UE_LIMIT [31:24] (R397): R165; 0 ignored -/
def CIST_SCRUB_VAULT_UE_LIMIT : Fld := ⟨0x1008, 24, 8, 16, .rw, .none, 1, (2 ^ 8 - 1)⟩
/-- UM_CIST_REMAP_CNT.COUNT [31:0] (R397): R162 -/
def CIST_REMAP_CNT_COUNT : Fld := ⟨0x100C, 0, 32, 0, .rc, .none, 0, (2 ^ 32 - 1)⟩
/-- UM_CIST_REMAP_PEND.ROWS [15:0] (R397): R163 -/
def CIST_REMAP_PEND_ROWS : Fld := ⟨0x1010, 0, 16, 0, .ro, .none, 0, (2 ^ 16 - 1)⟩
/-- UM_MEM_UNIT_SEL.INDEX [8:0] (R397): Physical vault or channel -/
def MEM_UNIT_SEL_INDEX : Fld := ⟨0x1014, 0, 9, 0, .rw, .none, 0, (2 ^ 9 - 1)⟩
/-- UM_MEM_UNIT_SEL.KIND [16] (R397): 0 vault, 1 channel -/
def MEM_UNIT_SEL_KIND : Fld := ⟨0x1014, 16, 1, 0, .rw, .none, 0, (2 ^ 1 - 1)⟩
/-- UM_MEM_ECC_CE_CNT.COUNT [31:0] (R397): Selected unit -/
def MEM_ECC_CE_CNT_COUNT : Fld := ⟨0x1018, 0, 32, 0, .rc, .memUnit, 0, (2 ^ 32 - 1)⟩
/-- UM_MEM_ECC_UE_CNT.COUNT [31:0] (R397): Selected unit -/
def MEM_ECC_UE_CNT_COUNT : Fld := ⟨0x101C, 0, 32, 0, .rc, .memUnit, 0, (2 ^ 32 - 1)⟩
/-- UM_MEM_REFRESH_STAT.BAND [1:0] (R397): Vault: band of Table 6 of 06_cistern_and_hbm.md, coolest = 0 -/
def MEM_REFRESH_STAT_BAND : Fld := ⟨0x1020, 0, 2, 0, .ro, .memUnit, 0, (2 ^ 2 - 1)⟩
/-- UM_MEM_REFRESH_STAT.RATE [10:8] (R397): Channel: refresh-rate code the stack reports -/
def MEM_REFRESH_STAT_RATE : Fld := ⟨0x1020, 8, 3, 0, .ro, .memUnit, 0, (2 ^ 3 - 1)⟩
/-- UM_EXER_SEL.INDEX [8:0] (R397): Physical vault or channel -/
def EXER_SEL_INDEX : Fld := ⟨0x1040, 0, 9, 0, .rw, .none, 0, (2 ^ 9 - 1)⟩
/-- UM_EXER_SEL.KIND [16] (R397): 0 vault, 1 channel -/
def EXER_SEL_KIND : Fld := ⟨0x1040, 16, 1, 0, .rw, .none, 0, (2 ^ 1 - 1)⟩
/-- UM_EXER_CFG.ORDER [1:0] (R397): R166, Table 7 of 06_cistern_and_hbm.md -/
def EXER_CFG_ORDER : Fld := ⟨0x1044, 0, 2, 0, .rw, .exer, 0, (2 ^ 2 - 1)⟩
/-- UM_EXER_CFG.DATA [6:4] (R397): As above; 6 and 7 refused -/
def EXER_CFG_DATA : Fld := ⟨0x1044, 4, 3, 0, .rw, .exer, 0, (2 ^ 3 - 1)⟩
/-- UM_EXER_CFG.OPS [9:8] (R397): As above; 3 refused -/
def EXER_CFG_OPS : Fld := ⟨0x1044, 8, 2, 0, .rw, .exer, 0, (2 ^ 2 - 1)⟩
/-- UM_EXER_CFG.JET [12] (R397): Channel only -/
def EXER_CFG_JET : Fld := ⟨0x1044, 12, 1, 0, .rw, .exer, 0, (2 ^ 1 - 1)⟩
/-- UM_EXER_CFG.WRITE_PCT [22:16] (R397): 0 to 100 -/
def EXER_CFG_WRITE_PCT : Fld := ⟨0x1044, 16, 7, 0, .rw, .exer, 0, (2 ^ 7 - 1)⟩
/-- UM_EXER_SEED.SEED [31:0] (R397): R167 -/
def EXER_SEED_SEED : Fld := ⟨0x1048, 0, 32, 0, .rw, .exer, 0, (2 ^ 32 - 1)⟩
/-- UM_EXER_CTRL.START [0] (R397): R166 -/
def EXER_CTRL_START : Fld := ⟨0x104C, 0, 1, 0, .wo, .none, 0, (2 ^ 1 - 1)⟩
/-- UM_EXER_BASE.BASE [31:8] (R397): Unit byte address -/
def EXER_BASE_BASE : Fld := ⟨0x1050, 8, 24, 0, .rw, .exer, 0, (2 ^ 24 - 1)⟩
/-- UM_EXER_LEN.LEN [31:8] (R397): Bytes -/
def EXER_LEN_LEN : Fld := ⟨0x1054, 8, 24, 0, .rw, .exer, 0, (2 ^ 24 - 1)⟩
/-- UM_EXER_STAT.DONE [0] (R397): Run ended -/
def EXER_STAT_DONE : Fld := ⟨0x1058, 0, 1, 0, .ro, .exer, 0, (2 ^ 1 - 1)⟩
/-- UM_EXER_STAT.PASS [1] (R397): Valid with DONE -/
def EXER_STAT_PASS : Fld := ⟨0x1058, 1, 1, 0, .ro, .exer, 0, (2 ^ 1 - 1)⟩
/-- UM_EXER_STAT.REFUSED [2] (R397): R166; also a refused encoding -/
def EXER_STAT_REFUSED : Fld := ⟨0x1058, 2, 1, 0, .w1c, .exer, 0, (2 ^ 1 - 1)⟩
/-- UM_EXER_STAT.BUSY [3] (R397): Run in progress -/
def EXER_STAT_BUSY : Fld := ⟨0x1058, 3, 1, 0, .ro, .exer, 0, (2 ^ 1 - 1)⟩
/-- UM_EXER_ERR_CNT.COUNT [31:0] (R397): Miscompared words -/
def EXER_ERR_CNT_COUNT : Fld := ⟨0x105C, 0, 32, 0, .ro, .exer, 0, (2 ^ 32 - 1)⟩
/-- UM_EXER_ERR_ADDR.ADDR [31:0] (R397): First miscompare -/
def EXER_ERR_ADDR_ADDR : Fld := ⟨0x1060, 0, 32, 0, .ro, .exer, 0, (2 ^ 32 - 1)⟩
/-- UM_EXER_ERR_XOR.XOR [31:0] (R397): First miscompare -/
def EXER_ERR_XOR_XOR : Fld := ⟨0x1064, 0, 32, 0, .ro, .exer, 0, (2 ^ 32 - 1)⟩
/-- UM_EXER_BYTES.BYTES [63:0] (R397): Of the run -/
def EXER_BYTES_BYTES : Fld := ⟨0x1068, 0, 64, 0, .ro, .exer, 0, (2 ^ 64 - 1)⟩
/-- UM_EXER_CYCLES.CYCLES [63:0] (R397): Main clock -/
def EXER_CYCLES_CYCLES : Fld := ⟨0x1070, 0, 64, 0, .ro, .exer, 0, (2 ^ 64 - 1)⟩
/-- UM_PLACE_RPT_BASE.BASE [63:26] (R398): R169, R170 -/
def PLACE_RPT_BASE_BASE : Fld := ⟨0x1400, 26, 38, 4863, .rw, .none, 0, (2 ^ 38 - 1)⟩
/-- UM_PLACE_CFG.CACHE_GRANULES [3:0] (R398): R172; above 8 ignored -/
def PLACE_CFG_CACHE_GRANULES : Fld := ⟨0x1408, 0, 4, 0, .rw, .none, 0, 8⟩
/-- UM_PLACE_CFG.EPOCH_US [25:16] (R398): R179; 0 and above 1,000 ignored -/
def PLACE_CFG_EPOCH_US : Fld := ⟨0x1408, 16, 10, 20, .rw, .none, 1, 1000⟩
/-- UM_PLACE_STAT.MOVING [13:0] (R398): R175 -/
def PLACE_STAT_MOVING : Fld := ⟨0x140C, 0, 14, 0, .ro, .none, 0, (2 ^ 14 - 1)⟩
/-- UM_PLACE_EPOCH.EPOCH [31:0] (R398): R179; wraps -/
def PLACE_EPOCH_EPOCH : Fld := ⟨0x1410, 0, 32, 0, .ro, .none, 0, (2 ^ 32 - 1)⟩
/-- UM_PLACE_CANCEL_CNT.COUNT [31:0] (R398): R176 -/
def PLACE_CANCEL_CNT_COUNT : Fld := ⟨0x1414, 0, 32, 0, .rc, .none, 0, (2 ^ 32 - 1)⟩
/-- UM_PLACE_HOLD_STALL.COUNT [31:0] (R398): R177 -/
def PLACE_HOLD_STALL_COUNT : Fld := ⟨0x1418, 0, 32, 0, .rc, .none, 0, (2 ^ 32 - 1)⟩
/-- UM_PLACE_POOL_SEL.TIER [2:0] (R398): 1 to 4 -/
def PLACE_POOL_SEL_TIER : Fld := ⟨0x141C, 0, 3, 0, .rw, .none, 0, (2 ^ 3 - 1)⟩
/-- UM_PLACE_POOL_BASE.BASE [63:0] (R398): R173 -/
def PLACE_POOL_BASE_BASE : Fld := ⟨0x1420, 0, 64, 0, .rw, .pool, 0, (2 ^ 64 - 1)⟩
/-- UM_PLACE_POOL_LEN.LEN [63:0] (R398): Bytes; 0 absent -/
def PLACE_POOL_LEN_LEN : Fld := ⟨0x1428, 0, 64, 0, .rw, .pool, 0, (2 ^ 64 - 1)⟩
/-- UM_PLACE_POOL_TARGET.TARGET [7:0] (R398): Tiers 3 and 4 -/
def PLACE_POOL_TARGET_TARGET : Fld := ⟨0x1430, 0, 8, 0, .rw, .pool, 0, (2 ^ 8 - 1)⟩
/-- UM_PLACE_POOL_FREE.KIB [31:0] (R398): R173 -/
def PLACE_POOL_FREE_KIB : Fld := ⟨0x1434, 0, 32, 0, .ro, .pool, 0, (2 ^ 32 - 1)⟩
/-- UM_PLACE_ROW_SEL.ROW [39:0] (R398): Logical row -/
def PLACE_ROW_SEL_ROW : Fld := ⟨0x1438, 0, 40, 0, .rw, .none, 0, (2 ^ 40 - 1)⟩
/-- UM_PLACE_ROW_SEL.TABLE [59:48] (R398): Table -/
def PLACE_ROW_SEL_TABLE : Fld := ⟨0x1438, 48, 12, 0, .rw, .none, 0, (2 ^ 12 - 1)⟩
/-- UM_PLACE_ROW_STAT.STATE [1:0] (R398): 0 HOME, 1 PLACED, 2 MOVING -/
def PLACE_ROW_STAT_STATE : Fld := ⟨0x1440, 0, 2, 0, .ro, .none, 0, (2 ^ 2 - 1)⟩
/-- UM_PLACE_ROW_STAT.SRC [2] (R398): R171 -/
def PLACE_ROW_STAT_SRC : Fld := ⟨0x1440, 2, 1, 0, .ro, .none, 0, (2 ^ 1 - 1)⟩
/-- UM_PLACE_ROW_STAT.VALID [3] (R398): Lookup complete -/
def PLACE_ROW_STAT_VALID : Fld := ⟨0x1440, 3, 1, 0, .ro, .none, 0, (2 ^ 1 - 1)⟩
/-- UM_PLACE_ROW_STAT.CUR_TIER [7:4] (R398): R171 -/
def PLACE_ROW_STAT_CUR_TIER : Fld := ⟨0x1440, 4, 4, 0, .ro, .none, 0, (2 ^ 4 - 1)⟩
/-- UM_PLACE_ROW_STAT.NEW_TIER [11:8] (R398): R171 -/
def PLACE_ROW_STAT_NEW_TIER : Fld := ⟨0x1440, 8, 4, 0, .ro, .none, 0, (2 ^ 4 - 1)⟩
/-- UM_SKIM_CFG.MODE [1:0] (R398): R185 -/
def SKIM_CFG_MODE : Fld := ⟨0x1450, 0, 2, 0, .rw, .none, 0, (2 ^ 2 - 1)⟩
/-- UM_SKIM_CFG.DEST [3:2] (R398): 1 or 2 -/
def SKIM_CFG_DEST : Fld := ⟨0x1450, 2, 2, 1, .rw, .none, 0, (2 ^ 2 - 1)⟩
/-- UM_SKIM_CFG.WINDOW_MS [25:16] (R398): R183 -/
def SKIM_CFG_WINDOW_MS : Fld := ⟨0x1450, 16, 10, 10, .rw, .none, 0, (2 ^ 10 - 1)⟩
/-- UM_SKIM_CFG.BUDGET [47:32] (R398): R186 -/
def SKIM_CFG_BUDGET : Fld := ⟨0x1450, 32, 16, 4096, .rw, .none, 0, (2 ^ 16 - 1)⟩
/-- UM_SKIM_CFG.FILL_TARGET [54:48] (R398): 20 to 100 -/
def SKIM_CFG_FILL_TARGET : Fld := ⟨0x1450, 48, 7, 75, .rw, .none, 0, (2 ^ 7 - 1)⟩
/-- UM_SKIM_CFG.H_MIN [79:64] (R398): R186 -/
def SKIM_CFG_H_MIN : Fld := ⟨0x1450, 64, 16, 4, .rw, .none, 0, (2 ^ 16 - 1)⟩
/-- UM_SKIM_CFG.H_MAX [95:80] (R398): R186 -/
def SKIM_CFG_H_MAX : Fld := ⟨0x1450, 80, 16, 4096, .rw, .none, 0, (2 ^ 16 - 1)⟩
/-- UM_SKIM_STAT.CFG_ERR [0] (R398): R183 -/
def SKIM_STAT_CFG_ERR : Fld := ⟨0x1460, 0, 1, 0, .w1c, .none, 0, (2 ^ 1 - 1)⟩
/-- UM_SKIM_THRESH.H [15:0] (R398): R186 -/
def SKIM_THRESH_H : Fld := ⟨0x1464, 0, 16, 256, .ro, .none, 0, (2 ^ 16 - 1)⟩
/-- UM_SKIM_TABLE_SEL.TABLE [11:0] (R398): Selected table -/
def SKIM_TABLE_SEL_TABLE : Fld := ⟨0x1468, 0, 12, 0, .rw, .none, 0, (2 ^ 12 - 1)⟩
/-- UM_SKIM_TABLE_CFG.TRACK [0] (R398): R183 -/
def SKIM_TABLE_CFG_TRACK : Fld := ⟨0x146C, 0, 1, 0, .rw, .skimTable, 0, (2 ^ 1 - 1)⟩
/-- UM_SKIM_TABLE_CFG.PROMOTE [1] (R398): R185 -/
def SKIM_TABLE_CFG_PROMOTE : Fld := ⟨0x146C, 1, 1, 0, .rw, .skimTable, 0, (2 ^ 1 - 1)⟩
/-- UM_SKIM_TABLE_CFG.RECORD_BASE [28:10] (R398): First load record -/
def SKIM_TABLE_CFG_RECORD_BASE : Fld := ⟨0x146C, 10, 19, 0, .rw, .skimTable, 0, (2 ^ 19 - 1)⟩
/-- UM_SKIM_LOAD_SEL.TABLE [11:0] (R398): — -/
def SKIM_LOAD_SEL_TABLE : Fld := ⟨0x1470, 0, 12, 0, .rw, .none, 0, (2 ^ 12 - 1)⟩
/-- UM_SKIM_LOAD_SEL.SHARD [31:12] (R398): — -/
def SKIM_LOAD_SEL_SHARD : Fld := ⟨0x1470, 12, 20, 0, .rw, .none, 0, (2 ^ 20 - 1)⟩
/-- UM_SKIM_LOAD.USES [31:0] (R398): Last complete window -/
def SKIM_LOAD_USES : Fld := ⟨0x1480, 0, 32, 0, .ro, .none, 0, (2 ^ 32 - 1)⟩
/-- UM_SKIM_LOAD.FETCHES [63:32] (R398): As above -/
def SKIM_LOAD_FETCHES : Fld := ⟨0x1480, 32, 32, 0, .ro, .none, 0, (2 ^ 32 - 1)⟩
/-- UM_SKIM_LOAD.KIB [95:64] (R398): As above -/
def SKIM_LOAD_KIB : Fld := ⟨0x1480, 64, 32, 0, .ro, .none, 0, (2 ^ 32 - 1)⟩
/-- UM_SKIM_LOAD.REMOTE [127:96] (R398): As above -/
def SKIM_LOAD_REMOTE : Fld := ⟨0x1480, 96, 32, 0, .ro, .none, 0, (2 ^ 32 - 1)⟩
/-- UM_SKIM_SKIP_CNT.COUNT [31:0] (R398): R185 -/
def SKIM_SKIP_CNT_COUNT : Fld := ⟨0x1490, 0, 32, 0, .rc, .none, 0, (2 ^ 32 - 1)⟩
/-- UM_SKIM_DROP_CNT.COUNT [31:0] (R398): R185 -/
def SKIM_DROP_CNT_COUNT : Fld := ⟨0x1494, 0, 32, 0, .rc, .none, 0, (2 ^ 32 - 1)⟩
/-- UM_SKIM_RING_BASE.BASE [63:12] (R398): Advice ring -/
def SKIM_RING_BASE_BASE : Fld := ⟨0x1498, 12, 52, 0, .rw, .none, 0, (2 ^ 52 - 1)⟩
/-- UM_SKIM_RING_CFG.DEPTH_LOG2 [4:0] (R398): 6 to 16 -/
def SKIM_RING_CFG_DEPTH_LOG2 : Fld := ⟨0x14A0, 0, 5, 6, .rw, .none, 6, 16⟩
/-- UM_SKIM_RING_PI.PI [15:0] (R398): R185 -/
def SKIM_RING_PI_PI : Fld := ⟨0x14A4, 0, 16, 0, .ro, .none, 0, (2 ^ 16 - 1)⟩
/-- UM_SKIM_RING_CI.CI [15:0] (R398): R185 -/
def SKIM_RING_CI_CI : Fld := ⟨0x14A8, 0, 16, 0, .rw, .none, 0, (2 ^ 16 - 1)⟩
/-- UM_CXL_REGION_SEL.REGION [3:0] (R399): — -/
def CXL_REGION_SEL_REGION : Fld := ⟨0x1800, 0, 4, 0, .rw, .none, 0, (2 ^ 4 - 1)⟩
/-- UM_CXL_REGION_BASE.BASE [63:12] (R399): Host physical, R188 -/
def CXL_REGION_BASE_BASE : Fld := ⟨0x1808, 12, 52, 0, .rw, .cxl, 0, (2 ^ 52 - 1)⟩
/-- UM_CXL_REGION_SIZE.SIZE [63:12] (R399): Bytes -/
def CXL_REGION_SIZE_SIZE : Fld := ⟨0x1810, 12, 52, 0, .rw, .cxl, 0, (2 ^ 52 - 1)⟩
/-- UM_CXL_REGION_CTRL.EN [0] (R399): R188, R374 -/
def CXL_REGION_CTRL_EN : Fld := ⟨0x1818, 0, 1, 0, .rw, .cxl, 0, (2 ^ 1 - 1)⟩
/-- UM_CXL_REGION_CTRL.CFG_ERR [1] (R399): R374 -/
def CXL_REGION_CTRL_CFG_ERR : Fld := ⟨0x1818, 1, 1, 0, .w1c, .cxl, 0, (2 ^ 1 - 1)⟩
/-- UM_NVMF_TGT_SEL.TARGET [7:0] (R399): — -/
def NVMF_TGT_SEL_TARGET : Fld := ⟨0x1820, 0, 8, 0, .rw, .none, 0, (2 ^ 8 - 1)⟩
/-- UM_NVMF_TGT_CFG.RIM_PORTS [3:0] (R399): One bit per port -/
def NVMF_TGT_CFG_RIM_PORTS : Fld := ⟨0x1828, 0, 4, 15, .rw, .target, 0, (2 ^ 4 - 1)⟩
/-- UM_NVMF_TGT_CFG.LBA_LOG2 [11:8] (R399): 9 or 12 -/
def NVMF_TGT_CFG_LBA_LOG2 : Fld := ⟨0x1828, 8, 4, 12, .rw, .target, 0, (2 ^ 4 - 1)⟩
/-- UM_NVMF_TGT_CFG.QUEUES [19:16] (R399): 1 to 8 -/
def NVMF_TGT_CFG_QUEUES : Fld := ⟨0x1828, 16, 4, 1, .rw, .target, 0, (2 ^ 4 - 1)⟩
/-- UM_NVMF_TGT_CFG.QDEPTH [28:20] (R399): 1 to 256 -/
def NVMF_TGT_CFG_QDEPTH : Fld := ⟨0x1828, 20, 9, 32, .rw, .target, 0, (2 ^ 9 - 1)⟩
/-- UM_NVMF_TGT_CFG.NSID [63:32] (R399): R190 -/
def NVMF_TGT_CFG_NSID : Fld := ⟨0x1828, 32, 32, 1, .rw, .target, 0, (2 ^ 32 - 1)⟩
/-- UM_NVMF_TGT_CTRL.CONNECT [0] (R399): 1 connects, 0 disconnects -/
def NVMF_TGT_CTRL_CONNECT : Fld := ⟨0x1830, 0, 1, 0, .rw, .target, 0, (2 ^ 1 - 1)⟩
/-- UM_NVMF_TGT_STAT.CONNECTED [0] (R399): R190 -/
def NVMF_TGT_STAT_CONNECTED : Fld := ⟨0x1840, 0, 1, 0, .ro, .target, 0, (2 ^ 1 - 1)⟩
/-- UM_NVMF_TGT_STAT.LAST_ERR [15:8] (R399): Last NVMe status code -/
def NVMF_TGT_STAT_LAST_ERR : Fld := ⟨0x1840, 8, 8, 0, .ro, .target, 0, (2 ^ 8 - 1)⟩
/-- UM_NVMF_TGT_STAT.CAPACITY [127:64] (R399): Logical blocks -/
def NVMF_TGT_STAT_CAPACITY : Fld := ⟨0x1840, 64, 64, 0, .ro, .target, 0, (2 ^ 64 - 1)⟩
/-- UM_NVMF_TGT_ADDR.ADDR [127:0] (R399): IPv6; IPv4 as ::ffff:a.b.c.d -/
def NVMF_TGT_ADDR_ADDR : Fld := ⟨0x1850, 0, 128, 0, .rw, .target, 0, (2 ^ 128 - 1)⟩
/-- UM_NVMF_TMO.US [23:0] (R399): R191; 0 ignored -/
def NVMF_TMO_US : Fld := ⟨0x1860, 0, 24, 10000, .rw, .none, 1, (2 ^ 24 - 1)⟩
/-- UM_REMOTE_TMO.US [15:0] (R399): R197; 0 ignored -/
def REMOTE_TMO_US : Fld := ⟨0x1864, 0, 16, 1000, .rw, .none, 1, (2 ^ 16 - 1)⟩
/-- UM_REMOTE_CFG.SERVE_WEIGHT [3:0] (R399): R195 -/
def REMOTE_CFG_SERVE_WEIGHT : Fld := ⟨0x1868, 0, 4, 8, .rw, .none, 0, (2 ^ 4 - 1)⟩
/-- UM_REMOTE_BAD_MSG.COUNT [31:0] (R399): R193 -/
def REMOTE_BAD_MSG_COUNT : Fld := ⟨0x186C, 0, 32, 0, .rc, .none, 0, (2 ^ 32 - 1)⟩
/-- UM_TWR_NACK_CNT.COUNT [31:0] (R399): R372 -/
def TWR_NACK_CNT_COUNT : Fld := ⟨0x1870, 0, 32, 0, .rc, .none, 0, (2 ^ 32 - 1)⟩
/-- UM_RIM_PORT_SEL.PORT [1:0] (R399): — -/
def RIM_PORT_SEL_PORT : Fld := ⟨0x1880, 0, 2, 0, .rw, .none, 0, (2 ^ 2 - 1)⟩
/-- UM_RIM_PORT_STAT.UP [0] (R399): Link up -/
def RIM_PORT_STAT_UP : Fld := ⟨0x1884, 0, 1, 0, .ro, .port, 0, (2 ^ 1 - 1)⟩
/-- UM_RIM_PORT_STAT.SPARE_USED [1] (R399): R378 -/
def RIM_PORT_STAT_SPARE_USED : Fld := ⟨0x1884, 1, 1, 0, .ro, .port, 0, (2 ^ 1 - 1)⟩
/-- UM_RIM_PORT_STAT.RETRAINS [31:16] (R399): Since power good -/
def RIM_PORT_STAT_RETRAINS : Fld := ⟨0x1884, 16, 16, 0, .ro, .port, 0, (2 ^ 16 - 1)⟩
/-- UM_RIM_PORT_CFG.MAC [47:0] (R399): R379 -/
def RIM_PORT_CFG_MAC : Fld := ⟨0x18A0, 0, 48, 0, .rw, .port, 0, (2 ^ 48 - 1)⟩
/-- UM_RIM_PORT_CFG.VLAN [59:48] (R399): VLAN ID -/
def RIM_PORT_CFG_VLAN : Fld := ⟨0x18A0, 48, 12, 0, .rw, .port, 0, (2 ^ 12 - 1)⟩
/-- UM_RIM_PORT_CFG.VLAN_EN [63] (R399): Tag frames -/
def RIM_PORT_CFG_VLAN_EN : Fld := ⟨0x18A0, 63, 1, 0, .rw, .port, 0, (2 ^ 1 - 1)⟩
/-- UM_RIM_PORT_CFG.PRIO [66:64] (R399): R377 -/
def RIM_PORT_CFG_PRIO : Fld := ⟨0x18A0, 64, 3, 3, .rw, .port, 0, (2 ^ 3 - 1)⟩
/-- UM_RIM_PORT_CFG.DSCP [77:72] (R399): R379 -/
def RIM_PORT_CFG_DSCP : Fld := ⟨0x18A0, 72, 6, 26, .rw, .port, 0, (2 ^ 6 - 1)⟩
/-- UM_RIM_PORT_CFG.IPV6 [80] (R399): 0: IPv4 in IP [159:128] -/
def RIM_PORT_CFG_IPV6 : Fld := ⟨0x18A0, 80, 1, 0, .rw, .port, 0, (2 ^ 1 - 1)⟩
/-- UM_RIM_PORT_CFG.IP [255:128] (R399): Port address -/
def RIM_PORT_CFG_IP : Fld := ⟨0x18A0, 128, 128, 0, .rw, .port, 0, (2 ^ 128 - 1)⟩
/-- UM_RIM_PEER_SEL.PEER [11:0] (R399): Peer chip -/
def RIM_PEER_SEL_PEER : Fld := ⟨0x18C0, 0, 12, 0, .rw, .none, 0, (2 ^ 12 - 1)⟩
/-- UM_RIM_PEER_SEL.PORT [17:16] (R399): — -/
def RIM_PEER_SEL_PORT : Fld := ⟨0x18C0, 16, 2, 0, .rw, .none, 0, (2 ^ 2 - 1)⟩
/-- UM_RIM_PEER_CTRL.CONNECT [0] (R399): R380 -/
def RIM_PEER_CTRL_CONNECT : Fld := ⟨0x18C4, 0, 1, 0, .rw, .peer, 0, (2 ^ 1 - 1)⟩
/-- UM_RIM_PEER_STAT.DATA_QP [1:0] (R399): 0 DOWN, 1 CONNECTING, 2 CONNECTED, 3 ERROR -/
def RIM_PEER_STAT_DATA_QP : Fld := ⟨0x18C8, 0, 2, 0, .ro, .peer, 0, (2 ^ 2 - 1)⟩
/-- UM_RIM_PEER_STAT.ABORT_QP [5:4] (R399): As DATA_QP -/
def RIM_PEER_STAT_ABORT_QP : Fld := ⟨0x18C8, 4, 2, 0, .ro, .peer, 0, (2 ^ 2 - 1)⟩
/-- UM_RIM_PEER_ADDR.ADDR [127:0] (R399): As UM_NVMF_TGT_ADDR -/
def RIM_PEER_ADDR_ADDR : Fld := ⟨0x18D0, 0, 128, 0, .rw, .peer, 0, (2 ^ 128 - 1)⟩
/-- UM_STREAM_DESC_SEL.DESC [11:0] (R400): — -/
def STREAM_DESC_SEL_DESC : Fld := ⟨0x1C00, 0, 12, 0, .rw, .none, 0, (2 ^ 12 - 1)⟩
/-- UM_STREAM_DESC_CFG.CTX [7:0] (R400): R258; ignored unless IDLE -/
def STREAM_DESC_CFG_CTX : Fld := ⟨0x1C04, 0, 8, 0, .rw, .desc, 0, (2 ^ 8 - 1)⟩
/-- UM_STREAM_DESC_STAT.STATE [1:0] (R400): 0 IDLE, 1 LOADING, 2 ACTIVE, 3 FAULTED -/
def STREAM_DESC_STAT_STATE : Fld := ⟨0x1C08, 0, 2, 0, .ro, .desc, 0, (2 ^ 2 - 1)⟩
/-- UM_STREAM_DESC_STAT.PENDING [2] (R400): R259 -/
def STREAM_DESC_STAT_PENDING : Fld := ⟨0x1C08, 2, 1, 0, .ro, .desc, 0, (2 ^ 1 - 1)⟩
/-- UM_STREAM_DESC_STAT.GEN [63:32] (R400): R259 -/
def STREAM_DESC_STAT_GEN : Fld := ⟨0x1C08, 32, 32, 0, .ro, .desc, 0, (2 ^ 32 - 1)⟩
/-- UM_STREAM_CURSOR.PC [3:0] (R400): Cursor instruction -/
def STREAM_CURSOR_PC : Fld := ⟨0x1C10, 0, 4, 0, .ro, .desc, 0, (2 ^ 4 - 1)⟩
/-- UM_STREAM_CURSOR.BYTE_OFF [31:16] (R400): R262 -/
def STREAM_CURSOR_BYTE_OFF : Fld := ⟨0x1C10, 16, 16, 0, .ro, .desc, 0, (2 ^ 16 - 1)⟩
/-- UM_STREAM_DELIVERED.ELEMENTS [63:0] (R400): Of the last or current generation -/
def STREAM_DELIVERED_ELEMENTS : Fld := ⟨0x1C30, 0, 64, 0, .ro, .desc, 0, (2 ^ 64 - 1)⟩
/-- UM_ATC_INVAL_CNT.COUNT [31:0] (R400): R265 -/
def ATC_INVAL_CNT_COUNT : Fld := ⟨0x1C40, 0, 32, 0, .rc, .none, 0, (2 ^ 32 - 1)⟩
/-- UM_PRI_CFG.RETRY [3:0] (R400): R263; 0 ignored -/
def PRI_CFG_RETRY : Fld := ⟨0x1C44, 0, 4, 3, .rw, .none, 1, (2 ^ 4 - 1)⟩
/-- UM_PRI_CFG.TMO_MS [31:16] (R400): R263; 0 ignored -/
def PRI_CFG_TMO_MS : Fld := ⟨0x1C44, 16, 16, 1000, .rw, .none, 1, (2 ^ 16 - 1)⟩
/-- UM_PRI_STAT.STOPPED [0] (R400): R263 -/
def PRI_STAT_STOPPED : Fld := ⟨0x1C48, 0, 1, 0, .ro, .none, 0, (2 ^ 1 - 1)⟩
/-- UM_PRI_STAT.OUTSTANDING [25:16] (R400): Page requests held -/
def PRI_STAT_OUTSTANDING : Fld := ⟨0x1C48, 16, 10, 0, .ro, .none, 0, (2 ^ 10 - 1)⟩
/-- UM_HOSTPATH_CFG.RO_EN [0] (R400): R266 -/
def HOSTPATH_CFG_RO_EN : Fld := ⟨0x1C50, 0, 1, 1, .rw, .none, 0, (2 ^ 1 - 1)⟩
/-- UM_HOSTPATH_CFG.FLUSH_KIB [28:8] (R400): R268 -/
def HOSTPATH_CFG_FLUSH_KIB : Fld := ⟨0x1C50, 8, 21, 4096, .rw, .none, 0, (2 ^ 21 - 1)⟩
/-- UM_HOSTPATH_TMO.US [19:0] (R400): R269; 0 ignored -/
def HOSTPATH_TMO_US : Fld := ⟨0x1C54, 0, 20, 10000, .rw, .none, 1, (2 ^ 20 - 1)⟩
/-- UM_HOSTPATH_STAT.STATE [1:0] (R400): 0 OPEN, 1 CLOSING, 2 CLOSED -/
def HOSTPATH_STAT_STATE : Fld := ⟨0x1C58, 0, 2, 2, .ro, .none, 0, (2 ^ 2 - 1)⟩
/-- UM_HOSTPATH_STAT.CAUSE [6:4] (R400): R269 -/
def HOSTPATH_STAT_CAUSE : Fld := ⟨0x1C58, 4, 3, 1, .ro, .none, 0, (2 ^ 3 - 1)⟩
/-- UM_HOSTPATH_STAT.REATTACH_ERR [8] (R400): R272 -/
def HOSTPATH_STAT_REATTACH_ERR : Fld := ⟨0x1C58, 8, 1, 0, .w1c, .none, 0, (2 ^ 1 - 1)⟩
/-- UM_HOSTPATH_STAT.EPOCH [31:16] (R400): R272 -/
def HOSTPATH_STAT_EPOCH : Fld := ⟨0x1C58, 16, 16, 0, .ro, .none, 0, (2 ^ 16 - 1)⟩
/-- UM_HOSTPATH_CTRL.CLOSE [0] (R400): R269, cause 4 -/
def HOSTPATH_CTRL_CLOSE : Fld := ⟨0x1C5C, 0, 1, 0, .wo, .none, 0, (2 ^ 1 - 1)⟩
/-- UM_HOSTPATH_REATTACH.EPOCH [15:0] (R400): R272 -/
def HOSTPATH_REATTACH_EPOCH : Fld := ⟨0x1C60, 0, 16, 0, .wo, .none, 0, (2 ^ 16 - 1)⟩
/-- UM_HOSTPATH_CLOSE_CNT.COUNT [31:0] (R400): R269 -/
def HOSTPATH_CLOSE_CNT_COUNT : Fld := ⟨0x1C64, 0, 32, 0, .rc, .none, 0, (2 ^ 32 - 1)⟩
/-- UM_HOSTPATH_HELD_REPLIES.REPLIES [14:0] (R400): R271 -/
def HOSTPATH_HELD_REPLIES_REPLIES : Fld := ⟨0x1C68, 0, 15, 0, .ro, .none, 0, (2 ^ 15 - 1)⟩
/-- UM_HOSTPATH_UNWRITTEN_CNT.COUNT [31:0] (R400): R273 -/
def HOSTPATH_UNWRITTEN_CNT_COUNT : Fld := ⟨0x1C6C, 0, 32, 0, .rc, .none, 0, (2 ^ 32 - 1)⟩
/-- UM_ERR_LOG_HEAD.SEQ [31:0] (R401): R303 -/
def ERR_LOG_HEAD_SEQ : Fld := ⟨0x2000, 0, 32, 0, .ro, .none, 0, (2 ^ 32 - 1)⟩
/-- UM_ERR_LOG_SEL.SLOT [9:0] (R401): R303 -/
def ERR_LOG_SEL_SLOT : Fld := ⟨0x2004, 0, 10, 0, .rw, .none, 0, (2 ^ 10 - 1)⟩
/-- UM_ERR_LOG_ACK.SEQ [31:0] (R401): R303 -/
def ERR_LOG_ACK_SEQ : Fld := ⟨0x2008, 0, 32, 0, .rw, .none, 0, (2 ^ 32 - 1)⟩
/-- UM_ERR_STAT.NEW [0] (R401): R303, R375 -/
def ERR_STAT_NEW : Fld := ⟨0x200C, 0, 1, 0, .w1c, .none, 0, (2 ^ 1 - 1)⟩
/-- UM_ERR_OVERWRITE_CNT.COUNT [31:0] (R401): R303 -/
def ERR_OVERWRITE_CNT_COUNT : Fld := ⟨0x2010, 0, 32, 0, .rc, .none, 0, (2 ^ 32 - 1)⟩
/-- UM_HANG_CFG.PERIOD_US [15:0] (R401): R307; 0 ignored -/
def HANG_CFG_PERIOD_US : Fld := ⟨0x2040, 0, 16, 100, .rw, .none, 1, (2 ^ 16 - 1)⟩
/-- UM_HANG_CFG.STALL_PERIODS [23:16] (R401): 0 ignored -/
def HANG_CFG_STALL_PERIODS : Fld := ⟨0x2040, 16, 8, 10, .rw, .none, 1, (2 ^ 8 - 1)⟩
/-- UM_HANG_CFG.DEADLOCK_ACT [24] (R401): R309 -/
def HANG_CFG_DEADLOCK_ACT : Fld := ⟨0x2040, 24, 1, 1, .rw, .none, 0, (2 ^ 1 - 1)⟩
/-- UM_HANG_CFG.UNIT_TMO_US [41:32] (R401): 1 to 1,000 -/
def HANG_CFG_UNIT_TMO_US : Fld := ⟨0x2040, 32, 10, 10, .rw, .none, 1, 1000⟩
/-- UM_HANG_OLDEST.QUEUE [9:0] (R401): R309 -/
def HANG_OLDEST_QUEUE : Fld := ⟨0x2048, 0, 10, 0, .ro, .none, 0, (2 ^ 10 - 1)⟩
/-- UM_HANG_OLDEST.CLASS [14:12] (R401): 0 DEADLOCK, 1 SATURATED, 2 SOFTWARE, 3 EXTERNAL, 4 FROZEN -/
def HANG_OLDEST_CLASS : Fld := ⟨0x2048, 12, 3, 0, .ro, .none, 0, (2 ^ 3 - 1)⟩
/-- UM_HANG_OLDEST.VALID [15] (R401): A node is stalled -/
def HANG_OLDEST_VALID : Fld := ⟨0x2048, 15, 1, 0, .ro, .none, 0, (2 ^ 1 - 1)⟩
/-- UM_HANG_OLDEST.TAG [31:16] (R401): — -/
def HANG_OLDEST_TAG : Fld := ⟨0x2048, 16, 16, 0, .ro, .none, 0, (2 ^ 16 - 1)⟩
/-- UM_HANG_OLDEST.PERIODS [63:32] (R401): Stalled periods -/
def HANG_OLDEST_PERIODS : Fld := ⟨0x2048, 32, 32, 0, .ro, .none, 0, (2 ^ 32 - 1)⟩
/-- UM_HANG_STAT.DEADLOCK [15:0] (R401): Nodes newly classed -/
def HANG_STAT_DEADLOCK : Fld := ⟨0x2050, 0, 16, 0, .rc, .none, 0, (2 ^ 16 - 1)⟩
/-- UM_HANG_STAT.SATURATED [31:16] (R401): As above -/
def HANG_STAT_SATURATED : Fld := ⟨0x2050, 16, 16, 0, .rc, .none, 0, (2 ^ 16 - 1)⟩
/-- UM_HANG_STAT.SOFTWARE [47:32] (R401): As above -/
def HANG_STAT_SOFTWARE : Fld := ⟨0x2050, 32, 16, 0, .rc, .none, 0, (2 ^ 16 - 1)⟩
/-- UM_HANG_STAT.EXTERNAL [63:48] (R401): As above -/
def HANG_STAT_EXTERNAL : Fld := ⟨0x2050, 48, 16, 0, .rc, .none, 0, (2 ^ 16 - 1)⟩
/-- UM_HANG_STAT.FROZEN [79:64] (R401): As above -/
def HANG_STAT_FROZEN : Fld := ⟨0x2050, 64, 16, 0, .rc, .none, 0, (2 ^ 16 - 1)⟩
/-- UM_RESET_CTRL.RUNG [2:0] (R401): 2 to 4; other values ignored -/
def RESET_CTRL_RUNG : Fld := ⟨0x2060, 0, 3, 0, .wo, .none, 0, (2 ^ 3 - 1)⟩
/-- UM_RESET_CTRL.PART [5:4] (R401): Rung 3 -/
def RESET_CTRL_PART : Fld := ⟨0x2060, 4, 2, 0, .wo, .none, 0, (2 ^ 2 - 1)⟩
/-- UM_RESET_CTRL.FW_RELOAD [8] (R401): R356 -/
def RESET_CTRL_FW_RELOAD : Fld := ⟨0x2060, 8, 1, 0, .wo, .none, 0, (2 ^ 1 - 1)⟩
/-- UM_RESET_STAT.BUSY [0] (R401): R310 -/
def RESET_STAT_BUSY : Fld := ⟨0x2064, 0, 1, 0, .ro, .none, 0, (2 ^ 1 - 1)⟩
/-- UM_RESET_STAT.REFUSED [1] (R401): R312 -/
def RESET_STAT_REFUSED : Fld := ⟨0x2064, 1, 1, 0, .w1c, .none, 0, (2 ^ 1 - 1)⟩
/-- UM_RESET_STAT.HELD [2] (R401): R312 cap -/
def RESET_STAT_HELD : Fld := ⟨0x2064, 2, 1, 0, .ro, .none, 0, (2 ^ 1 - 1)⟩
/-- UM_RESET_STAT.RUNG [6:4] (R401): Running or held -/
def RESET_STAT_RUNG : Fld := ⟨0x2064, 4, 3, 0, .ro, .none, 0, (2 ^ 3 - 1)⟩
/-- UM_RESET_STAT.STEP [10:8] (R401): R311 -/
def RESET_STAT_STEP : Fld := ⟨0x2064, 8, 3, 0, .ro, .none, 0, (2 ^ 3 - 1)⟩
/-- UM_RESET_STAT.PART [13:12] (R401): — -/
def RESET_STAT_PART : Fld := ⟨0x2064, 12, 2, 0, .ro, .none, 0, (2 ^ 2 - 1)⟩
/-- UM_ESC_CFG.MAX_RUNG [2:0] (R401): R312 -/
def ESC_CFG_MAX_RUNG : Fld := ⟨0x2068, 0, 3, 4, .rw, .none, 0, 5⟩
/-- UM_ESC_CFG.RUNG_TMO_US [27:8] (R401): 100 to 1,000,000 -/
def ESC_CFG_RUNG_TMO_US : Fld := ⟨0x2068, 8, 20, 5000, .rw, .none, 100, 1000000⟩
/-- UM_FABRIC_CFG.ABORT_ACT [0] (R401): R317 -/
def FABRIC_CFG_ABORT_ACT : Fld := ⟨0x2070, 0, 1, 1, .rw, .none, 0, (2 ^ 1 - 1)⟩
/-- UM_FABRIC_CFG.HOLDOFF_US [31:16] (R401): 0 ignored -/
def FABRIC_CFG_HOLDOFF_US : Fld := ⟨0x2070, 16, 16, 1000, .rw, .none, 1, (2 ^ 16 - 1)⟩
/-- UM_FABRIC_ABORT_SEND.JOB_ID [31:0] (R401): R316 -/
def FABRIC_ABORT_SEND_JOB_ID : Fld := ⟨0x2074, 0, 32, 0, .wo, .none, 0, (2 ^ 32 - 1)⟩
/-- UM_FABRIC_RX_CNT.COUNT [31:0] (R401): R317 -/
def FABRIC_RX_CNT_COUNT : Fld := ⟨0x2078, 0, 32, 0, .rc, .none, 0, (2 ^ 32 - 1)⟩
/-- UM_FABRIC_BAD_CNT.COUNT [31:0] (R401): R317 -/
def FABRIC_BAD_CNT_COUNT : Fld := ⟨0x207C, 0, 32, 0, .rc, .none, 0, (2 ^ 32 - 1)⟩
/-- UM_DUMP_CFG.UNIT_TMO_US [9:0] (R401): R320; 0 ignored -/
def DUMP_CFG_UNIT_TMO_US : Fld := ⟨0x2080, 0, 10, 50, .rw, .none, 1, 1000⟩
/-- UM_DUMP_CFG.OVERWRITE [16] (R401): R318 -/
def DUMP_CFG_OVERWRITE : Fld := ⟨0x2080, 16, 1, 0, .rw, .none, 0, (2 ^ 1 - 1)⟩
/-- UM_DUMP_CTRL.TRIGGER [0] (R401): R318 -/
def DUMP_CTRL_TRIGGER : Fld := ⟨0x2084, 0, 1, 0, .wo, .none, 0, (2 ^ 1 - 1)⟩
/-- UM_DUMP_CTRL.ACK [1] (R401): Clears UNREAD -/
def DUMP_CTRL_ACK : Fld := ⟨0x2084, 1, 1, 0, .wo, .none, 0, (2 ^ 1 - 1)⟩
/-- UM_DUMP_STAT.VALID [0] (R401): R321 -/
def DUMP_STAT_VALID : Fld := ⟨0x2090, 0, 1, 0, .ro, .none, 0, (2 ^ 1 - 1)⟩
/-- UM_DUMP_STAT.UNREAD [1] (R401): R318 -/
def DUMP_STAT_UNREAD : Fld := ⟨0x2090, 1, 1, 0, .ro, .none, 0, (2 ^ 1 - 1)⟩
/-- UM_DUMP_STAT.BUSY [2] (R401): Collection runs -/
def DUMP_STAT_BUSY : Fld := ⟨0x2090, 2, 1, 0, .ro, .none, 0, (2 ^ 1 - 1)⟩
/-- UM_DUMP_STAT.DUMP_SEQ [63:32] (R401): Of the stored dump -/
def DUMP_STAT_DUMP_SEQ : Fld := ⟨0x2090, 32, 32, 0, .ro, .none, 0, (2 ^ 32 - 1)⟩
/-- UM_DUMP_STAT.LEN [95:64] (R401): Bytes -/
def DUMP_STAT_LEN : Fld := ⟨0x2090, 64, 32, 0, .ro, .none, 0, (2 ^ 32 - 1)⟩
/-- UM_DUMP_OFFSET.OFFSET [17:0] (R401): Multiple of 4 -/
def DUMP_OFFSET_OFFSET : Fld := ⟨0x20A0, 0, 18, 0, .rw, .none, 0, (2 ^ 18 - 1)⟩
/-- UM_DUMP_DATA.DATA [31:0] (R401): 4 bytes at OFFSET -/
def DUMP_DATA_DATA : Fld := ⟨0x20A4, 0, 32, 0, .ro, .none, 0, (2 ^ 32 - 1)⟩
/-- UM_DUMP_SKIP_CNT.COUNT [31:0] (R401): R318 -/
def DUMP_SKIP_CNT_COUNT : Fld := ⟨0x20A8, 0, 32, 0, .rc, .none, 0, (2 ^ 32 - 1)⟩
/-- UM_UNIT_SEL.INDEX [11:0] (R401): Table 2 of 12_faults_recovery.md -/
def UNIT_SEL_INDEX : Fld := ⟨0x20C0, 0, 12, 0, .rw, .none, 0, (2 ^ 12 - 1)⟩
/-- UM_UNIT_SEL.KIND [15:12] (R401): As above -/
def UNIT_SEL_KIND : Fld := ⟨0x20C0, 12, 4, 0, .rw, .none, 0, (2 ^ 4 - 1)⟩
/-- UM_UNIT_STAT.STATE [2:0] (R401): Table 15 of 12_faults_recovery.md -/
def UNIT_STAT_STATE : Fld := ⟨0x20C4, 0, 3, 0, .ro, .unit, 0, (2 ^ 3 - 1)⟩
/-- UM_UNIT_STAT.FAILS [7:4] (R401): R323 -/
def UNIT_STAT_FAILS : Fld := ⟨0x20C4, 4, 4, 0, .ro, .unit, 0, (2 ^ 4 - 1)⟩
/-- UM_UNIT_STAT.REFUSED [8] (R401): R323 -/
def UNIT_STAT_REFUSED : Fld := ⟨0x20C4, 8, 1, 0, .w1c, .unit, 0, (2 ^ 1 - 1)⟩
/-- UM_UNIT_CTRL.OFFLINE [0] (R401): R323 -/
def UNIT_CTRL_OFFLINE : Fld := ⟨0x20C8, 0, 1, 0, .wo, .none, 0, (2 ^ 1 - 1)⟩
/-- UM_UNIT_CTRL.RESTORE [1] (R401): R323 -/
def UNIT_CTRL_RESTORE : Fld := ⟨0x20C8, 1, 1, 0, .wo, .none, 0, (2 ^ 1 - 1)⟩
/-- UM_UNIT_CTRL.PREFER [2] (R401): R325 -/
def UNIT_CTRL_PREFER : Fld := ⟨0x20C8, 2, 1, 0, .wo, .none, 0, (2 ^ 1 - 1)⟩
/-- UM_UNIT_CFG.MAX_TRIES [3:0] (R401): 0 ignored -/
def UNIT_CFG_MAX_TRIES : Fld := ⟨0x20CC, 0, 4, 3, .rw, .none, 1, (2 ^ 4 - 1)⟩
/-- UM_UNIT_CFG.PRBS_MS [25:16] (R401): 1 to 1,000 -/
def UNIT_CFG_PRBS_MS : Fld := ⟨0x20CC, 16, 10, 100, .rw, .none, 1, 1000⟩
/-- UM_MAP_EPOCH.EPOCH [31:0] (R401): R324 -/
def MAP_EPOCH_EPOCH : Fld := ⟨0x20D0, 0, 32, 0, .ro, .none, 0, (2 ^ 32 - 1)⟩
/-- UM_SUP_STAT.CFG_ERR [0] (R402): R328 -/
def SUP_STAT_CFG_ERR : Fld := ⟨0x2400, 0, 1, 0, .w1c, .none, 0, (2 ^ 1 - 1)⟩
/-- UM_SUP_MON_SEL.KIND [3:0] (R402): R329 -/
def SUP_MON_SEL_KIND : Fld := ⟨0x2404, 0, 4, 0, .rw, .none, 0, (2 ^ 4 - 1)⟩
/-- UM_SUP_MON_SEL.INDEX [24:16] (R402): — -/
def SUP_MON_SEL_INDEX : Fld := ⟨0x2404, 16, 9, 0, .rw, .none, 0, (2 ^ 9 - 1)⟩
/-- UM_SUP_MON_DATA.VALUE [31:0] (R402): Filtered value -/
def SUP_MON_DATA_VALUE : Fld := ⟨0x2408, 0, 32, 0, .ro, .mon, 0, (2 ^ 32 - 1)⟩
/-- UM_SUP_MON_DATA.FAILED [32] (R402): R330 -/
def SUP_MON_DATA_FAILED : Fld := ⟨0x2408, 32, 1, 0, .ro, .mon, 0, (2 ^ 1 - 1)⟩
/-- UM_SUP_PWR_LIMIT.W [9:0] (R402): 100 to 900 -/
def SUP_PWR_LIMIT_W : Fld := ⟨0x2410, 0, 10, 900, .rw, .none, 0, (2 ^ 10 - 1)⟩
/-- UM_SUP_TRAY_LIMIT.W [9:0] (R402): R334 -/
def SUP_TRAY_LIMIT_W : Fld := ⟨0x2414, 0, 10, 900, .ro, .none, 0, (2 ^ 10 - 1)⟩
/-- UM_SUP_VF_LIMIT.FMIN [9:0] (R402): MHz, R335 -/
def SUP_VF_LIMIT_FMIN : Fld := ⟨0x2418, 0, 10, 500, .rw, .none, 0, (2 ^ 10 - 1)⟩
/-- UM_SUP_VF_LIMIT.VMIN [19:10] (R402): mV, R338 -/
def SUP_VF_LIMIT_VMIN : Fld := ⟨0x2418, 10, 10, 650, .rw, .none, 0, (2 ^ 10 - 1)⟩
/-- UM_SUP_VF_LIMIT.VMAX [29:20] (R402): mV -/
def SUP_VF_LIMIT_VMAX : Fld := ⟨0x2418, 20, 10, 800, .rw, .none, 0, (2 ^ 10 - 1)⟩
/-- UM_SUP_THERM_LIMIT.SLICE [7:0] (R402): °C, R336 -/
def SUP_THERM_LIMIT_SLICE : Fld := ⟨0x241C, 0, 8, 105, .rw, .none, 0, (2 ^ 8 - 1)⟩
/-- UM_SUP_THERM_LIMIT.CIST [15:8] (R402): °C -/
def SUP_THERM_LIMIT_CIST : Fld := ⟨0x241C, 8, 8, 105, .rw, .none, 0, (2 ^ 8 - 1)⟩
/-- UM_SUP_THERM_LIMIT.HBM [23:16] (R402): °C -/
def SUP_THERM_LIMIT_HBM : Fld := ⟨0x241C, 16, 8, 95, .rw, .none, 0, (2 ^ 8 - 1)⟩
/-- UM_THROTTLE_STAT.CAUSE [5:0] (R402): Bits: POWER, TRAY, THERM_SLICE, THERM_CIST, THERM_HBM, DROOP -/
def THROTTLE_STAT_CAUSE : Fld := ⟨0x2420, 0, 6, 0, .ro, .none, 0, (2 ^ 6 - 1)⟩
/-- UM_THROTTLE_STAT.HBM_PCT [14:8] (R402): R337 -/
def THROTTLE_STAT_HBM_PCT : Fld := ⟨0x2420, 8, 7, 100, .ro, .none, 0, (2 ^ 7 - 1)⟩
/-- UM_THROTTLE_STAT.CIST_PCT [22:16] (R402): R337 -/
def THROTTLE_STAT_CIST_PCT : Fld := ⟨0x2420, 16, 7, 100, .ro, .none, 0, (2 ^ 7 - 1)⟩
/-- UM_THROTTLE_STAT.CLK_MHZ [41:32] (R402): R337 -/
def THROTTLE_STAT_CLK_MHZ : Fld := ⟨0x2420, 32, 10, 1000, .ro, .none, 0, (2 ^ 10 - 1)⟩
/-- UM_THROTTLE_TIME_US.US [63:0] (R402): R337 -/
def THROTTLE_TIME_US_US : Fld := ⟨0x2428, 0, 64, 0, .rc, .none, 0, (2 ^ 64 - 1)⟩
/-- UM_SUP_IDLE_CFG.GATE_CYCLES [15:0] (R402): 16 to 65,535 -/
def SUP_IDLE_CFG_GATE_CYCLES : Fld := ⟨0x2430, 0, 16, 256, .rw, .none, 0, (2 ^ 16 - 1)⟩
/-- UM_SUP_IDLE_CFG.PARK_US [31:16] (R402): R332 -/
def SUP_IDLE_CFG_PARK_US : Fld := ⟨0x2430, 16, 16, 1000, .rw, .none, 0, (2 ^ 16 - 1)⟩
/-- UM_SUP_PSTATE_CTRL.TARGET [1:0] (R402): 3 requests U3, 0 wakes; 1 and 2 ignored -/
def SUP_PSTATE_CTRL_TARGET : Fld := ⟨0x2434, 0, 2, 0, .wo, .none, 0, (2 ^ 2 - 1)⟩
/-- UM_SUP_PSTATE_STAT.STATE [1:0] (R402): U0 to U3 -/
def SUP_PSTATE_STAT_STATE : Fld := ⟨0x2438, 0, 2, 0, .ro, .none, 0, (2 ^ 2 - 1)⟩
/-- UM_SUP_PSTATE_STAT.REFUSED [4] (R402): R333 -/
def SUP_PSTATE_STAT_REFUSED : Fld := ⟨0x2438, 4, 1, 0, .w1c, .none, 0, (2 ^ 1 - 1)⟩
/-- UM_SUP_PSTATE_STAT.REASON [10:8] (R402): R333 -/
def SUP_PSTATE_STAT_REASON : Fld := ⟨0x2438, 8, 3, 0, .ro, .none, 0, (2 ^ 3 - 1)⟩
/-- UM_SUP_PSTATE_STAT.ASLEEP_CNT [31:16] (R402): Cleared at U3 entry -/
def SUP_PSTATE_STAT_ASLEEP_CNT : Fld := ⟨0x2438, 16, 16, 0, .ro, .none, 0, (2 ^ 16 - 1)⟩
/-- UM_SUP_DROOP_CFG.RATE [7:0] (R402): R338 -/
def SUP_DROOP_CFG_RATE : Fld := ⟨0x243C, 0, 8, 16, .rw, .none, 0, (2 ^ 8 - 1)⟩
/-- UM_SUP_AGE_CFG.PERIOD_H [7:0] (R402): R339 -/
def SUP_AGE_CFG_PERIOD_H : Fld := ⟨0x2440, 0, 8, 24, .rw, .none, 0, (2 ^ 8 - 1)⟩
/-- UM_SUP_AGE_CFG.MARGIN_PCT [12:8] (R402): 2 to 20 -/
def SUP_AGE_CFG_MARGIN_PCT : Fld := ⟨0x2440, 8, 5, 5, .rw, .none, 0, (2 ^ 5 - 1)⟩
/-- UM_SUP_AGE_CTRL.REPLAN [0] (R402): R339 -/
def SUP_AGE_CTRL_REPLAN : Fld := ⟨0x2444, 0, 1, 0, .wo, .none, 0, (2 ^ 1 - 1)⟩
/-- UM_SUP_AGE_STAT.FMAX [9:0] (R402): MHz -/
def SUP_AGE_STAT_FMAX : Fld := ⟨0x2450, 0, 10, 1000, .ro, .none, 0, (2 ^ 10 - 1)⟩
/-- UM_SUP_AGE_STAT.VFLOOR [25:16] (R402): mV -/
def SUP_AGE_STAT_VFLOOR : Fld := ⟨0x2450, 16, 10, 650, .ro, .none, 0, (2 ^ 10 - 1)⟩
/-- UM_SUP_AGE_STAT.TIME [127:64] (R402): UM_CYCLE_COUNT of the re-plan -/
def SUP_AGE_STAT_TIME : Fld := ⟨0x2450, 64, 64, 0, .ro, .none, 0, (2 ^ 64 - 1)⟩
/-- UM_SUP_EQ_CFG.RIM_MIN [7:0] (R402): Eye height, mV -/
def SUP_EQ_CFG_RIM_MIN : Fld := ⟨0x2460, 0, 8, 15, .rw, .none, 0, (2 ^ 8 - 1)⟩
/-- UM_SUP_EQ_CFG.HBM_PERIOD_MS [29:16] (R402): 10 to 10,000 -/
def SUP_EQ_CFG_HBM_PERIOD_MS : Fld := ⟨0x2460, 16, 14, 100, .rw, .none, 0, (2 ^ 14 - 1)⟩
/-- UM_SUP_REFRESH_MIN.CIST_MULT [4:0] (R402): Interval factor in sixteenths, 1 to 16 (R159) -/
def SUP_REFRESH_MIN_CIST_MULT : Fld := ⟨0x2464, 0, 5, 16, .rw, .none, 0, (2 ^ 5 - 1)⟩
/-- UM_SUP_REFRESH_MIN.HBM_MULT [10:8] (R402): Rate factor, 1 to 4 (R160) -/
def SUP_REFRESH_MIN_HBM_MULT : Fld := ⟨0x2464, 8, 3, 1, .rw, .none, 0, (2 ^ 3 - 1)⟩
/-- UM_SUP_SAG_CFG.FEED_WARN [5:0] (R402): Volts, R385 -/
def SUP_SAG_CFG_FEED_WARN : Fld := ⟨0x2468, 0, 6, 48, .rw, .none, 0, (2 ^ 6 - 1)⟩
/-- UM_SUP_SAG_GLITCH_CNT.COUNT [31:0] (R402): R343 -/
def SUP_SAG_GLITCH_CNT_COUNT : Fld := ⟨0x246C, 0, 32, 0, .rc, .none, 0, (2 ^ 32 - 1)⟩
/-- UM_SUP_HOLD_CFG.TEST_H [7:0] (R402): R348 -/
def SUP_HOLD_CFG_TEST_H : Fld := ⟨0x2470, 0, 8, 24, .rw, .none, 0, (2 ^ 8 - 1)⟩
/-- UM_SUP_HOLD_STAT.C_UF [15:0] (R402): R348 -/
def SUP_HOLD_STAT_C_UF : Fld := ⟨0x2478, 0, 16, 0, .ro, .none, 0, (2 ^ 16 - 1)⟩
/-- UM_SUP_HOLD_STAT.V_MV [31:16] (R402): Charged voltage -/
def SUP_HOLD_STAT_V_MV : Fld := ⟨0x2478, 16, 16, 0, .ro, .none, 0, (2 ^ 16 - 1)⟩
/-- UM_SUP_HOLD_STAT.E_UJ [47:32] (R402): Saturates -/
def SUP_HOLD_STAT_E_UJ : Fld := ⟨0x2478, 32, 16, 0, .ro, .none, 0, (2 ^ 16 - 1)⟩
/-- UM_SUP_HOLD_STAT.WEAK [48] (R402): R348 -/
def SUP_HOLD_STAT_WEAK : Fld := ⟨0x2478, 48, 1, 0, .ro, .none, 0, (2 ^ 1 - 1)⟩
/-- UM_SUP_HOLD_STAT.FAIL [49] (R402): R348 -/
def SUP_HOLD_STAT_FAIL : Fld := ⟨0x2478, 49, 1, 0, .ro, .none, 0, (2 ^ 1 - 1)⟩
/-- UM_SUP_REC_OFFSET.OFFSET [15:0] (R402): Multiple of 4 -/
def SUP_REC_OFFSET_OFFSET : Fld := ⟨0x2480, 0, 16, 0, .rw, .none, 0, (2 ^ 16 - 1)⟩
/-- UM_SUP_REC_DATA.DATA [31:0] (R402): R346 -/
def SUP_REC_DATA_DATA : Fld := ⟨0x2484, 0, 32, 0, .ro, .none, 0, (2 ^ 32 - 1)⟩
/-- UM_SUP_REC_STAT.VALID [0] (R402): R346 -/
def SUP_REC_STAT_VALID : Fld := ⟨0x2488, 0, 1, 0, .ro, .none, 0, (2 ^ 1 - 1)⟩
/-- UM_SUP_REC_STAT.CAUSE [3:1] (R402): R342 -/
def SUP_REC_STAT_CAUSE : Fld := ⟨0x2488, 1, 3, 0, .ro, .none, 0, (2 ^ 3 - 1)⟩
/-- UM_SUP_REC_STAT.SAVE_SEQ [63:32] (R402): — -/
def SUP_REC_STAT_SAVE_SEQ : Fld := ⟨0x2488, 32, 32, 0, .ro, .none, 0, (2 ^ 32 - 1)⟩

/-- Fields, part 0. -/
def part0 : List Fld :=
  [ID_PART_ID, ID_STEPPING, BOOT_STAT_PHASE, BOOT_STAT_ERR, BOOT_STAT_COUNT,
   CYCLE_COUNT_COUNT, CHIP_ID_CHIP, JOB_CHIPS_CHIPS, IRQ_MASK_ERR, FW_IMAGE_ADDR_ADDR,
   FW_CTRL_LOAD, FW_CTRL_COMMIT_SVN, FW_STAT_RESULT, FW_STAT_REFUSED, FW_FAIL_CNT_COUNT,
   FW_KEY_REVOKE_SLOT, FW_BUILD_BUILD_ID, FW_SEC_STAT_MIN_SVN, FW_SEC_STAT_SVN, FW_SEC_STAT_REVOKED,
   FW_SEC_STAT_KEY_INDEX, RET_STAT_BUSY, RET_STAT_FAILED_REGION, RET_STAT_MAP_FULL, RET_CFG_SERIAL_SERIAL,
   RET_CFG_VOLT_V_ABS_MIN, RET_CFG_VOLT_V_ABS_MAX, RET_CFG_MISC_FMAX_CAP, RET_CFG_MISC_BOOT_EXER, RET_CFG_TEST_TIME_TEST_TIME,
   Q_CREDIT_POOL_FREE, ARB_AGE_LIMIT_LIMIT, CTX_SEL_CTX, CTX_STAT_STATE, CTX_STAT_KIND,
   CTX_STAT_PARTITION, CTX_STAT_GEN, CTX_LATE_CNT_COUNT, CTX_JOB_JOB_ID, CTX_RESET_CTX]

/-- Fields, part 1. -/
def part1 : List Fld :=
  [CTX_RESET_JOB_ABORT, DRAIN_TMO_US, PART_CFG_LAYOUT, PART_STAT_CFG_ERR, VALVE_SEL_VALVE,
   VALVE_COUNT_COUNT, VALVE_STAT_SAT, VALVE_STAT_LAST, TBL_SEL_TABLE, TBL_VER_SEL_VERSION,
   TBL_COMMIT_STEP_STEP, TBL_PUB_VER_VERSION, TBL_WORK_VER_VERSION, TBL_BASE_VER_VERSION, TBL_VER_STATE_STATE,
   TBL_INFLIGHT_COUNT, TBL_PAD_CNT_COUNT, TBL_INVALID_CNT_COUNT, TBL_MISSING_CNT_COUNT, TBL_DELTA_USED_SLOTS,
   TBL_FOLD_ROWS_ROWS, TBL_GRAD_EXP_E, TBL_GRAD_AMAX_AMAX, TBL_GRAD_NONFINITE_CNT_COUNT, TBL_MERGE_CORRUPT_CNT_COUNT,
   BASIN_CLASS_SEL_CLASS, BASIN_CLASS_CFG_GRANULES, BASIN_CLASS_CFG_WAYS, BASIN_CLASS_CFG_SLOT_LOG2, BASIN_CLASS_CFG_FREQ_FILTER,
   BASIN_CTRL_APPLY, BASIN_CTRL_FLUSH, BASIN_STAT_APPLY_BUSY, BASIN_STAT_FLUSH_BUSY, BASIN_STAT_CFG_ERR,
   BASIN_STAT_GRANULES_FREE, BASIN_WAY_FAIL_THRESH, BASIN_WAY_FAIL_WINDOW, BASIN_SLICE_SEL_SLICE, BASIN_HIT_CNT_COUNT]

/-- Fields, part 2. -/
def part2 : List Fld :=
  [BASIN_MISS_CNT_COUNT, BASIN_DISABLED_CNT_WAYS, PUNTY_USED_ENTRIES, GOB_PROMOTE_CNT_COUNT, GOB_DROP_CNT_COUNT,
   CULLET_STALL_CNT_COUNT, CULLET_HOST_HELD_TILES, CONF_SEL_SLICE, CONF_FREE_TILES, CONF_NOSPACE_CNT_COUNT,
   LEHR_FREE_KIB, SRAM_CE_CNT_COUNT, LANE_STAT_TXB_FAIL, LANE_STAT_COLREAD, LEHR_RECOMPUTE_CNT_COUNT,
   LEHR_UNUSED_CNT_COUNT, LEHR_WAIT_CNT_COUNT, LEHR_CTX_SEL_CTX, LEHR_SPILL_BASE_BASE, LEHR_SPILL_LEN_LEN,
   LEHR_SPILL_USED_KIB, LANE_CTRL_TXB_EN, LANE_SCHED_PATTERN, LANE_SCHED_AGE, NORM_EPS_EPS,
   FN_SLOT_SEL_SLOT, FN_XMIN_X_MIN, FN_CFG_LOG2_STEP, FN_STAT_CFG_ERR, FN_STAT_BUSY_ERR,
   FN_ENTRY_SEL_INDEX, FN_ENTRY_SEL_WORD, FN_ENTRY_SEL_TABLE, FN_ENTRY_DATA_DATA, FN_CTX_SEL_CTX,
   FN_CTX_SLOT_SLOT, HBM_CTRL_JET_EN, HBM_REPAIR_EXHAUST_COUNT, CIST_SCRUB_EN, CIST_SCRUB_PERIOD]

/-- Fields, part 3. -/
def part3 : List Fld :=
  [CIST_SCRUB_THRESH, CIST_SCRUB_VAULT_UE_LIMIT, CIST_REMAP_CNT_COUNT, CIST_REMAP_PEND_ROWS, MEM_UNIT_SEL_INDEX,
   MEM_UNIT_SEL_KIND, MEM_ECC_CE_CNT_COUNT, MEM_ECC_UE_CNT_COUNT, MEM_REFRESH_STAT_BAND, MEM_REFRESH_STAT_RATE,
   EXER_SEL_INDEX, EXER_SEL_KIND, EXER_CFG_ORDER, EXER_CFG_DATA, EXER_CFG_OPS,
   EXER_CFG_JET, EXER_CFG_WRITE_PCT, EXER_SEED_SEED, EXER_CTRL_START, EXER_BASE_BASE,
   EXER_LEN_LEN, EXER_STAT_DONE, EXER_STAT_PASS, EXER_STAT_REFUSED, EXER_STAT_BUSY,
   EXER_ERR_CNT_COUNT, EXER_ERR_ADDR_ADDR, EXER_ERR_XOR_XOR, EXER_BYTES_BYTES, EXER_CYCLES_CYCLES,
   PLACE_RPT_BASE_BASE, PLACE_CFG_CACHE_GRANULES, PLACE_CFG_EPOCH_US, PLACE_STAT_MOVING, PLACE_EPOCH_EPOCH,
   PLACE_CANCEL_CNT_COUNT, PLACE_HOLD_STALL_COUNT, PLACE_POOL_SEL_TIER, PLACE_POOL_BASE_BASE, PLACE_POOL_LEN_LEN]

/-- Fields, part 4. -/
def part4 : List Fld :=
  [PLACE_POOL_TARGET_TARGET, PLACE_POOL_FREE_KIB, PLACE_ROW_SEL_ROW, PLACE_ROW_SEL_TABLE, PLACE_ROW_STAT_STATE,
   PLACE_ROW_STAT_SRC, PLACE_ROW_STAT_VALID, PLACE_ROW_STAT_CUR_TIER, PLACE_ROW_STAT_NEW_TIER, SKIM_CFG_MODE,
   SKIM_CFG_DEST, SKIM_CFG_WINDOW_MS, SKIM_CFG_BUDGET, SKIM_CFG_FILL_TARGET, SKIM_CFG_H_MIN,
   SKIM_CFG_H_MAX, SKIM_STAT_CFG_ERR, SKIM_THRESH_H, SKIM_TABLE_SEL_TABLE, SKIM_TABLE_CFG_TRACK,
   SKIM_TABLE_CFG_PROMOTE, SKIM_TABLE_CFG_RECORD_BASE, SKIM_LOAD_SEL_TABLE, SKIM_LOAD_SEL_SHARD, SKIM_LOAD_USES,
   SKIM_LOAD_FETCHES, SKIM_LOAD_KIB, SKIM_LOAD_REMOTE, SKIM_SKIP_CNT_COUNT, SKIM_DROP_CNT_COUNT,
   SKIM_RING_BASE_BASE, SKIM_RING_CFG_DEPTH_LOG2, SKIM_RING_PI_PI, SKIM_RING_CI_CI, CXL_REGION_SEL_REGION,
   CXL_REGION_BASE_BASE, CXL_REGION_SIZE_SIZE, CXL_REGION_CTRL_EN, CXL_REGION_CTRL_CFG_ERR, NVMF_TGT_SEL_TARGET]

/-- Fields, part 5. -/
def part5 : List Fld :=
  [NVMF_TGT_CFG_RIM_PORTS, NVMF_TGT_CFG_LBA_LOG2, NVMF_TGT_CFG_QUEUES, NVMF_TGT_CFG_QDEPTH, NVMF_TGT_CFG_NSID,
   NVMF_TGT_CTRL_CONNECT, NVMF_TGT_STAT_CONNECTED, NVMF_TGT_STAT_LAST_ERR, NVMF_TGT_STAT_CAPACITY, NVMF_TGT_ADDR_ADDR,
   NVMF_TMO_US, REMOTE_TMO_US, REMOTE_CFG_SERVE_WEIGHT, REMOTE_BAD_MSG_COUNT, TWR_NACK_CNT_COUNT,
   RIM_PORT_SEL_PORT, RIM_PORT_STAT_UP, RIM_PORT_STAT_SPARE_USED, RIM_PORT_STAT_RETRAINS, RIM_PORT_CFG_MAC,
   RIM_PORT_CFG_VLAN, RIM_PORT_CFG_VLAN_EN, RIM_PORT_CFG_PRIO, RIM_PORT_CFG_DSCP, RIM_PORT_CFG_IPV6,
   RIM_PORT_CFG_IP, RIM_PEER_SEL_PEER, RIM_PEER_SEL_PORT, RIM_PEER_CTRL_CONNECT, RIM_PEER_STAT_DATA_QP,
   RIM_PEER_STAT_ABORT_QP, RIM_PEER_ADDR_ADDR, STREAM_DESC_SEL_DESC, STREAM_DESC_CFG_CTX, STREAM_DESC_STAT_STATE,
   STREAM_DESC_STAT_PENDING, STREAM_DESC_STAT_GEN, STREAM_CURSOR_PC, STREAM_CURSOR_BYTE_OFF, STREAM_DELIVERED_ELEMENTS]

/-- Fields, part 6. -/
def part6 : List Fld :=
  [ATC_INVAL_CNT_COUNT, PRI_CFG_RETRY, PRI_CFG_TMO_MS, PRI_STAT_STOPPED, PRI_STAT_OUTSTANDING,
   HOSTPATH_CFG_RO_EN, HOSTPATH_CFG_FLUSH_KIB, HOSTPATH_TMO_US, HOSTPATH_STAT_STATE, HOSTPATH_STAT_CAUSE,
   HOSTPATH_STAT_REATTACH_ERR, HOSTPATH_STAT_EPOCH, HOSTPATH_CTRL_CLOSE, HOSTPATH_REATTACH_EPOCH, HOSTPATH_CLOSE_CNT_COUNT,
   HOSTPATH_HELD_REPLIES_REPLIES, HOSTPATH_UNWRITTEN_CNT_COUNT, ERR_LOG_HEAD_SEQ, ERR_LOG_SEL_SLOT, ERR_LOG_ACK_SEQ,
   ERR_STAT_NEW, ERR_OVERWRITE_CNT_COUNT, HANG_CFG_PERIOD_US, HANG_CFG_STALL_PERIODS, HANG_CFG_DEADLOCK_ACT,
   HANG_CFG_UNIT_TMO_US, HANG_OLDEST_QUEUE, HANG_OLDEST_CLASS, HANG_OLDEST_VALID, HANG_OLDEST_TAG,
   HANG_OLDEST_PERIODS, HANG_STAT_DEADLOCK, HANG_STAT_SATURATED, HANG_STAT_SOFTWARE, HANG_STAT_EXTERNAL,
   HANG_STAT_FROZEN, RESET_CTRL_RUNG, RESET_CTRL_PART, RESET_CTRL_FW_RELOAD, RESET_STAT_BUSY]

/-- Fields, part 7. -/
def part7 : List Fld :=
  [RESET_STAT_REFUSED, RESET_STAT_HELD, RESET_STAT_RUNG, RESET_STAT_STEP, RESET_STAT_PART,
   ESC_CFG_MAX_RUNG, ESC_CFG_RUNG_TMO_US, FABRIC_CFG_ABORT_ACT, FABRIC_CFG_HOLDOFF_US, FABRIC_ABORT_SEND_JOB_ID,
   FABRIC_RX_CNT_COUNT, FABRIC_BAD_CNT_COUNT, DUMP_CFG_UNIT_TMO_US, DUMP_CFG_OVERWRITE, DUMP_CTRL_TRIGGER,
   DUMP_CTRL_ACK, DUMP_STAT_VALID, DUMP_STAT_UNREAD, DUMP_STAT_BUSY, DUMP_STAT_DUMP_SEQ,
   DUMP_STAT_LEN, DUMP_OFFSET_OFFSET, DUMP_DATA_DATA, DUMP_SKIP_CNT_COUNT, UNIT_SEL_INDEX,
   UNIT_SEL_KIND, UNIT_STAT_STATE, UNIT_STAT_FAILS, UNIT_STAT_REFUSED, UNIT_CTRL_OFFLINE,
   UNIT_CTRL_RESTORE, UNIT_CTRL_PREFER, UNIT_CFG_MAX_TRIES, UNIT_CFG_PRBS_MS, MAP_EPOCH_EPOCH,
   SUP_STAT_CFG_ERR, SUP_MON_SEL_KIND, SUP_MON_SEL_INDEX, SUP_MON_DATA_VALUE, SUP_MON_DATA_FAILED]

/-- Fields, part 8. -/
def part8 : List Fld :=
  [SUP_PWR_LIMIT_W, SUP_TRAY_LIMIT_W, SUP_VF_LIMIT_FMIN, SUP_VF_LIMIT_VMIN, SUP_VF_LIMIT_VMAX,
   SUP_THERM_LIMIT_SLICE, SUP_THERM_LIMIT_CIST, SUP_THERM_LIMIT_HBM, THROTTLE_STAT_CAUSE, THROTTLE_STAT_HBM_PCT,
   THROTTLE_STAT_CIST_PCT, THROTTLE_STAT_CLK_MHZ, THROTTLE_TIME_US_US, SUP_IDLE_CFG_GATE_CYCLES, SUP_IDLE_CFG_PARK_US,
   SUP_PSTATE_CTRL_TARGET, SUP_PSTATE_STAT_STATE, SUP_PSTATE_STAT_REFUSED, SUP_PSTATE_STAT_REASON, SUP_PSTATE_STAT_ASLEEP_CNT,
   SUP_DROOP_CFG_RATE, SUP_AGE_CFG_PERIOD_H, SUP_AGE_CFG_MARGIN_PCT, SUP_AGE_CTRL_REPLAN, SUP_AGE_STAT_FMAX,
   SUP_AGE_STAT_VFLOOR, SUP_AGE_STAT_TIME, SUP_EQ_CFG_RIM_MIN, SUP_EQ_CFG_HBM_PERIOD_MS, SUP_REFRESH_MIN_CIST_MULT,
   SUP_REFRESH_MIN_HBM_MULT, SUP_SAG_CFG_FEED_WARN, SUP_SAG_GLITCH_CNT_COUNT, SUP_HOLD_CFG_TEST_H, SUP_HOLD_STAT_C_UF,
   SUP_HOLD_STAT_V_MV, SUP_HOLD_STAT_E_UJ, SUP_HOLD_STAT_WEAK, SUP_HOLD_STAT_FAIL, SUP_REC_OFFSET_OFFSET]

/-- Fields, part 9. -/
def part9 : List Fld :=
  [SUP_REC_DATA_DATA, SUP_REC_STAT_VALID, SUP_REC_STAT_CAUSE, SUP_REC_STAT_SAVE_SEQ]

/-- Every field. -/
def all : List Fld := part0 ++ part1 ++ part2 ++ part3 ++ part4 ++ part5 ++ part6 ++ part7 ++ part8 ++ part9

end Reg

/-- The fields with a bit in the 32-bit word at an offset. -/
def fieldsAt (o : Nat) : List Fld :=
  Reg.all.filter fun f => decide (f.off + 4 * (f.lsb / 32) ≤ o ∧ o ≤ f.off + 4 * ((f.lsb + f.width - 1) / 32))

end Sys2Proof.Machine
end

