-- ==== Sys2Proof/Machine/State.lean ====
section
/-! DEFINITION. The state of the engine: every register, queue, buffer, counter, mode and pin the manual gives it, as plain
data, and the queue of the commands that wait. -/

namespace Sys2Proof.Machine

/-! ### Outcomes -/

/-- Reasons a command stops the machine. There is none: every condition the manual gives has an effect on the state. -/
inductive Fault
  deriving DecidableEq, Repr

/-- Reasons a command has no meaning. -/
inductive Refusal
  /-- a command without a meaning yet, by its mnemonic; raised by the dispatcher alone; safe -/
  | notModelled (mnemonic : String)
  deriving DecidableEq, Repr

/-! ### Queues (02_command_packets.md) -/

/-- Queue states (02 Table 1). -/
inductive QState
  /-- 0 -/
  | disabled
  /-- 1 -/
  | active
  /-- 2 -/
  | held
  /-- 3 -/
  | fenced
  /-- 4 -/
  | overrun
  /-- 5 -/
  | draining
  deriving DecidableEq, Repr

/-- UM_Q_CFG (R25, R403). -/
structure QCfg where
  /-- DEPTH_LOG2 -/
  depthLog2 : Nat := 6
  /-- HOSTPATH_POLICY: 0 HOLD, 1 FAIL, others reserved -/
  policy : Nat := 0
  /-- CTX -/
  ctx : Nat := 0
  /-- WEIGHT -/
  weight : Nat := 1
  /-- CREDIT_LIMIT -/
  limit : Nat := 1
  deriving DecidableEq, Repr

/-- One working copy of PI, CI and the free credits (R43). -/
structure QPtrs where
  /-- reply producer index -/
  pi : Nat := 0
  /-- reply consumer index -/
  ci : Nat := 0
  /-- free credits -/
  free : Nat := 1
  deriving DecidableEq, Repr

/-- The write-1-to-clear bits of UM_Q_STAT. -/
structure QFlags where
  /-- CFG_ERR (R26) -/
  cfgErr : Bool := false
  /-- DB_OVERRUN (R29) -/
  dbOverrun : Bool := false
  /-- UNDERRUN (R42) -/
  underrun : Bool := false
  /-- RESET_REFUSED (R44) -/
  resetRefused : Bool := false
  deriving DecidableEq, Repr

/-- A command queue. -/
structure Queue where
  /-- UM_Q_BASE, the byte address of the command ring (R25) -/
  base : Nat := 0
  /-- UM_Q_REPLY_BASE, the byte address of the reply ring -/
  replyBase : Nat := 0
  /-- UM_Q_CFG -/
  cfg : QCfg := {}
  /-- STATE -/
  st : QState := .disabled
  /-- the bit ENABLE as FENCED shows it (R407) -/
  enable : Bool := false
  /-- W1C bits of UM_Q_STAT -/
  flags : QFlags := {}
  /-- PTR_FAULT (R43) -/
  ptrFault : Nat := 0
  /-- last accepted tail (R29) -/
  tail : Nat := 0
  /-- fetch index (R28) -/
  fetch : Nat := 0
  /-- packets whose fetch has begun and that have not arrived (R40) -/
  begun : Nat := 0
  /-- W: slots covered by accepted doorbells and not consumed as replies (R29) -/
  w : Nat := 0
  /-- slots of the packet of each unconsumed reply, oldest first -/
  unread : List Nat := []
  /-- first working copy -/
  p1 : QPtrs := {}
  /-- second working copy -/
  p2 : QPtrs := {}
  /-- completion counter: replies written since the last ring reset (R43) -/
  posted : Nat := 0
  /-- last CI write taken (R43) -/
  lastCi : Nat := 0
  /-- SEQ of the next reply (R40) -/
  seq : Nat := 0
  /-- PHASE of the current lap -/
  phase : Bool := true
  /-- the engine's copy of the pointer mirror (R44) -/
  mirror : Nat := 0
  /-- UM_Q_UNDERRUN_CNT -/
  underruns : Nat := 0
  /-- age (R46) -/
  age : Nat := 0
  /-- promoted for the next round (R46) -/
  promoted : Bool := false
  deriving DecidableEq, Repr

/-- The arbiter's round (R45). -/
structure Arb where
  /-- a round runs -/
  inRound : Bool := false
  /-- part 1, 2 or 3 of it -/
  part : Nat := 1
  /-- the queue visited, or the next one -/
  pos : Nat := 0
  /-- grants that queue has had in the round -/
  count : Nat := 0
  /-- promoted queues still to serve in part 1 -/
  todo : List Nat := []
  /-- queues eligible when the round began -/
  start : List Nat := []
  /-- queues granted in the round -/
  granted : List Nat := []
  /-- part 2 made a grant -/
  weighted : Bool := false
  /-- a queue was enabled since the last start (R166) -/
  used : Bool := false
  /-- age of the serve queue (R195) -/
  serveAge : Nat := 0
  /-- the serve queue is promoted for the next round -/
  servePromoted : Bool := false
  deriving DecidableEq, Repr

/-! ### Commands -/

/-- Status codes of a reply (02 Table 6). -/
inductive St
  /-- 0x00 -/
  | ok
  /-- 0x01 -/
  | queueFull
  /-- 0x02 -/
  | badOpcode
  /-- 0x03 -/
  | badField
  /-- 0x04 -/
  | priv
  /-- 0x05 -/
  | ctxMismatch
  /-- 0x06 -/
  | ctxClosed
  /-- 0x07 -/
  | stepStale
  /-- 0x08 -/
  | stepAhead
  /-- 0x09 -/
  | noTable
  /-- 0x0A -/
  | versionState
  /-- 0x0B -/
  | descBusy
  /-- 0x0C -/
  | noSpace
  /-- 0x0D -/
  | xlateFault
  /-- 0x0E -/
  | hostPathLost
  /-- 0x0F -/
  | dataCorrupt
  /-- 0x10 -/
  | remoteLost
  /-- 0x11 -/
  | fabricAbort
  /-- 0x12 -/
  | drainTimeout
  /-- 0x13 -/
  | aborted
  /-- 0x14 -/
  | hwError
  deriving DecidableEq, Repr

/-- Progress of a command without a reply. -/
inductive Phase
  /-- admitted, reading its CASCADE feature records (R35) -/
  | reading
  /-- admitted, waiting for the arbiter -/
  | admitted
  /-- issued; its own row has not run -/
  | issued
  /-- its row has run; it waits for an event -/
  | running
  /-- its status is decided -/
  | done
  deriving DecidableEq, Repr

/-- A translation fault being served (R262, R263). -/
structure XFault where
  /-- faulting address -/
  addr : Nat
  /-- write access -/
  write : Bool
  /-- address field -/
  site : FaultSite
  /-- further requests sent after a Success without permission -/
  retries : Nat
  /-- its page request was sent; otherwise it waits for one of the outstanding requests to end (R263) -/
  sent : Bool
  deriving DecidableEq, Repr

/-- A zero-length read outstanding (R266, R268). -/
structure FlushRead where
  /-- host address -/
  addr : Nat
  /-- host bytes of the command that its completion makes known delivered -/
  covers : Nat
  deriving DecidableEq, Repr

/-- What a command or generation has moved over the host path and the chip path (R266, R268). -/
structure HostUse where
  /-- it has made a host access -/
  touched : Bool := false
  /-- chip-path bytes not acknowledged -/
  chipPending : Nat := 0
  /-- chip-path bytes acknowledged -/
  chipDone : Nat := 0
  /-- host bytes written in all -/
  hostWritten : Nat := 0
  /-- host bytes known delivered by a completed zero-length read -/
  hostKnown : Nat := 0
  /-- host bytes written since the last checkpoint boundary -/
  sinceCkpt : Nat := 0
  /-- zero-length reads outstanding, oldest first -/
  reads : List FlushRead := []
  /-- last host address written -/
  lastHost : Nat := 0
  /-- last address written in each translated page, for STRONG_COMPLETE -/
  pages : List (Nat × Nat) := []
  /-- the flush reads of the completion were issued -/
  flushed : Bool := false
  /-- translation fault being served -/
  fault : Option XFault := none
  deriving DecidableEq, Repr

/-- A table version named by a command at admission (R70). -/
structure Snap where
  /-- table -/
  table : Nat
  /-- version -/
  version : Nat
  deriving DecidableEq, Repr


/-! ### Tables (03_tables_versions.md) -/

/-- A table descriptor (R48). -/
structure Desc where
  /-- FORMAT: 0 FP32, 1 BF16, 2 FP16, 3 FP8 E4M3, 4 FP8 E5M2, 5 INT8, 6 INT4 -/
  format : Nat := 0
  /-- VERSIONED -/
  versioned : Bool := false
  /-- ADAPTER -/
  adapter : Bool := false
  /-- XLATE: 0 direct, 1 modulo, 2 hashed -/
  xlate : Nat := 0
  /-- CLASS -/
  cls : Nat := 0
  /-- OPT: 0 SGD, 1 momentum, 2 row-wise Adagrad, 3 row-wise Adam -/
  opt : Nat := 0
  /-- STATE_FMT: 0 FP32, 1 BF16 -/
  stateFmt : Nat := 0
  /-- ACT_FMT -/
  actFmt : Nat := 0
  /-- TRAIN_EN -/
  trainEn : Bool := false
  /-- DELTA_TIER -/
  deltaTier : Nat := 0
  /-- ROW_LEN -/
  rowLen : Nat := 16
  /-- SHARD_LOG2 -/
  shardLog2 : Nat := 10
  /-- TRAIN_CTX -/
  trainCtx : Nat := 0
  /-- ROWS -/
  rows : Nat := 1
  /-- HASH_SEED -/
  seed : Nat := 0
  /-- DELTA_ROWS -/
  deltaRows : Nat := 0
  /-- DELTA_POOL_ADDR -/
  deltaPool : Nat := 0
  /-- GRAD_EXP, signed -/
  gradExp : Int := 0
  /-- AMAX_HIST -/
  amaxHist : Nat := 1
  /-- RANK -/
  rank : Nat := 0
  /-- A_FMT: 0 FP32, 1 BF16 -/
  aFmt : Nat := 0
  /-- B_ADDR -/
  bAddr : Nat := 0
  /-- OPT_P0 to OPT_P3 -/
  optP : List Word := []
  deriving DecidableEq, Repr

/-- A shard-map entry (R58). -/
structure Shard where
  /-- TIER: 0 NONE, 1 cistern, 2 HBM4, 3 host-attached, 4 flash, 5 REMOTE -/
  tier : Nat
  /-- CHIP -/
  chip : Nat
  /-- TARGET -/
  target : Nat
  /-- BASE -/
  base : Nat
  deriving DecidableEq, Repr

/-- Version states (03 Table 4), with the codes of 03 Table 5. -/
inductive VState
  /-- 1 -/
  | loading
  /-- 2 -/
  | working
  /-- 3 -/
  | published
  /-- 4 -/
  | superseded
  /-- 5 -/
  | retiring
  /-- 6 -/
  | free
  deriving DecidableEq, Repr

/-- The matrix B of an adapter version with its optimiser state (R78, R222). -/
structure BMat where
  /-- RANK × ROW_LEN elements, row k at k × ROW_LEN -/
  b : List Word := []
  /-- per-element optimiser state, codes of STATE_FMT -/
  st : List Word := []
  /-- OPT_S0 and OPT_S1 of each row of B -/
  scal : List (Word × Word) := []
  deriving DecidableEq, Repr

/-- A version other than FREE. -/
structure Version where
  /-- number -/
  num : Nat
  /-- state -/
  st : VState
  /-- commands, and served lookups, that snapshot it (R70, R73) -/
  inflight : Nat := 0
  /-- matrix B -/
  b : BMat := {}
  /-- withheld TABLE_RETIREs (R65) -/
  retires : List Nat := []
  deriving DecidableEq, Repr

/-- An entry of the overlay index: delta row to slot (R67). -/
structure Delta where
  /-- version -/
  version : Nat
  /-- row -/
  row : Nat
  /-- delta slot -/
  slot : Nat
  deriving DecidableEq, Repr

/-- A delta slot reserved for a row of the working version (R67, R134). -/
structure Resv where
  /-- row -/
  row : Nat
  /-- slot -/
  slot : Nat
  /-- SCATTER_GRADs, pushes and ZERO_ROWS that hold it -/
  holders : List Nat
  deriving DecidableEq, Repr

/-- Rows a ZERO_ROWS zeroes at the next commit (R133). -/
structure ZeroJob where
  /-- the command -/
  cmd : Nat
  /-- rows -/
  rows : List Nat
  deriving DecidableEq, Repr

/-! ### Forward commands (04_gather_pool.md, 09_interaction_lanes.md) -/

/-- One use and its index-list entry (R84, R86). -/
structure Use where
  /-- dropped under R57: 0 PAD, 1 INVALID, 2 MISSING -/
  reason : Option Nat
  /-- logical row of a kept use -/
  row : Nat
  /-- logical home slice (R60) -/
  slice : Nat
  /-- unique number within the slice -/
  uniq : Nat
  deriving DecidableEq, Repr

/-- One feature of a forward command: a GATHER_POOL has one. -/
structure Feat where
  /-- table -/
  table : Nat
  /-- snapshot version -/
  version : Nat
  /-- POOL -/
  pool : Nat
  /-- ROW_LEN -/
  rowLen : Nat
  /-- the context trains the table (R74) -/
  trained : Bool
  /-- its lehr records were released -/
  released : Bool := false
  /-- offsets (R82) -/
  offs : List Nat := []
  /-- uses in array order -/
  uses : List Use := []
  /-- weights under POOL 2 -/
  weights : List Word := []
  deriving DecidableEq, Repr

/-- How a unique row is served. -/
inductive Via
  /-- pooled in the lanes -/
  | lane
  /-- pooled in the weir of a vault (R149) -/
  | weir
  /-- pooled on its home chip (R194) -/
  | remote
  deriving DecidableEq, Repr

/-- A unique row of a command. -/
structure RowVal where
  /-- table -/
  table : Nat
  /-- row -/
  row : Nat
  /-- where it is pooled -/
  via : Via
  /-- its FP32 elements once it is read, for the lanes -/
  elems : Option (List Word) := none
  /-- its fetch or request was issued, or it was found in the slice -/
  asked : Bool := false
  /-- served -/
  done : Bool := false
  deriving DecidableEq, Repr

/-- Exact terms of one leaf, or max candidates, that arrived as a partial (R152, R196). -/
inductive Terms
  /-- exact sums by element, each a value (-1)^n × m × 2^e, or a special value as an FP32 code -/
  | sum (elems : List (Option (Int × Int) × Word))
  /-- winners by element: FP32 value and bag position; none where there is no candidate -/
  | max (elems : List (Option (Word × Nat)))
  deriving DecidableEq, Repr

/-- A partial that entered a leaf. -/
structure LeafTerm where
  /-- feature -/
  feature : Nat
  /-- bag -/
  bag : Nat
  /-- home slice of R60 -/
  slice : Nat
  /-- content -/
  terms : Terms
  deriving DecidableEq, Repr

/-- A partial in a weir, or on its way to the home slice (R151). -/
structure Partial where
  /-- number -/
  id : Nat
  /-- command -/
  cmd : Nat
  /-- feature -/
  feature : Nat
  /-- bag -/
  bag : Nat
  /-- logical home slice of its rows (R60) -/
  slice : Nat
  /-- physical vault; none for a remote partial -/
  vault : Option Nat
  /-- content -/
  terms : Terms
  /-- closed and sent up -/
  closed : Bool
  /-- form of R153: 0 NATIVE, 1 FP32, 2 EXACT -/
  form : Nat
  deriving DecidableEq, Repr

/-- A bag of a feature, pooled and normalised (R97 to R99, R103). -/
structure BagVec where
  /-- feature -/
  feature : Nat
  /-- bag or sample -/
  bag : Nat
  /-- vector, FP32 -/
  y : List Word
  /-- argmax by element; none is NONE (R94) -/
  argmax : List (Option Nat)
  /-- mean -/
  mean : Word
  /-- rstd -/
  rstd : Word
  deriving DecidableEq, Repr

/-- A frame of a forward command (R104). -/
structure TFrame where
  /-- KIND -/
  kind : Nat
  /-- FEATURE -/
  feature : Nat
  /-- INDEX -/
  index : Nat
  /-- payload, without padding -/
  payload : List Byte
  /-- left the engine -/
  sent : Bool := false
  deriving DecidableEq, Repr

/-- Work of a GATHER_POOL, CASCADE, or of rows pooled for a peer. -/
structure Fwd where
  /-- features -/
  feats : List Feat := []
  /-- unique rows in the order of R84 -/
  rows : List RowVal := []
  /-- partials that arrived -/
  terms : List LeafTerm := []
  /-- its identifiers were read and its fetches issued -/
  intake : Bool := false
  /-- it has waited for lehr space (R224) -/
  lehrWait : Bool := false
  /-- its rows may be read (R18) -/
  reading : Bool := false
  /-- bags pooled and normalised so far (R103) -/
  vecs : List BagVec := []
  /-- dense vectors by sample, codes of OUT_FMT (R235) -/
  dense : List (List Nat) := []
  /-- samples of a CASCADE with INTERACT 1 not yet in a block (R237) -/
  todo : List Nat := []
  /-- z by sample (R236) -/
  z : List (Nat × List Word) := []
  /-- frames -/
  frames : List TFrame := []
  /-- END left the engine (R105) -/
  endSent : Bool := false
  /-- INVALID and MISSING identifiers -/
  invalid : Nat := 0
  /-- bags marked RECOMPUTE -/
  recomputed : Nat := 0
  deriving DecidableEq, Repr

/-! ### Backward records (08_backward_update.md) -/

/-- Records of one bag, or of one sample of a CASCADE (R101, R240). -/
structure BagRec where
  /-- marked RECOMPUTE (R225) -/
  recompute : Bool := false
  /-- mean and rstd by feature -/
  stats : List (Word × Word) := []
  /-- argmax by feature -/
  argmax : List (List (Option Nat)) := []
  /-- y by feature -/
  y : List (List Word) := []
  /-- g by feature once the interaction backward wrote it -/
  g : List (Option (List Word)) := []
  /-- dense vector, codes of OUT_FMT -/
  dense : List Nat := []
  /-- z -/
  z : List Word := []
  deriving DecidableEq, Repr

/-- A tile of a record in a spill region: its number in the region and its check word (R224). -/
structure Spilled where
  /-- feature, 63 for interaction records -/
  feature : Nat
  /-- logical slice whose record it holds -/
  slice : Nat
  /-- tile number in the region -/
  tile : Nat
  /-- check word -/
  crc : Nat
  deriving DecidableEq, Repr

/-- Backward records of one forward command. -/
structure LehrRec where
  /-- admission number of the forward command -/
  cmd : Nat
  /-- context -/
  ctx : Nat
  /-- TAG -/
  tag : Nat
  /-- STEP -/
  step : Nat
  /-- TOWER_SLOT -/
  slot : Nat
  /-- packet words 8 to 15 of the forward command -/
  params : List Word
  /-- it is a CASCADE -/
  cascade : Bool
  /-- the forward command completed with ST_OK -/
  complete : Bool := false
  /-- features -/
  feats : List Feat
  /-- records by bag or sample -/
  bags : List BagRec
  /-- interaction records are held (R244) -/
  inter : Bool := false
  /-- lehr bytes held: feature, 63 for interaction records, 64 + f for the g records of feature f; logical slice; bytes -/
  held : List (Nat × Nat × Nat) := []
  /-- tiles held in the spill region -/
  spill : List Spilled := []
  /-- tables on which its step has committed while it ran: their features are released when it completes (R227) -/
  stale : List Nat := []
  deriving DecidableEq, Repr

/-- Who wrote a gradient slot. -/
inductive SlotOwner
  /-- a SCATTER_GRAD of this chip -/
  | chip (cmd : Nat)
  /-- a push: chip, context, generation [11:0], REQ_ID -/
  | peer (chip ctx gen req : Nat)
  deriving DecidableEq, Repr

/-- A gradient slot (R207). -/
structure Slot where
  /-- table -/
  table : Nat
  /-- row -/
  row : Nat
  /-- step -/
  step : Nat
  /-- writer -/
  owner : SlotOwner
  /-- provisional -/
  prov : Bool
  /-- slot format: 0 FP32, 1 BF16, 2 FP16, 3 E4M3, 4 E5M2 -/
  fmt : Nat
  /-- E of a scaled format -/
  exp : Int
  /-- feature and use it belongs to, for a local slot -/
  use : Nat
  /-- element codes; empty until written -/
  codes : List Nat
  deriving DecidableEq, Repr

/-- Frames still to discard after a SCATTER_GRAD ended (R202). -/
structure Drain where
  /-- SLOT -/
  slot : Nat
  /-- TAG -/
  tag : Nat
  /-- FEATURE of the frames -/
  feature : Nat
  /-- admission number of the forward command -/
  fwd : Nat
  /-- INDEX values still to come -/
  left : List Nat
  deriving DecidableEq, Repr

/-- Pushes of a SCATTER_GRAD to one home chip (R209). -/
structure Push where
  /-- home chip -/
  chip : Nat
  /-- rim port used -/
  port : Nat
  /-- REQ_ID -/
  req : Nat
  /-- DATA messages not acknowledged, by SEQ -/
  waiting : List Nat
  /-- COMMIT sent -/
  committed : Bool
  /-- COMMIT acknowledged with OK -/
  acked : Bool
  deriving DecidableEq, Repr

/-- Work of a SCATTER_GRAD. -/
structure Scatter where
  /-- forward command, once found -/
  fwd : Option Nat := none
  /-- its TOWER_SLOT -/
  slot : Nat := 0
  /-- its bags or samples -/
  bags : Nat := 0
  /-- FEATURE -/
  feature : Nat
  /-- E in force at admission (R201) -/
  e : Int
  /-- checks done, space reserved -/
  started : Bool := false
  /-- frames taken: INDEX, EXP byte, payload -/
  taken : List (Nat × Byte × List Byte) := []
  /-- step-maximum contribution (R219) -/
  amax : Word := 0#32
  /-- non-finite elements -/
  nonfinite : Nat := 0
  /-- bags pooled again -/
  repooled : Nat := 0
  /-- every local slot is written -/
  written : Bool := false
  /-- pushes -/
  pushes : List Push := []
  /-- it takes inbound frames (R202, R247) -/
  frames : Bool := false
  /-- rows gathered again (R205, R226) -/
  again : Fwd := {}
  deriving DecidableEq, Repr

/-- A row of a MERGE_APPLY once it is merged: row, its elements of A before the step, and G (R213, R222). -/
structure MRow where
  /-- row -/
  row : Nat
  /-- elements of A before the step -/
  a : List Word
  /-- G -/
  g : List Word
  deriving DecidableEq, Repr

/-- A row that was fetched for a command and waits to be used by it: its bytes, or none where its tiles failed (R55). -/
structure Got where
  /-- row -/
  row : Nat
  /-- stored row -/
  bytes : Option (List Byte)
  deriving DecidableEq, Repr

/-- Work of a MERGE_APPLY. -/
structure Merge where
  /-- table -/
  table : Nat
  /-- its merge has begun (R212) -/
  begun : Bool := false
  /-- every row holds its new content in a PENDING copy -/
  merged : Bool := false
  /-- new stored rows that found no way: row and bytes (R214) -/
  spare : List (Nat × List Byte) := []
  /-- rows updated, in merge order -/
  rows : List MRow := []
  /-- rows that failed R217 -/
  corrupt : List Nat := []
  /-- dB of this chip, RANK × ROW_LEN FP32 words; none when no row has slots -/
  db : Option (List Word) := none
  deriving DecidableEq, Repr

/-! ### Slice SRAM (05_basin_row_cache.md) -/

/-- A cached row with its version range (R114). -/
structure Copy where
  /-- TABLE -/
  table : Nat := 0
  /-- ROW -/
  row : Nat := 0
  /-- LO -/
  lo : Nat := 0
  /-- HI; none is open -/
  hi : Option Nat := none
  /-- stored row -/
  bytes : List Byte := []
  deriving DecidableEq, Repr

/-- Way states (R119). -/
inductive WState
  /-- no row -/
  | invalid
  /-- being filled -/
  | filling
  /-- as the tier -/
  | clean
  /-- newer than the tier -/
  | dirty
  /-- not committed -/
  | pending
  /-- failed -/
  | disabled
  deriving DecidableEq, Repr

/-- A basin way. -/
structure Way where
  /-- state -/
  st : WState := .invalid
  /-- row -/
  copy : Copy := {}
  /-- FREQ (R120) -/
  freq : Nat := 0
  /-- fetch that fills it, or command whose content is PENDING -/
  owner : Nat := 0
  deriving DecidableEq, Repr

/-- A basin set. An empty list of ways stands for a set of INVALID ways. -/
structure BSet where
  /-- ways in order -/
  ways : List Way := []
  /-- tree bits; bit n is node n (R121) -/
  plru : Nat := 0
  deriving DecidableEq, Repr

/-- A punty entry group: one pinned row (R135). -/
structure Punty where
  /-- row -/
  copy : Copy
  /-- TRAIN pin; otherwise SERVE -/
  train : Bool
  /-- newer than the tier -/
  dirty : Bool
  /-- contexts that pinned it -/
  owners : List Nat
  /-- contents not yet committed: command and bytes (R132) -/
  pend : List (Nat × List Byte) := []
  deriving DecidableEq, Repr

/-- Place of a stored row: tier, target of tiers 3 and 4, tier address. -/
structure Place where
  /-- 1 cistern, 2 HBM4, 3 host-attached, 4 flash -/
  tier : Nat
  /-- CXL region or NVMe-oF target -/
  target : Nat
  /-- address -/
  addr : Nat
  deriving DecidableEq, Repr

/-- An entry of the cullet buffer or of the hold area: a row on its way to its tier (R128, R129, R177, R179). -/
structure Cull where
  /-- row -/
  copy : Copy
  /-- it goes to the row's home, whatever its range: a fold or a TABLE_LOAD (R66, R68) -/
  home : Bool := false
  /-- later reads are served from it -/
  snooped : Bool := true
  /-- its write was issued -/
  issued : Bool := false
  /-- where it is written, from its issue on (R169) -/
  place : Place := ⟨0, 0, 0⟩
  /-- its NVMe write ended with an error: it waits for reconnection (R191) -/
  failed : Bool := false
  /-- its content goes nowhere: a discarded delta slot (R117) -/
  dropped : Bool := false
  deriving DecidableEq, Repr

/-- A failing way in the tracking table (R142). -/
structure Track where
  /-- class -/
  cls : Nat
  /-- set -/
  set : Nat
  /-- way -/
  way : Nat
  /-- times of its failures, newest first -/
  times : List Nat
  deriving DecidableEq, Repr

/-- An entry of the side memory of the row engine: the statistics of a vector until its lehr write is done (R100). -/
structure Side where
  /-- command -/
  cmd : Nat
  /-- feature -/
  feature : Nat
  /-- bag or sample -/
  bag : Nat
  /-- mean -/
  mean : Word
  /-- rstd -/
  rstd : Word
  deriving DecidableEq, Repr

/-- SRAM and lanes of a physical slice. -/
structure Slice where
  /-- basin sets, by class × 2^24 + set -/
  sets : Sparse BSet := []
  /-- punty entries -/
  punty : List Punty := []
  /-- gob entries, oldest first -/
  gob : List Copy := []
  /-- cullet entries, oldest first -/
  cullet : List Cull := []
  /-- hold area (R177) -/
  hold : List Cull := []
  /-- rows of commits that found no way, in their freed slot tiles until their writes enter the cullet buffer (R123, R214) -/
  kept : List Copy := []
  /-- side memory of the row engine, 32,768 entries (R100) -/
  side : List Side := []
  /-- tracking table -/
  track : List Track := []
  /-- confluence slots -/
  slots : List Slot := []
  /-- TXB_FAIL (R233) -/
  txbFail : Bool := false
  deriving DecidableEq, Repr

/-- What a row fetch is for. -/
inductive FillTo
  /-- a basin way: class, set, way -/
  | way (cls set way : Nat)
  /-- the gob buffer -/
  | gob
  /-- nowhere: served without caching -/
  | none
  deriving DecidableEq, Repr

/-- A row fetch in flight (R124), or a pool request to a weir (R151). -/
structure Fetch where
  /-- number -/
  id : Nat
  /-- table -/
  table : Nat
  /-- row -/
  row : Nat
  /-- version read -/
  version : Nat
  /-- LO of the range (R115) -/
  lo : Nat
  /-- HI of the range -/
  hi : Option Nat
  /-- physical home slice -/
  slice : Nat
  /-- where the row lies -/
  place : Place
  /-- where it goes -/
  dest : FillTo
  /-- pool request -/
  weir : Bool
  /-- commands that wait for it -/
  waiters : List Nat
  /-- generation of the first waiter's context -/
  gen : Nat
  /-- context of the first waiter -/
  ctx : Nat
  /-- reads of it that have failed (R55) -/
  fails : Nat := 0
  /-- its tiles in the order in which they are requested (R124) -/
  order : List Nat := []
  /-- a command took the tiles it uses before the rest of the row passed (R125) -/
  served : Bool := false
  /-- what it reads in a vault that has left service since it was issued: the vault, the stored row and its failing tiles (R324) -/
  kept : Option (Nat × List Byte × List Nat) := none
  deriving DecidableEq, Repr

/-! ### The DRAM tiers and the outer tiers (06_cistern_and_hbm.md, 07_placement_remote_shards.md) -/

/-- Storage of tiers 1 to 4. A byte nothing has written reads 0. -/
structure Tiers where
  /-- cistern, by physical vault × 2^28 + vault address, and HBM4, by 2^60 + channel × 2^31 + channel address -/
  dram : Sparse Byte := []
  /-- host-attached memory, by host physical address -/
  host : Sparse Byte := []
  /-- flash, by target × 2^80 + byte address -/
  flash : Sparse Byte := []
  /-- poisoned DRAM keys, as ranges [lo, hi) -/
  poison : List (Nat × Nat) := []
  deriving DecidableEq, Repr

/-! ### Placement and the skimmer (07_placement_remote_shards.md) -/

/-- An entry of the row-placement table (R171). The bytes of the placement region show it (log entry 14). -/
structure PEntry where
  /-- TABLE -/
  table : Nat
  /-- ROW -/
  row : Nat
  /-- MOVING; otherwise PLACED, or HOME while it waits for its first move -/
  moving : Bool
  /-- SRC: placed by the skimmer -/
  src : Bool
  /-- CUR_TIER; 0 is the shard-map home -/
  curTier : Nat
  /-- CUR_TARGET and CUR_ADDR -/
  cur : Place
  /-- NEW_TIER -/
  newTier : Nat
  /-- NEW_TARGET and NEW_ADDR -/
  new : Place
  /-- EPOCH of the last swap -/
  epoch : Nat
  /-- its move waits to start (R175) -/
  waiting : Bool := false
  /-- the copy is complete (R176) -/
  copied : Bool := false
  /-- a tile failed the first read of its move (R176) -/
  retried : Bool := false
  /-- which of the eight entries of its set it is (R171) -/
  way : Nat := 0
  /-- the row as it was read for its move, until it is written (R176) -/
  read : Option (List Byte) := none
  /-- moves that follow the present one, in order (R174): command and place; tier 0 is the shard-map home -/
  next : List (Nat × Place) := []
  /-- commands whose reply waits for the swap of the present move (R181) -/
  cmds : List Nat := []
  deriving DecidableEq, Repr

/-- A pool slot that a swap left, freed when the fetches issued to it have returned (R180). -/
structure OldSlot where
  /-- place -/
  place : Place
  /-- bytes -/
  stride : Nat
  /-- fetches still out -/
  fetches : List Nat
  deriving DecidableEq, Repr

/-- Placement state beside the registers. -/
structure Placement where
  /-- entries -/
  entries : List PEntry := []
  /-- pool slots left by swaps -/
  old : List OldSlot := []
  /-- bits of the placement filter set (R172) -/
  filter : List Nat := []
  /-- sketch counters, by row × 2^20 + index (R184) -/
  sketch : Sparse Nat := []
  /-- shard load counts of the running window, by record × 4 + field: uses, fetches, bytes, rows for peers (R183) -/
  load : Sparse Nat := []
  /-- shard load counts of the last complete window -/
  lastLoad : Sparse Nat := []
  /-- candidates of the window (R186) -/
  candidates : Nat := 0
  /-- moves started in the window (R185) -/
  started : Nat := 0
  /-- PHASE of the advice ring -/
  phase : Bool := true
  /-- basin granules of each slice that the placement cache took at the last APPLY (R172) -/
  granules : Nat := 0
  deriving DecidableEq, Repr

/-! ### Remote service -/

/-- A LOOKUP_REQ sent (R194). -/
structure Lookup where
  /-- REQ_ID -/
  req : Nat
  /-- command -/
  cmd : Nat
  /-- table -/
  table : Nat
  /-- feature pooling mode -/
  pool : Nat
  /-- home chip -/
  chip : Nat
  /-- rim port -/
  port : Nat
  /-- handling slice -/
  slice : Nat
  /-- rows asked for -/
  rows : List Nat
  deriving DecidableEq, Repr

/-- A use of a LOOKUP_REQ served (R195). -/
structure ReqUse where
  /-- row -/
  row : Nat
  /-- feature -/
  feature : Nat
  /-- pooling mode -/
  pool : Nat
  /-- bag position -/
  pos : Nat
  /-- bag -/
  bag : Nat
  /-- weight -/
  weight : Word
  deriving DecidableEq, Repr

/-- A lookup request in the serve queue, or being served (R195). -/
structure Served where
  /-- number by which fetches name it -/
  id : Nat
  /-- the message -/
  msg : List Byte
  /-- requester -/
  chip : Nat
  /-- table -/
  table : Nat
  /-- version -/
  version : Nat
  /-- it counts in flight on the version (R73) -/
  held : Bool
  /-- STEP of a training gather -/
  step : Option Nat
  /-- it was granted: its checks have passed and its rows are being read -/
  begun : Bool := false
  /-- rows read so far -/
  got : List (Nat × List Byte) := []
  deriving DecidableEq, Repr

/-- A MIGRATE_REQ sent (R174). -/
structure MigReq where
  /-- REQ_ID -/
  req : Nat
  /-- command -/
  cmd : Nat
  /-- home chip -/
  chip : Nat
  /-- rim port -/
  port : Nat
  deriving DecidableEq, Repr

/-- A MIGRATE_REQ served: its reply waits for swaps. -/
structure MigServed where
  /-- number by which entries name it -/
  id : Nat
  /-- requester -/
  chip : Nat
  /-- REQ_ID -/
  req : Nat
  deriving DecidableEq, Repr

/-- A GRAD_PUSH DATA whose acknowledgement is withheld (R210). -/
structure HeldPush where
  /-- the message -/
  msg : List Byte
  deriving DecidableEq, Repr

/-- State of a queue pair (R380). -/
inductive QpState
  /-- 0 -/
  | down
  /-- 1 -/
  | connecting
  /-- 2 -/
  | connected
  /-- 3 -/
  | error
  deriving DecidableEq, Repr

/-- A queue pair of a peer: state and send rate (R379). -/
structure Qp where
  /-- state -/
  st : QpState := .down
  /-- its rate is `num` ÷ (20 × 2^`halvings`) of line rate -/
  num : Nat := 20
  /-- halvings since it last ran at line rate -/
  halvings : Nat := 0
  deriving DecidableEq, Repr

/-- Queue pairs of one peer on one port. -/
structure PeerQps where
  /-- data queue pair -/
  data : Qp := {}
  /-- abort queue pair -/
  abort : Qp := {}
  deriving DecidableEq, Repr

/-- An NVMe command outstanding (R190, R191). -/
structure NvmeIo where
  /-- number -/
  id : Nat
  /-- target -/
  target : Nat
  /-- first logical block and block count -/
  lba : Nat
  /-- blocks -/
  blocks : Nat
  /-- write -/
  write : Bool
  /-- fetch served by a read, or none -/
  fetch : Option Nat
  /-- row whose write-back it carries: physical slice, table, row, LO -/
  back : Option (Nat × Nat × Nat × Nat)
  /-- row whose move it reads or writes: table and row (R176) -/
  move : Option (Nat × Nat) := none
  /-- data of a write -/
  data : List Byte := []
  /-- it was sent; otherwise the target's queues are full (R190) -/
  sent : Bool := true
  /-- failed tries -/
  tries : Nat
  deriving DecidableEq, Repr

/-- Remote and rim state. -/
structure Remote where
  /-- LOOKUP_REQs outstanding -/
  lookups : List Lookup := []
  /-- the serve queue: lookups of peers not answered yet, oldest first -/
  served : List Served := []
  /-- number of the next lookup served -/
  nextServed : Nat := 0
  /-- MIGRATE_REQs outstanding -/
  migs : List MigReq := []
  /-- MIGRATE_REQs served -/
  migServed : List MigServed := []
  /-- pushes whose acknowledgement is withheld -/
  heldPushes : List HeldPush := []
  /-- messages of dB partials that arrived: table, step, chip, SEQ, elements -/
  partsB : List (Nat × Nat × Nat × Nat × List Word) := []
  /-- queue pairs, by peer × 4 + port -/
  qps : Sparse PeerQps := []
  /-- NVMe commands outstanding -/
  ios : List NvmeIo := []
  /-- next NVMe command number -/
  nextIo : Nat := 0
  deriving DecidableEq, Repr

/-! ### Streams and the host path (10_rill_streams_host_path.md) -/

/-- A checked rill program (R254). -/
structure Program where
  /-- its 64 words -/
  words : List Word
  deriving DecidableEq, Repr

/-- Descriptor states (10 Table 3). -/
inductive DState
  /-- 0 -/
  | idle
  /-- 1 -/
  | loading
  /-- 2 -/
  | active
  /-- 3 -/
  | faulted
  deriving DecidableEq, Repr

/-- A stream descriptor. -/
structure SDesc where
  /-- STATE -/
  st : DState := .idle
  /-- GEN -/
  gen : Nat := 0
  /-- program of the current generation -/
  prog : List Word := []
  /-- its STREAM_ARM -/
  cmd : Option Nat := none
  /-- pending arm: command and program -/
  pend : Option (Nat × List Word) := none
  /-- a pending arm becomes the generation in the next cycle (R260) -/
  promote : Bool := false
  /-- pc -/
  pc : Nat := 0
  /-- idx -/
  idx : List Nat := [0, 0, 0, 0, 0, 0]
  /-- BYTE_OFF -/
  byteOff : Nat := 0
  /-- DELIVERED -/
  delivered : Nat := 0
  /-- order in which it became ACTIVE -/
  order : Nat := 0
  /-- the STREAM_CANCELs that have stopped it -/
  cancel : List Nat := []
  /-- the program has ended or was stopped; its completion steps remain -/
  ended : Bool := false
  /-- source bytes read in the generation: start and length -/
  srcs : List (Nat × Nat) := []
  /-- destination bytes written in the generation -/
  dsts : List (Nat × Nat) := []
  /-- the WAIT at pc has been satisfied (R286) -/
  waitOk : Bool := false
  /-- pc and idx of each element delivered, newest first (R269) -/
  marks : List (Nat × List Nat) := []
  deriving DecidableEq, Repr

/-- A reply held for the host path (R271). -/
structure HeldReply where
  /-- queue -/
  queue : Nat
  /-- context of the record -/
  ctx : Nat
  /-- slots of its packet -/
  slots : Nat
  /-- it keeps a credit -/
  credit : Bool
  /-- TAG -/
  tag : Nat
  /-- STATUS -/
  status : Nat
  /-- OPCODE -/
  opcode : Nat
  /-- DETAIL0 -/
  d0 : Nat
  /-- DETAIL1 -/
  d1 : Nat
  /-- DIGEST -/
  digest : Nat
  /-- admission number of its command; none for a packet that was not admitted -/
  cmd : Option Nat := none
  /-- snapshots of its command, in flight until the reply is posted (R70) -/
  snaps : List Snap := []
  deriving DecidableEq, Repr

/-- Sluice states (10 Table 4). -/
inductive SState
  /-- 0 -/
  | opened
  /-- 1 -/
  | closing
  /-- 2 -/
  | closed
  deriving DecidableEq, Repr

/-- An ATS invalidation that waits for reads issued with the entries it took (R265). -/
structure Inval where
  /-- address space -/
  space : Nat
  /-- page -/
  page : Nat
  /-- bytes -/
  size : Nat
  /-- commands with the reads of each still to complete -/
  waits : List (Nat × Nat)
  deriving DecidableEq, Repr

/-- The host path. -/
structure HostPath where
  /-- STATE -/
  st : SState := .closed
  /-- CAUSE -/
  cause : Nat := 1
  /-- EPOCH -/
  epoch : Nat := 0
  /-- the link is up (HC_LINK_UP) -/
  linkUp : Bool := false
  /-- it has not opened since power good or a chip reset (R358) -/
  fresh : Bool := true
  /-- a chip reset came before: the opening raises EPOCH (R358) -/
  afterReset : Bool := false
  /-- the link trained in CXL mode (R374) -/
  cxl : Bool := false
  /-- MSI-X is enabled by the host (R375) -/
  msix : Bool := true
  /-- an MSI-X message waits for the re-attach -/
  msixPending : Bool := false
  /-- held replies, in completion order -/
  held : List HeldReply := []
  /-- translation cache -/
  atc : List AtcEntry := []
  /-- the host has enabled ATS and PRI for the engine's function (R262, R263, R272) -/
  ats : Bool := false
  /-- the host's outstanding page request allocation (R263) -/
  alloc : Nat := 0
  /-- pages whose translation request is outstanding: address space and page -/
  asked : List (Nat × Nat) := []
  /-- invalidations not yet answered -/
  invals : List Inval := []
  /-- next order number of an ACTIVE generation -/
  order : Nat := 0
  deriving DecidableEq, Repr

/-! ### What a command keeps while it runs -/

/-- A batch of rows named by identifiers. -/
structure RowsWork where
  /-- rows still to do -/
  rows : List Nat := []
  /-- dropped identifiers, INVALID and MISSING -/
  dropped : Nat := 0
  /-- the identifiers were read -/
  intake : Bool := false
  /-- slots reserved at admission (R134) -/
  count : Nat := 0
  /-- the reservation of a ROW_MIGRATE was made, or refused (R175) -/
  reserved : Bool := false
  /-- rows of a ZERO_ROWS that found no way: row and new content (R132) -/
  spare : List (Nat × List Byte) := []
  deriving DecidableEq, Repr

/-- Work by opcode. -/
inductive Work
  /-- nothing kept -/
  | none
  /-- a forward command -/
  | fwd (f : Fwd)
  /-- SCATTER_GRAD -/
  | scatter (g : Scatter)
  /-- MERGE_APPLY -/
  | merge (m : Merge)
  /-- ZERO_ROWS, PREFETCH, ROW_MIGRATE -/
  | rows (r : RowsWork)
  /-- COPY: bytes delivered, and its place among the generations in the order in which they became ACTIVE (R257) -/
  | copy (done : Nat) (order : Option Nat)
  deriving DecidableEq, Repr

/-- A command admitted and without a reply, a node of the hang detector (R307). -/
structure Cmd where
  /-- admission number -/
  id : Nat := 0
  /-- queue -/
  queue : Nat := 0
  /-- context -/
  ctx : Nat := 0
  /-- generation of the context at admission (R290) -/
  gen : Nat := 0
  /-- words of the packet, 16 or 32 -/
  words : List Word := []
  /-- admitted in a training context -/
  training : Bool := false
  /-- progress -/
  phase : Phase := .admitted
  /-- sequencer core that holds it (R306) -/
  core : Option Nat := none
  /-- WAIT_EN condition found true (R286) -/
  waitOk : Bool := false
  /-- STATUS once done -/
  status : St := .ok
  /-- DETAIL0 once done -/
  d0 : Nat := 0
  /-- DETAIL1 once done -/
  d1 : Nat := 0
  /-- feature records of a CASCADE (R35) -/
  feats : List (List Word) := []
  /-- versions snapshot at admission, by feature -/
  snaps : List Snap := []
  /-- digest stream of its inputs (R299 part 3) -/
  inputs : List Byte := []
  /-- progress counter (R307) -/
  progress : Nat := 0
  /-- host-path and chip-path traffic -/
  use : HostUse := {}
  /-- its completion flag is not written (R278) -/
  noFlag : Bool := false
  /-- it was ended from outside its own row: only its flushes, its flag, its valve and its reply remain (R39) -/
  ended : Bool := false
  /-- rows whose fetches it waits for or has taken: MERGE_APPLY, ZERO_ROWS, PIN_ROWS, TABLE_SAVE -/
  asked : List Nat := []
  /-- rows fetched for it and not yet used -/
  got : List Got := []
  /-- what its opcode keeps while it runs -/
  work : Work := .none
  deriving DecidableEq, Repr

/-! ### Contexts and valves (11_contexts_valves_determinism.md) -/

/-- Context states (11 Table 2). -/
inductive CState
  /-- 0 -/
  | free
  /-- 1 -/
  | opened
  /-- 2 -/
  | closing
  /-- 3 -/
  | quarantined
  /-- 4 -/
  | resetting
  deriving DecidableEq, Repr

/-- A chip-address window of a context record (R276). -/
structure Win where
  /-- WIN_BASE -/
  base : Nat := 0
  /-- WIN_PAGES -/
  pages : Nat := 0
  /-- WIN_R -/
  r : Bool := false
  /-- WIN_W -/
  w : Bool := false
  deriving DecidableEq, Repr

/-- A modification of a valve in the running cycle (R286). -/
structure ValveMod where
  /-- valve -/
  valve : Nat
  /-- source: a queue, or 1024 and a rill engine -/
  source : Nat
  /-- it sets the count; otherwise it adds to it -/
  set : Bool
  /-- operand -/
  amount : Nat
  /-- count before the first modification of the valve in the cycle -/
  before : Nat
  deriving DecidableEq, Repr

/-- A tag of a request outstanding (R290, R292). Fetches and NVMe commands are their own tags. -/
inductive Tag
  /-- a REQ_ID of a LOOKUP_REQ, MIGRATE_REQ or GRAD_PUSH -/
  | req (id : Nat)
  /-- a memory read or page request of a command, by its admission number -/
  | cmd (id : Nat)
  deriving DecidableEq, Repr

/-- What a context reset does once its commands have posted their replies (R294): REASON and job of its abort frames, ERR_SEQ,
and the requester that RESET_DONE names. -/
structure Halt where
  /-- REASON -/
  reason : Nat
  /-- JOB_ID -/
  job : Nat
  /-- ERR_SEQ -/
  err : Nat
  /-- 0 software, 1 escalation, 2 tray controller -/
  requester : Nat
  deriving DecidableEq, Repr

/-- A context. -/
structure Ctx where
  /-- STATE -/
  st : CState := .free
  /-- KIND: 1 training, 2 serving -/
  kind : Nat := 0
  /-- PARTITION -/
  part : Nat := 0
  /-- PASID, when PASID_EN is 1 -/
  pasid : Option Nat := none
  /-- VALVE_BASE -/
  valveBase : Nat := 0
  /-- VALVE_COUNT -/
  valveCount : Nat := 0
  /-- the six windows -/
  wins : List Win := []
  /-- GEN -/
  gen : Nat := 0
  /-- sequence of the next REQ_ID (R290) -/
  seq : Nat := 0
  /-- tags not retired, with their generation (R290, R292) -/
  tags : List (Nat × Tag) := []
  /-- peer chips contacted in the generation (R289) -/
  peers : List Nat := []
  /-- the CONTEXT_CLOSE that closes it -/
  closer : Option Nat := none
  /-- commands ended at the drain deadline (R289) -/
  late : Nat := 0
  /-- a context reset that waits for the replies of its commands -/
  halt : Option Halt := none
  /-- UM_CYCLE_COUNT of the last reset by an abort frame (R317) -/
  abortAt : Option Nat := none
  deriving DecidableEq, Repr

/-! ### Error log (12_faults_recovery.md) -/

/-- An error record (R302). -/
structure ErrRec where
  /-- CODE -/
  code : Nat := 0
  /-- ACTION -/
  action : Nat := 0
  /-- CTX_KIND -/
  noCmd : Bool := false
  /-- CTX -/
  ctx : Nat := 0
  /-- UNIT -/
  unit : Nat := 0
  /-- GEN -/
  gen : Nat := 0
  /-- SEQ -/
  seq : Nat := 0
  /-- TIME -/
  time : Nat := 0
  /-- INFO -/
  info : Nat := 0
  deriving DecidableEq, Repr

/-- The error log (R303). -/
structure ErrLog where
  /-- records by slot -/
  slots : Sparse ErrRec := []
  /-- next SEQ -/
  head : Nat := 0
  deriving DecidableEq, Repr

/-! ### The table store -/

/-- A table entry. With no version other than FREE the table is undefined (R65). -/
structure Table where
  /-- descriptor -/
  desc : Desc := {}
  /-- shard map -/
  shards : List Shard := []
  /-- versions other than FREE, in ascending number -/
  vers : List Version := []
  /-- numbers created since TABLE_DEFINE: lower numbers not in `vers` are FREE (R61) -/
  created : Nat := 0
  /-- committed-step counter (R16) -/
  step : Nat := 0
  /-- shared gradient exponent (R201, R219) -/
  gradExp : Int := 0
  /-- max-abs history, newest first (R219) -/
  hist : List Word := []
  /-- maximum of the running step (R219) -/
  amax : Word := 0#32
  /-- a SCATTER_GRAD of the running step completed with ST_OK (R220) -/
  amaxAny : Bool := false
  /-- overlay index -/
  delta : List Delta := []
  /-- reserved delta slots -/
  resv : List Resv := []
  /-- ZERO_ROWS waiting for the commit -/
  zero : List ZeroJob := []
  /-- the MERGE_APPLY whose merge has begun (R212) -/
  merging : Option Nat := none
  /-- the first use after rung 4 or U3 refills B (R362) -/
  refill : Bool := false
  deriving DecidableEq, Repr

/-! ### Units and maps (12_faults_recovery.md) -/

/-- Unit states (12 Table 15). -/
inductive UState
  /-- 0 -/
  | active
  /-- 1 -/
  | offline
  /-- 2 -/
  | scrub
  /-- 3 -/
  | selftest
  /-- 4 -/
  | standby
  /-- 5 -/
  | failed
  deriving DecidableEq, Repr

/-- A unit of 12 Table 2: code and FAILS. -/
structure UnitRec where
  /-- state -/
  st : UState := .active
  /-- FAILS -/
  fails : Nat := 0
  /-- an accepted OFFLINE of a slice waits for the partition reset (R323) -/
  leaving : Bool := false
  /-- PREFER was written (R325) -/
  prefer : Bool := false
  /-- a slice that no longer answers; a reset takes it OFFLINE (R307, R311) -/
  dead : Bool := false
  deriving DecidableEq, Repr

/-- What serves a logical position. -/
inductive Pos
  /-- the unit of the same number -/
  | own
  /-- another unit -/
  | phys (index : Nat)
  /-- no unit -/
  | vacant
  deriving DecidableEq, Repr

/-- Units and maps. -/
structure Units where
  /-- units, by UNIT -/
  st : Sparse UnitRec := []
  /-- positions, by kind × 2^12 + logical position; the positions of a lane group are 17 × slice + group, of a rim pair
  9 × port + pair -/
  pos : Sparse Pos := []
  deriving DecidableEq, Repr

/-! ### Memory units (06_cistern_and_hbm.md) -/

/-- A vault controller or HBM4 channel. -/
structure MemUnit where
  /-- corrected errors in the running scrub period by bank × 2^15 + DRAM row (R161) -/
  found : Sparse Nat := []
  /-- uncorrected errors in the running period (R165) -/
  ues : Nat := 0
  /-- refresh band of a vault (R159) -/
  band : Nat := 0
  /-- refresh-rate code of a channel (R160) -/
  rate : Nat := 0
  /-- an exerciser run: its range (R166) -/
  exer : Option (Nat × Nat) := none
  deriving DecidableEq, Repr

/-- The repair maps (R360). -/
structure Repair where
  /-- vault map: logical and physical vault, where they differ (R145, R165) -/
  vaults : List (Nat × Nat) := []
  /-- DRAM rows remapped: vault, bank, row (R162) -/
  remaps : List (Nat × Nat × Nat) := []
  /-- remaps queued for the next start (R163) -/
  queued : List (Nat × Nat × Nat) := []
  /-- soft repairs: channel, bank, row (R164) -/
  soft : List (Nat × Nat × Nat) := []
  /-- disabled basin ways: slice, class, set, way (R142) -/
  ways : List (Nat × Nat × Nat × Nat) := []
  /-- units with failed self-tests: UNIT and FAILS (R323, R402) -/
  failed : List (Nat × Nat) := []
  deriving DecidableEq, Repr

/-! ### Hang detector (R307 to R309) -/

/-- A node as the detector last saw it. -/
structure HangNode where
  /-- command -/
  cmd : Nat
  /-- its progress counter at the last sample -/
  last : Nat
  /-- consecutive samples without progress -/
  periods : Nat
  /-- class given: 0 DEADLOCK, 1 SATURATED, 2 SOFTWARE, 3 EXTERNAL, 4 FROZEN -/
  cls : Option Nat
  deriving DecidableEq, Repr

/-- The hang detector. -/
structure Hang where
  /-- nodes -/
  nodes : List HangNode := []
  /-- replies posted engine-wide -/
  replies : Nat := 0
  /-- that count at the last sample -/
  lastReplies : Nat := 0
  /-- samples in which no reply was posted -/
  quiet : Nat := 0
  /-- cycles recorded: their commands with their progress counters -/
  cycles : List (List (Nat × Nat)) := []
  deriving DecidableEq, Repr

/-! ### Reset controller and crash dump (R310 to R321) -/

/-- A running or held rung. -/
structure Rung where
  /-- 2 to 5 -/
  rung : Nat
  /-- partitions of the domain; all for rungs 2 and 4 -/
  parts : List Nat
  /-- PART -/
  part : Nat
  /-- step reached -/
  step : Nat
  /-- held under the cap (R312) -/
  held : Bool
  /-- 0 software, 1 escalation, 2 tray controller -/
  requester : Nat
  /-- FW_RELOAD -/
  reload : Bool
  /-- SEQ of the record behind it -/
  errSeq : Nat
  deriving DecidableEq, Repr

/-- A dump being collected: what its header and its error log keep from the start (R319, R327). -/
structure Collect where
  /-- TIME -/
  time : Nat
  /-- LOG_HEAD -/
  head : Nat
  /-- the error log's slots -/
  log : Sparse ErrRec
  /-- RUNG; 0 for TRIGGER -/
  rung : Nat
  /-- PART -/
  part : Nat
  /-- ERR_SEQ -/
  errSeq : Nat
  deriving DecidableEq, Repr

/-- The dump store. -/
structure Dump where
  /-- bytes of the dump store -/
  bytes : List Byte := []
  /-- LEN of the stored dump -/
  len : Nat := 0
  /-- VALID -/
  valid : Bool := false
  /-- UNREAD -/
  unread : Bool := false
  /-- DUMP_SEQ of the stored dump -/
  seq : Nat := 0
  /-- SEAL of the stored dump -/
  sealing : Nat := 0
  /-- dumps taken since power-on -/
  taken : Nat := 0
  /-- units that did not answer a read of the dump being collected (R320) -/
  silent : List UnitId := []
  /-- the dump being collected -/
  collect : Option Collect := none
  deriving DecidableEq, Repr

/-! ### Supervisor (13_supervisor_power_ageing.md) -/

/-- A monitor. -/
structure Mon where
  /-- valid samples, newest first -/
  samples : List Int := []
  /-- consecutive periods without a valid sample -/
  bad : Nat := 0
  /-- consecutive valid samples of a failed monitor -/
  good : Nat := 0
  /-- failed (R330) -/
  failed : Bool := false
  /-- throttled by it (R336) -/
  throttled : Bool := false
  /-- sample periods since a droop detector last added a step, 50 at most (R338) -/
  since : Nat := 50
  deriving DecidableEq, Repr

/-- The supervisor beside its registers. -/
structure Sup where
  /-- monitors, by kind × 512 + index -/
  mons : Sparse Mon := []
  /-- U state 0 to 3 -/
  pstate : Nat := 0
  /-- stopped clock domains, kind × 512 + index: 1 slice, 2 core, 6 vault, 7 channel, 9 rill engine -/
  stopped : List Nat := []
  /-- parked slices -/
  parked : List Nat := []
  /-- main clock, MHz, as the power limit allows it -/
  clk : Nat := 1000
  /-- HBM4 rate in force for power, per cent -/
  hbm : Nat := 100
  /-- cistern rate in force for power, per cent -/
  cist : Nat := 100
  /-- the thermal throttles: clock, cistern rate, HBM4 rate -/
  therm : Nat × Nat × Nat := (1000, 100, 100)
  /-- consecutive samples 3 % below the limit -/
  below : Nat := 0
  /-- core rail set point, mV -/
  vset : Nat := 650
  /-- sample periods since it last moved, 50 at most (R338) -/
  vage : Nat := 50
  /-- droop steps added -/
  droop : Nat := 0
  /-- slices stretched by a droop event, not yet over their 32 cycles -/
  stretched : List Nat := []
  /-- power was above the limit at the last sample -/
  limited : Bool := false
  /-- rim ports taken down at their trip (R336) -/
  tripped : List Nat := []
  /-- retrains of each rim pair in the running hour: 9 × port + pair, times -/
  retrains : List (Nat × Nat) := []
  /-- table state staged at U3 entry: table, PUB_VER, WORK_VER, COMMIT_STEP -/
  staged : Option (List (Nat × Nat × Nat × Nat)) := none
  /-- a save has halted the supervisor until power is removed and restored (R344) -/
  halted : Bool := false
  /-- FMIN as written before an FMAX below it raised it to FMAX (R339) -/
  fmin : Option Nat := none
  deriving DecidableEq, Repr

/-! ### Firmware, security and retention (14_startup_reset_state.md) -/

/-- The image in the firmware store (R355). -/
structure Image where
  /-- body -/
  body : List Byte
  /-- KEY_INDEX -/
  key : Nat
  /-- SVN -/
  svn : Nat
  /-- BUILD_ID -/
  build : Nat
  /-- CRC-32C held with it -/
  crc : Nat
  deriving DecidableEq, Repr

/-- The security region (R357). -/
structure Sec where
  /-- MIN_SVN -/
  minSvn : Nat := 0
  /-- revoked key slots -/
  revoked : List Nat := []
  deriving DecidableEq, Repr

/-- The retention store beside the configuration region. -/
structure Retention where
  /-- the configuration region passes its check (R361); no command changes it -/
  cfgValid : Bool := true
  /-- security region -/
  sec : Sec := {}
  /-- repair maps -/
  repair : Repair := {}
  /-- repair maps as the next write of their region stores them -/
  staged : Repair := {}
  /-- ageing history: worst slack at each re-plan, newest first -/
  ageing : List Int := []
  /-- update counts of the regions 1 to 4 -/
  counts : List Nat := [0, 0, 0, 0]
  /-- record slots A and B -/
  recs : List (List Byte) := [[], []]
  /-- regions to write, in order; a write of the first runs -/
  writing : List Nat := []
  deriving DecidableEq, Repr

/-- Firmware and what decides whether it runs. -/
structure Fw where
  /-- firmware store -/
  image : Option Image := none
  /-- security state in force -/
  sec : Sec := {}
  /-- hashes of the four firmware keys -/
  keys : List (List Byte) := []
  deriving DecidableEq, Repr

/-! ### The boundary (15_boundary.md) -/

/-- The I3C target. -/
structure I3c where
  /-- dynamic address -/
  addr : Option Nat := none
  /-- in-band interrupts enabled -/
  events : Bool := true
  /-- CMD_ERR -/
  cmdErr : Bool := false
  /-- offset into the record -/
  recOff : Nat := 0
  /-- a power cycle was requested (R383, R384) -/
  cycleAsked : Bool := false
  /-- a save of CAUSE 3 is complete since power good (R384) -/
  saveDone : Bool := false
  deriving DecidableEq, Repr

/-- Pins and clock monitors. -/
structure Pins where
  /-- PWR_GOOD -/
  pwrGood : Bool := false
  /-- SUP_REFCLK failed -/
  supFail : Bool := false
  /-- RIM_REFCLK0 failed -/
  rim0Fail : Bool := false
  /-- RIM_REFCLK1 failed -/
  rim1Fail : Bool := false
  /-- resends of an unacknowledged set-point word, by rail (R386) -/
  vregTries : Sparse Nat := []
  deriving DecidableEq, Repr

/-- What leaves the engine (log entry 5). -/
inductive Out
  /-- a frame on a tower channel -/
  | frame (channel : Nat) (bytes : List Byte)
  /-- a gradient frame refused on a tower channel (R202) -/
  | nack (channel : Nat) (bytes : List Byte)
  /-- a message of 07 Table 5 to a peer on a rim port -/
  | message (chip port : Nat) (bytes : List Byte)
  /-- an abort frame to a peer -/
  | abort (chip : Nat) (bytes : List Byte)
  /-- a connection-management message on QP1 -/
  | cm (chip port : Nat) (kind : CmKind)
  /-- an NVMe command: number, target, first block, blocks, data of a write -/
  | nvme (io target lba blocks : Nat) (write : Bool) (data : List Byte)
  /-- a receiver-not-ready NAK to a peer whose lookup finds the serve queue full (R195) -/
  | rnrNak (chip : Nat)
  /-- the reads of a row fetch: tier, target and the 32-byte sectors in the order of their requests (R124) -/
  | sectors (tier target : Nat) (addrs : List Nat)
  /-- an NVMe-oF connect or disconnect -/
  | nvmfConnect (target : Nat) (on : Bool)
  /-- an NVMe Keep Alive -/
  | keepAlive (target : Nat)
  /-- a zero-length read of a host address (R266) -/
  | flushRead (addr : Nat)
  /-- a page request (R263) -/
  | pageRequest (space addr : Nat) (write : Bool)
  /-- a translation request (R262) -/
  | atsRequest (space addr : Nat)
  /-- an invalidate completion (R265) -/
  | invalidated (space page size : Nat)
  /-- the MSI-X message of the error interrupt (R375) -/
  | msix
  /-- bytes answered over I3C -/
  | i3c (bytes : List Byte)
  /-- an in-band interrupt with its data byte -/
  | ibi (data : Nat)
  /-- a set-point word to a regulator -/
  | vreg (rail word : Nat)
  deriving DecidableEq, Repr

/-- The outbound tower channels (R105, R371). -/
structure Tower where
  /-- channels whose acceptance is withheld -/
  held : List Nat := []
  /-- END frames of ended commands that wait for their channel -/
  ends : List (Nat × List Byte) := []
  deriving DecidableEq, Repr

/-- The aperture's last response (R367, R368) and the latches of R389. -/
structure Bus where
  /-- NT_RDATA -/
  rdata : Nat := 0
  /-- NT_ERR -/
  err : Bool := false
  /-- latched words, by offset -/
  latch : Sparse Nat := []
  /-- the error interrupt level -/
  irq : Bool := false
  deriving DecidableEq, Repr

/-- Installed geometry of a basin class (R109, R110). -/
structure Geom where
  /-- GRANULES -/
  granules : Nat := 0
  /-- WAYS -/
  ways : Nat := 8
  /-- SLOT_LOG2 -/
  slotLog2 : Nat := 10
  /-- FREQ_FILTER -/
  filter : Bool := true
  deriving DecidableEq, Repr

/-! ### The engine -/

/-- The state of the engine. -/
structure State where
  /-- commands that wait, first in first out -/
  pending : List Instr := []
  /-- free values used so far: the model's own counter (log entry 3) -/
  freeCtr : Nat := 0
  /-- what left the engine, newest first -/
  sent : List Out := []
  /-- UM_CYCLE_COUNT -/
  cycle : Nat := 0
  /-- aperture response -/
  bus : Bus := {}
  /-- tower channels -/
  tower : Tower := {}
  /-- stored register fields, by `Fld.key`: value XOR reset value -/
  regs : Sparse Nat := []
  /-- ON-9 and host memory: chip addresses, and address space × 2^64 + host address -/
  mem : Sparse Byte := []
  /-- tiers 1 to 4 -/
  tiers : Tiers := {}
  /-- queues -/
  queues : Sparse Queue := []
  /-- arbiter -/
  arb : Arb := {}
  /-- commands admitted and without a reply, in admission order -/
  cmds : List Cmd := []
  /-- next admission number -/
  nextId : Nat := 0
  /-- contexts -/
  ctxs : Sparse Ctx := []
  /-- valve counts -/
  valves : Sparse Nat := []
  /-- modifications of valves in the running cycle (R286) -/
  mods : List ValveMod := []
  /-- tables -/
  tables : Sparse Table := []
  /-- physical slices -/
  slices : Sparse Slice := []
  /-- copies dirty at the last flush and not yet written: physical slice, table, row, LO (R131) -/
  flushing : List (Nat × Nat × Nat × Nat) := []
  /-- SERVE pins still to take the row of the version just published: table, version, row (R137) -/
  refills : List (Nat × Nat × Nat) := []
  /-- what waits for room in a cullet buffer or hold area, its wait counted: command or number, table, row (R128, R177) -/
  waits : List (Nat × Nat × Nat) := []
  /-- installed basin geometry, by class -/
  geom : Sparse Geom := []
  /-- backward records -/
  lehr : List LehrRec := []
  /-- frames to discard -/
  drains : List Drain := []
  /-- row fetches and pool requests in flight -/
  fetches : List Fetch := []
  /-- next fetch number -/
  nextFetch : Nat := 0
  /-- open and travelling partials -/
  partials : List Partial := []
  /-- next partial number -/
  nextPart : Nat := 0
  /-- stream descriptors -/
  descs : Sparse SDesc := []
  /-- host path -/
  host : HostPath := {}
  /-- placement and skimmer -/
  place : Placement := {}
  /-- peers and flash targets -/
  remote : Remote := {}
  /-- error log -/
  errs : ErrLog := {}
  /-- hang detector -/
  hang : Hang := {}
  /-- running or held rung -/
  rung : Option Rung := none
  /-- dump store -/
  dump : Dump := {}
  /-- units and maps -/
  units : Units := {}
  /-- vault controllers and channels, by UNIT -/
  mems : Sparse MemUnit := []
  /-- repair maps in force -/
  repair : Repair := {}
  /-- supervisor -/
  sup : Sup := {}
  /-- firmware and security state -/
  fw : Fw := {}
  /-- retention store -/
  ret : Retention := {}
  /-- I3C target -/
  i3c : I3c := {}
  /-- pins -/
  pins : Pins := {}
  deriving DecidableEq, Repr

/-- KEY0 of the configuration region: the SHA-384 of the uncompressed base point of P-384 (log entry 7). -/
def resetKey0 : List Byte :=
  [0x8c#8, 0x4f#8, 0x26#8, 0x24#8, 0x12#8, 0xb7#8, 0xf9#8, 0xed#8, 0x86#8, 0x76#8, 0x06#8, 0x70#8,
   0x5a#8, 0x13#8, 0x0d#8, 0xe5#8, 0x21#8, 0x2f#8, 0xd0#8, 0x48#8, 0xfb#8, 0xaf#8, 0x8c#8, 0x38#8,
   0x42#8, 0xf4#8, 0xa2#8, 0x40#8, 0xf4#8, 0xb4#8, 0x5b#8, 0xa0#8, 0xc9#8, 0x0f#8, 0x82#8, 0x19#8,
   0x4c#8, 0xcd#8, 0xda#8, 0x3e#8, 0xd8#8, 0x9c#8, 0x96#8, 0xb0#8, 0xaf#8, 0xe1#8, 0xd5#8, 0x1d#8]

/-- The state right after power is applied, before PWR_GOOD rises (R350, R363): every register at its reset value, no
queue enabled, context 0 not yet open, nothing in memory. Class 0 of the basin holds 384 granules (R109). -/
def State.reset : State where
  regs := [(Reg.BASIN_CLASS_CFG_GRANULES.key 0, 384)]
  geom := [(0, { granules := 384 })]
  fw := { keys := [resetKey0, List.replicate 48 0#8, List.replicate 48 0#8, List.replicate 48 0#8] }

end Sys2Proof.Machine
end

