-- ==== Sys2Proof/Machine/Ops.lean ====
section
/-! DEFINITION. The shared operations: registers, memory, queues, contexts, tables and units by number, error records with
their interrupt, free values, and the tick of the clock. -/

namespace Sys2Proof.Machine

/-- The outcome of a command that turns state `s` into `t`: state `t` with the waiting commands of `s`. -/
def doneAlways (s t : State) : Host.Outcome State Fault Refusal := .next { t with pending := s.pending }

/-- The outcome of a command that a halted engine does not run: after a save the supervisor holds the engine in reset until power
good is removed and restored (R344). -/
def done (s t : State) : Host.Outcome State Fault Refusal := doneAlways s (if s.sup.halted then s else t)

/-! ### Register fields -/

/-- Value of a register field of object `i`. -/
def rd (f : Fld) (i : Nat) (s : State) : Nat := Sparse.get 0 s.regs (f.key i) ^^^ f.reset

/-- Whether a one-bit field is set. -/
def rdb (f : Fld) (i : Nat) (s : State) : Bool := rd f i s == 1

/-- The register store with a field of object `i` set. -/
def wrRegs (f : Fld) (i v : Nat) (r : Sparse Nat) : Sparse Nat := Sparse.set 0 r (f.key i) ((v % 2 ^ f.width) ^^^ f.reset)

/-- Sets a field of object `i`. -/
def wr (f : Fld) (i v : Nat) (s : State) : State := { s with regs := wrRegs f i v s.regs }

/-- Raises an event counter; it saturates (R13). -/
def bump (f : Fld) (i n : Nat) (s : State) : State := wr f i (satAdd f.width (rd f i s) n) s

/-- The register store without the fields `p` names: they read their reset values. -/
def dropRegs (p : Nat → Bool) (r : Sparse Nat) : Sparse Nat := r.filter fun e => !p e.1

/-- The start-up phase (R350). -/
def phaseOf (s : State) : Nat := rd Reg.BOOT_STAT_PHASE 0 s

/-- READY: the phase in which queues may be enabled. -/
def isReady (s : State) : Bool := phaseOf s == 5

/-! ### Objects by number -/

/-- Queue `q`. -/
def queue (s : State) (q : Nat) : Queue := Sparse.get {} s.queues q
/-- Replaces queue `q`. -/
def setQueue (q : Nat) (v : Queue) (s : State) : State := { s with queues := Sparse.set {} s.queues q v }
/-- Context `c`. -/
def ctx (s : State) (c : Nat) : Ctx := Sparse.get {} s.ctxs c
/-- Replaces context `c`. -/
def setCtx (c : Nat) (v : Ctx) (s : State) : State := { s with ctxs := Sparse.set {} s.ctxs c v }
/-- Table `t`. -/
def table (s : State) (t : Nat) : Table := Sparse.get {} s.tables t
/-- Replaces table `t`. -/
def setTable (t : Nat) (v : Table) (s : State) : State := { s with tables := Sparse.set {} s.tables t v }
/-- Physical slice `i`. -/
def slice (s : State) (i : Nat) : Slice := Sparse.get {} s.slices i
/-- Replaces physical slice `i`. -/
def setSlice (i : Nat) (v : Slice) (s : State) : State := { s with slices := Sparse.set {} s.slices i v }
/-- Stream descriptor `d`. -/
def desc (s : State) (d : Nat) : SDesc := Sparse.get {} s.descs d
/-- Replaces stream descriptor `d`. -/
def setDesc (d : Nat) (v : SDesc) (s : State) : State := { s with descs := Sparse.set {} s.descs d v }
/-- Count of valve `v`. -/
def valve (s : State) (v : Nat) : Nat := Sparse.get 0 s.valves v
/-- Sets the count of valve `v`, as the one modification of its cycle. -/
def setValve (v n : Nat) (s : State) : State := { s with valves := Sparse.set 0 s.valves v n, mods := [] }
/-- The unit of an identifier. -/
def unit (s : State) (u : Nat) : UnitRec := Sparse.get {} s.units.st u
/-- Replaces a unit. -/
def setUnit (u : Nat) (v : UnitRec) (s : State) : State :=
  { s with units := { s.units with st := Sparse.set {} s.units.st u v } }
/-- Installed geometry of a basin class. -/
def geomOf (s : State) (c : Nat) : Geom := Sparse.get {} s.geom c
/-- A memory unit. -/
def memUnit (s : State) (u : Nat) : MemUnit := Sparse.get {} s.mems u
/-- Replaces a memory unit. -/
def setMemUnit (u : Nat) (v : MemUnit) (s : State) : State := { s with mems := Sparse.set {} s.mems u v }

/-- Identifier of a unit (12 Table 2). -/
def unitId (kind index : Nat) : Nat := kind * 4096 + index

/-- The unit that serves logical position `i` of a kind; none when it is vacant. -/
def physOf (s : State) (kind i : Nat) : Option Nat :=
  match Sparse.get Pos.own s.units.pos (unitId kind i) with
  | .own => some i
  | .phys p => some p
  | .vacant => none

/-- The physical slice of a logical slice. A vacant position is served by no slice; its own number stands for it. -/
def physSlice (s : State) (i : Nat) : Nat := (physOf s 1 i).getD i

/-- The command with admission number `id`. -/
def cmd? (s : State) (id : Nat) : Option Cmd := s.cmds.find? fun c => c.id == id

/-- Modifies the command with admission number `id`. -/
def modCmd (id : Nat) (f : Cmd → Cmd) (s : State) : State :=
  { s with cmds := s.cmds.map fun c => if c.id == id then f c else c }

/-- Raises a command's progress counter (R307). -/
def progress (id : Nat) (s : State) : State := modCmd id (fun c => { c with progress := c.progress + 1 }) s

/-- Adds to what left the engine. -/
def send (o : Out) (s : State) : State := { s with sent := o :: s.sent }

/-! ### Memory -/

/-- The address space of a context: 0 the default, PASID + 1 otherwise (R279). -/
def spaceOf (s : State) (c : Nat) : Nat := match (ctx s c).pasid with | none => 0 | some p => p + 1

/-- Whether an address is a chip address (bit 63 set, R9). -/
def isChip (addr : Nat) : Bool := bit addr 63

/-- Key of a byte address in an address space. -/
def memKey (space addr : Nat) : Nat := if isChip addr then addr % 2 ^ 64 else space * 2 ^ 64 + addr % 2 ^ 64

/-- One byte. -/
def readByte (m : Sparse Byte) (k : Nat) : Byte := Sparse.get 0#8 m k

/-- `n` bytes from key `k`. -/
def readKeys (m : Sparse Byte) : Nat → Nat → List Byte
  | 0, _ => []
  | n + 1, k => readByte m k :: readKeys m n (k + 1)

/-- Writes bytes from key `k` on. -/
def writeKeys (m : Sparse Byte) (k : Nat) : List Byte → Sparse Byte
  | [] => m
  | b :: bs => writeKeys (Sparse.set 0#8 m k b) (k + 1) bs

/-- `n` bytes at an address of an address space. -/
def readMem (s : State) (space addr n : Nat) : List Byte := readKeys s.mem n (memKey space addr)

/-- Writes bytes at an address of an address space. -/
def writeMem (space addr : Nat) (bs : List Byte) (s : State) : State :=
  { s with mem := writeKeys s.mem (memKey space addr) bs }

/-- `n` words at an address. -/
def readWords (s : State) (space addr n : Nat) : List Word := wordsOf n (readMem s space addr (4 * n))

/-- The bytes of words. -/
def bytesOf (ws : List Word) : List Byte := ws.flatMap wordBytes

/-! ### Free values (log entry 3) -/

/-- The next `n` free bytes. -/
def freeBytes (s : State) (n : Nat) : List Byte := (List.range n).map fun i => Config.freeByte (s.freeCtr + i)

/-- The next free word. -/
def freeWord (s : State) : Word := Config.freeWord s.freeCtr

/-- Uses `n` free values. -/
def useFree (n : Nat) (s : State) : State := { s with freeCtr := s.freeCtr + n }

/-- Writes `n` free bytes at an address: a region whose content the manual calls undefined. -/
def writeFree (space addr n : Nat) (s : State) : State := useFree n (writeMem space addr (freeBytes s n) s)

/-! ### The error interrupt and the error log -/

/-- Whether UM_IRQ is 1 (R375). -/
def irqLevel (s : State) : Bool := rdb Reg.ERR_STAT_NEW 0 s && !rdb Reg.IRQ_MASK_ERR 0 s

/-- Drives UM_IRQ and sends the MSI-X message when it rises (R375). While the sluice is not OPEN the message waits for the
re-attach. -/
def driveIrq (s : State) : State :=
  let up := irqLevel s
  let rise := up && !s.bus.irq
  let now := rise && s.host.msix && s.host.st == .opened
  { s with
    bus := { s.bus with irq := up }
    sent := if now then .msix :: s.sent else s.sent
    host := { s.host with msixPending := s.host.msixPending || (rise && s.host.msix && !(s.host.st == .opened)) } }

/-- Words of an error record (R302). -/
def ErrRec.words (r : ErrRec) : List Word :=
  [BitVec.ofNat 32 (r.code % 2 ^ 16 + r.action % 2 ^ 8 * 2 ^ 16 + b2n r.noCmd * 2 ^ 24),
   BitVec.ofNat 32 (r.ctx % 2 ^ 8 + r.unit % 2 ^ 16 * 2 ^ 16), BitVec.ofNat 32 r.gen, BitVec.ofNat 32 r.seq,
   BitVec.ofNat 32 r.time, BitVec.ofNat 32 (r.time / 2 ^ 32), BitVec.ofNat 32 r.info, BitVec.ofNat 32 (r.info / 2 ^ 32)]

/-- Whether record number `q` is unacknowledged (R303). -/
def unacked (s : State) (q : Nat) : Bool :=
  decide ((q + 2 ^ 32 - rd Reg.ERR_LOG_ACK_SEQ 0 s) % 2 ^ 32 < 2 ^ 31)

/-- Whether writing the next record overwrites an unacknowledged one. -/
def overwrites (s : State) : Bool :=
  let old := Sparse.get {} s.errs.slots (s.errs.head % 1024)
  decide (old.code ≠ 0) && unacked s old.seq

/-- Writes an error record (R301 to R303): `c` is the context whose command met the condition; none names context 0 with
CTX_KIND 1. -/
def logErr (code action : Nat) (c : Option Nat) (u info : Nat) (s : State) : State :=
  let k := c.getD 0
  let r : ErrRec :=
    { code := code, action := action, noCmd := c.isNone, ctx := k, unit := u, gen := (ctx s k).gen, seq := s.errs.head,
      time := s.cycle, info := info }
  let s1 := if overwrites s then bump Reg.ERR_OVERWRITE_CNT_COUNT 0 1 s else s
  let s2 := wr Reg.ERR_STAT_NEW 0 1 s1
  driveIrq { s2 with errs :=
    { slots := Sparse.set {} s.errs.slots (s.errs.head % 1024) r, head := (s.errs.head + 1) % 2 ^ 32 } }

/-- Records a condition that meets commands of some contexts: one record for each; one that names none where it meets no command (R301). -/
def logEach (code action : Nat) (ks : List Nat) (u info : Nat) (s : State) : State :=
  if ks.isEmpty then logErr code action none u info s else ks.foldl (fun x k => logErr code action (some k) u info x) s

/-- A SUPERVISOR record (R341): sub-code, monitor or unit, value. -/
def logSup (sub u value : Nat) (action : Nat) (s : State) : State :=
  logErr 0x0070 action none 0 (sub % 2 ^ 16 + u % 2 ^ 16 * 2 ^ 16 + value % 2 ^ 32 * 2 ^ 32) s

/-! ### Time -/

/-- Ticks of UM_CYCLE_COUNT per step with nothing waiting: 1, or 20 in U3, where the count advances by 20 each supervisor
cycle (R295). -/
def tickBy (s : State) : Nat := if s.sup.pstate == 3 then 20 else 1

end Sys2Proof.Machine
end

