-- ==== Sys2Proof/Machine/Flags.lean ====
section
/-! DEFINITION. Status codes (02 Table 6), positions of an offending field (R406), and the result digest's arithmetic. -/

namespace Sys2Proof.Machine

/-- The code of a status. -/
def St.code (t : St) : Nat := t.ctorIdx

/-- A status with DETAIL0 and DETAIL1. -/
abbrev Verdict := St × Nat × Nat

/-- DETAIL0 of ST_BAD_FIELD: word, bit and marker bit; no marker is 0 (R406). -/
def fieldPos (word b marker : Nat) : Nat := word % 32 + b % 32 * 32 + (if marker = 0 then 0 else 2 ^ marker)

/-- A field out of order: its position by word, then bit (R406). -/
abbrev Offence := Nat × Nat

/-- The lowest of several offending fields (R406). -/
def lowestOffence : List Offence → Option Offence
  | [] => none
  | o :: os =>
    match lowestOffence os with
    | none => some o
    | some p => if o.1 < p.1 || (o.1 == p.1 && decide (o.2 ≤ p.2)) then some o else some p

/-- The number of the lowest bit set in a word, 0 of none. -/
def lowestBit (v : Nat) : Nat := ((List.range 32).find? fun i => bit v i).getD 0

/-- Offences of nonzero bits outside the masks of the words in use, by word; words beyond the list of masks hold no field. -/
def reservedOffences (masks : List Nat) : Nat → List Word → List Offence
  | _, [] => []
  | i, w :: ws =>
    let r := (w.toNat ||| masks.getD i 0) ^^^ masks.getD i 0
    if r = 0 then reservedOffences masks (i + 1) ws else (i, lowestBit r) :: reservedOffences masks (i + 1) ws

end Sys2Proof.Machine
end

