-- ==== Sys2Proof/Machine/Operands.lean ====
section
/-! DEFINITION. The fields of a command packet (02 Tables 2 and 3), the partition a command runs in, and checks 1 to 5 of
R33. -/

namespace Sys2Proof.Machine

/-! ### Fields of a packet -/

/-- Bits [msb:lsb] from word `w` on; a field may run into the next word (R9). -/
def pf (ws : List Word) (w msb lsb : Nat) : Nat := field (wordAt ws w + 2 ^ 32 * wordAt ws (w + 1)) msb lsb

/-- A 64-bit field from word `w` on. -/
def addr64 (ws : List Word) (w : Nat) : Nat := wordAt ws w + 2 ^ 32 * wordAt ws (w + 1)

namespace Pkt

/-- OPCODE -/
def op (ws : List Word) : Nat := pf ws 0 7 0
/-- EXT -/
def ext (ws : List Word) : Bool := bit (wordAt ws 0) 8
/-- BARRIER -/
def barrier (ws : List Word) : Bool := bit (wordAt ws 0) 9
/-- STRONG_COMPLETE -/
def strong (ws : List Word) : Bool := bit (wordAt ws 0) 10
/-- DIGEST_EN -/
def digestEn (ws : List Word) : Bool := bit (wordAt ws 0) 11
/-- CFLAG_EN -/
def cflagEn (ws : List Word) : Bool := bit (wordAt ws 0) 12
/-- WAIT_EN -/
def waitEn (ws : List Word) : Bool := bit (wordAt ws 0) 13
/-- POST_EN -/
def postEn (ws : List Word) : Bool := bit (wordAt ws 0) 14
/-- TAG -/
def tag (ws : List Word) : Nat := pf ws 0 31 16
/-- CTX -/
def ctx (ws : List Word) : Nat := pf ws 1 7 0
/-- STEP -/
def step (ws : List Word) : Nat := wordAt ws 2
/-- WAIT_VALVE -/
def waitValve (ws : List Word) : Nat := pf ws 3 15 0
/-- POST_VALVE -/
def postValve (ws : List Word) : Nat := pf ws 3 31 16
/-- CFLAG_ADDR -/
def cflagAddr (ws : List Word) : Nat := addr64 ws 4
/-- CFLAG_VALUE -/
def cflagValue (ws : List Word) : Nat := wordAt ws 6
/-- TABLE -/
def table (ws : List Word) : Nat := pf ws 8 11 0
/-- POOL of a GATHER_POOL -/
def pool (ws : List Word) : Nat := pf ws 8 15 12
/-- OUT_FMT of a GATHER_POOL -/
def gOutFmt (ws : List Word) : Nat := pf ws 8 19 16
/-- OUT_SEL -/
def outSel (ws : List Word) : Nat := pf ws 8 21 20
/-- BAGS, or SAMPLES of a CASCADE -/
def bags (ws : List Word) : Nat := pf ws 9 19 0
/-- IDS of a GATHER_POOL -/
def ids (ws : List Word) : Nat := wordAt ws 10
/-- bytes of an element of the output format of a forward command -/
def outBytes (fmt : Nat) : Nat := match fmt with | 0 => 4 | 1 => 2 | 2 => 2 | _ => 1
/-- the address at words 11 and 12: IDS_ADDR, FEATURE_LIST_ADDR, GRAD_ADDR, DESC_ADDR, SRC_ADDR, PROG_ADDR, CTX_CFG_ADDR -/
def addrA (ws : List Word) : Nat := addr64 ws 11
/-- the address at words 13 and 14: OFFS_ADDR, DENSE_ADDR, DST_ADDR of a COPY -/
def addrB (ws : List Word) : Nat := addr64 ws 13
/-- TOWER_SLOT -/
def towerSlot (ws : List Word) : Nat := pf ws 15 15 0
/-- WEIGHTS_ADDR, or FIRST_ROW of a TABLE_LOAD or TABLE_SAVE -/
def addrC (ws : List Word) : Nat := addr64 ws 16
/-- OUT_ADDR -/
def outAddr (ws : List Word) : Nat := addr64 ws 18
/-- FEATURES -/
def features (ws : List Word) : Nat := pf ws 8 5 0
/-- NORM -/
def norm (ws : List Word) : Nat := pf ws 8 7 6
/-- INTERACT -/
def interact (ws : List Word) : Bool := bit (wordAt ws 8) 8
/-- FN -/
def fn (ws : List Word) : Bool := bit (wordAt ws 8) 9
/-- OUT_FMT of a CASCADE -/
def cOutFmt (ws : List Word) : Nat := pf ws 8 13 10
/-- GRAD_SEL -/
def gradSel (ws : List Word) : Bool := bit (wordAt ws 8) 12
/-- FWD_TAG -/
def fwdTag (ws : List Word) : Nat := pf ws 10 15 0
/-- FEATURE of a SCATTER_GRAD -/
def feature (ws : List Word) : Nat := pf ws 10 21 16
/-- the word at 9: LR, VERSION, BYTES, VALUE -/
def w9 (ws : List Word) : Nat := wordAt ws 9
/-- COUNT of 24 bits -/
def count (ws : List Word) : Nat := pf ws 9 23 0
/-- COUNT of a PIN_ROWS -/
def pinCount (ws : List Word) : Nat := pf ws 9 9 0
/-- UNPIN -/
def unpin (ws : List Word) : Bool := bit (wordAt ws 8) 16
/-- DEST_TIER, or OP of a VALVE_OP -/
def destTier (ws : List Word) : Nat := pf ws 8 19 16
/-- VALVE of a VALVE_OP -/
def valve (ws : List Word) : Nat := pf ws 8 15 0
/-- TARGET_CTX -/
def target (ws : List Word) : Nat := pf ws 8 7 0
/-- KIND of a CONTEXT_OPEN -/
def kind (ws : List Word) : Nat := pf ws 8 9 8
/-- OUT_FMT of a forward command -/
def outFmt (ws : List Word) : Nat := if op ws = 2 then cOutFmt ws else gOutFmt ws

end Pkt

/-- Opcode of an admitted command. -/
def Cmd.op (c : Cmd) : Nat := Pkt.op c.words

/-- The addresses a command names, its completion flag among them. -/
def addressesOf (c : Cmd) : List Nat :=
  let ws := c.words
  (if Pkt.cflagEn ws then [Pkt.cflagAddr ws] else []) ++
  match c.op with
  | 0x01 =>
    [Pkt.addrA ws, Pkt.addrB ws] ++ (if Pkt.pool ws = 2 then [Pkt.addrC ws] else [])
      ++ (if Pkt.outSel ws = 1 then [Pkt.outAddr ws] else [])
  | 0x02 =>
    [Pkt.addrA ws] ++ (if Pkt.interact ws then [Pkt.addrB ws] else [])
      ++ c.feats.flatMap fun r =>
        [addr64 r 2, addr64 r 4] ++ (if field (wordAt r 0) 15 12 = 2 then [addr64 r 6] else [])
  | 0x03 => if Pkt.gradSel ws || Pkt.feature ws == 63 then [Pkt.addrA ws] else []
  | 0x05 => [Pkt.addrA ws]
  | 0x06 => [Pkt.addrA ws]
  | 0x07 => [Pkt.addrA ws]
  | 0x08 => [Pkt.addrA ws]
  | 0x10 => [Pkt.addrA ws]
  | 0x14 => [Pkt.addrA ws]
  | 0x15 => [Pkt.addrA ws]
  | 0x18 => [Pkt.addrA ws]
  | 0x1A => [Pkt.addrA ws, Pkt.addrB ws]
  | 0x28 => [Pkt.addrA ws]
  | _ => []

/-- Whether a command names a host address. -/
def namesHost (c : Cmd) : Bool := (addressesOf c).any fun a => !isChip a

/-- Tables a command names, without repeats. -/
def tablesOf (c : Cmd) : List Nat :=
  match c.op with
  | 0x02 => dedup (c.feats.map fun r => field (wordAt r 0) 11 0)
  | 0x00 | 0x18 | 0x19 | 0x1A | 0x20 | 0x28 | 0x29 => []
  | _ => [Pkt.table c.words]

/-- Whether a STREAM_ARM names a program at a chip address whose SRC_BASE or DST_BASE is a host address. -/
def armsHost (s : State) (c : Cmd) : Bool :=
  let bases := readWords s (spaceOf s c.ctx) (Pkt.addrA c.words + 8) 4
  c.op == 0x18 && (!isChip (addr64 bases 0) || !isChip (addr64 bases 2))

/-- Whether a command needs the host path (R253): it names a host address or its replies go to one, a STREAM_ARM's program has a
host base, or it names a table with a tier-3 shard, or any table while a tier-3 placement pool stands. -/
def needsHost (s : State) (c : Cmd) : Bool :=
  namesHost c || armsHost s c || !isChip (queue s c.queue).replyBase
  || (tablesOf c).any fun t => (table s t).shards.any (fun h => h.tier == 3) || rd Reg.PLACE_POOL_LEN_LEN 3 s != 0

/-- Whether a context's commands may access `n` bytes at a chip address (R278); host addresses pass, and context 0 reaches
every chip address. -/
def windowAllows (s : State) (c addr n : Nat) (write : Bool) : Bool :=
  c == 0 || !isChip addr || (ctx s c).wins.any fun w =>
    decide (w.pages ≠ 0) && decide (w.base ≤ addr) && decide (addr + n ≤ w.base + w.pages * 4096)
      && (if write then w.w else w.r)

/-! ### Partitions (R280, R281) -/

/-- Slices of each partition of a layout: first slice and count (11 Table 3). -/
def partitions (layout : Nat) : List (Nat × Nat) :=
  match layout with
  | 0 => [(0, 16)]
  | 1 => [(0, 8), (8, 8)]
  | 2 => [(0, 4), (4, 4), (8, 4), (12, 4)]
  | 3 => [(0, 8), (8, 4), (12, 4)]
  | 4 => [(0, 4), (4, 4), (8, 8)]
  | _ => []

/-- The partitions of the current layout. -/
def layoutOf (s : State) : List (Nat × Nat) := partitions (rd Reg.PART_CFG_LAYOUT 0 s)

/-- First logical slice and size of the partition a context runs in. -/
def partOf (s : State) (c : Nat) : Nat × Nat := (layoutOf s).getD (ctx s c).part (0, 16)

/-- A of a context: the slices of its partition (R88). -/
def leavesOf (s : State) (c : Nat) : Nat := (partOf s c).2

/-- The physical slice that serves logical slice `h` of R60 for a context (R281). -/
def homeSlice (s : State) (c h : Nat) : Nat := physSlice s ((partOf s c).1 + h % leavesOf s c)

/-- The logical slice that serves slice `h` of R60 for a context (R281). -/
def logicalSlice (s : State) (c h : Nat) : Nat := (partOf s c).1 + h % leavesOf s c

/-! ### Opcodes (02 Table 3) -/

/-- The opcodes listed. -/
def opcodes : List Nat :=
  [0x00, 0x01, 0x02, 0x03, 0x04, 0x05, 0x06, 0x07, 0x08, 0x10, 0x11, 0x12, 0x13, 0x14, 0x15, 0x18, 0x19, 0x1A, 0x20,
   0x28, 0x29]

/-- Admin-only opcodes. -/
def adminOnly (op : Nat) : Bool := op ∈ [0x10, 0x28, 0x29]

/-- Training-only opcodes. -/
def trainingOnly (op : Nat) : Bool := op ∈ [0x03, 0x04, 0x05, 0x11]

/-- Masks of the header words in use; a field reserved under a condition stands among the conditions of `rangeOffences`. -/
def headerMasks : List Nat :=
  [0xFFFF7FFF, 0xFF, 0xFFFFFFFF, 0xFFFFFFFF, 0xFFFFFFFF, 0xFFFFFFFF, 0xFFFFFFFF, 0]

/-- Masks of words 8 to 31 in use, by opcode (02 Table 3). -/
def paramMasks (op : Nat) : List Nat :=
  let a := 0xFFFFFFFF
  match op with
  | 0x01 => [0x3FFFFF, 0xFFFFF, a, a, a, a, a, 0xFFFF, a, a, a, a]
  | 0x02 => [0x3FFF, 0xFFFFF, 0, a, a, a, a, 0xFFFF]
  | 0x03 => [0x1FFF, 0xFFFFF, 0x3FFFFF, a, a]
  | 0x04 => [0xFFF, a]
  | 0x05 => [0xFFF, 0xFFFFFF, 0, a, a]
  | 0x06 => [0xFFF, 0xFFFFFF, 0, a, a]
  | 0x07 => [0x10FFF, 0x3FF, 0, a, a]
  | 0x08 => [0xF0FFF, 0xFFFFFF, 0, a, a]
  | 0x10 => [0xFFF, 0, 0, a, a]
  | 0x11 => [0xFFF]
  | 0x12 => [0xFFF, a]
  | 0x13 => [0xFFF, a]
  | 0x14 => [0xFFF, a, a, a, a, 0, 0, 0, a, a]
  | 0x15 => [0xFFF, a, a, a, a, 0, 0, 0, a, a]
  | 0x18 => [0xFFF, 0, 0, a, a]
  | 0x19 => [0xFFF]
  | 0x1A => [0, a, 0, a, a, a, a]
  | 0x20 => [0xFFFFF, a]
  | 0x28 => [0x3FF, 0, 0, a, a]
  | 0x29 => [0xFF]
  | _ => []

/-- Whether a context may name a valve (R283). -/
def ownsValve (s : State) (c v : Nat) : Bool :=
  c == 0 || (decide ((ctx s c).valveBase ≤ v) && decide (v < (ctx s c).valveBase + (ctx s c).valveCount))

/-- One offence when a condition holds. -/
def offend (cond : Bool) (w b : Nat) : List Offence := if cond then [(w, b)] else []

/-- Offences of the header's fields (R408, R283): reserved under a condition, out of range or misaligned. -/
def headerOffences (s : State) (c : Nat) (ws : List Word) (training : Bool) : List Offence :=
  let op := Pkt.op ws
  let carries := op == 3 || op == 4 || ((op == 1 || op == 2) && training)
  offend (Pkt.step ws != 0 && !carries) 2 0
  ++ offend (if Pkt.cflagEn ws then Pkt.cflagAddr ws % 8 != 0 else Pkt.cflagAddr ws != 0) 4 0
  ++ offend (!Pkt.cflagEn ws && Pkt.cflagValue ws != 0) 6 0
  ++ offend (if Pkt.waitEn ws then !ownsValve s c (Pkt.waitValve ws) else Pkt.waitValve ws != 0) 3 0
  ++ offend (if Pkt.postEn ws then !ownsValve s c (Pkt.postValve ws) else Pkt.postValve ws != 0) 3 16

/-- Whether an opcode requires the extension (02 Table 3). -/
def needsExt (ws : List Word) : Bool :=
  match Pkt.op ws with
  | 0x01 => Pkt.pool ws == 2 || Pkt.outSel ws == 1
  | 0x14 => true
  | 0x15 => true
  | _ => false

/-- Offences of the parameters, by opcode (02 Table 3, R408, R102, R136, R174, R247, R277, R283, R284, R288). -/
def paramOffences (s : State) (c : Nat) (ws : List Word) : List Offence :=
  match Pkt.op ws with
  | 0x01 =>
    offend (decide (Pkt.pool ws > 3)) 8 12 ++ offend (decide (Pkt.gOutFmt ws > 4)) 8 16
    ++ offend (decide (Pkt.outSel ws > 1)) 8 20 ++ offend (Pkt.outSel ws == 1 && Pkt.towerSlot ws != 0) 15 0
    ++ offend (Pkt.pool ws != 2 && Pkt.addrC ws != 0) 16 0 ++ offend (Pkt.outSel ws != 1 && Pkt.outAddr ws != 0) 18 0
  | 0x02 =>
    offend (decide (Pkt.features ws < 1 ∨ Pkt.features ws > 32)) 8 0 ++ offend (Pkt.norm ws == 3) 8 6
    ++ offend (decide (Pkt.cOutFmt ws > 4)) 8 10 ++ offend (Pkt.fn ws && !Pkt.interact ws) 8 9
    ++ offend (!Pkt.interact ws && Pkt.addrB ws != 0) 13 0
  | 0x07 => offend (decide (Pkt.pinCount ws < 1 ∨ Pkt.pinCount ws > 768)) 9 0
  | 0x08 => offend (decide (Pkt.destTier ws > 4)) 8 16
  | 0x20 => offend (decide (Pkt.destTier ws > 4)) 8 16 ++ offend (!ownsValve s c (Pkt.valve ws)) 8 0
  | 0x28 => offend (Pkt.kind ws == 0 || Pkt.kind ws == 3) 8 8 ++ offend (Pkt.addrA ws % 64 != 0) 11 0
  | 0x29 => offend (Pkt.target ws == 0) 8 0
  | _ => []

/-- Check 5 of R33: the lowest offending field of a packet. -/
def fieldCheck (s : State) (c : Nat) (ws : List Word) (training : Bool) : Option Offence :=
  lowestOffence (reservedOffences (headerMasks ++ paramMasks (Pkt.op ws)) 0 (if Pkt.ext ws then ws else ws.take 16)
    ++ headerOffences s c ws training ++ paramOffences s c ws ++ offend (needsExt ws && !Pkt.ext ws) 0 8)

/-- Whether a context is open as a training context. -/
def isTraining (s : State) (c : Nat) : Bool := (ctx s c).kind == 1 && !((ctx s c).st == .free)

/-- Checks 1 to 5 of R33, in order. -/
def checks15 (s : State) (q : Nat) (ws : List Word) : Option Verdict :=
  let c := (queue s q).cfg.ctx
  let op := Pkt.op ws
  let tr := isTraining s c
  if !(op ∈ opcodes) || (trainingOnly op && !tr) then some (.badOpcode, 0, 0)
  else if adminOnly op && q != 0 then some (.priv, 0, 0)
  else if Pkt.ctx ws != c then some (.ctxMismatch, c, 0)
  else if !((ctx s c).st == .opened) then some (.ctxClosed, c, 0)
  else match fieldCheck s c ws tr with
    | some (w, b) => some (.badField, fieldPos w b 0, 0)
    | none => none

end Sys2Proof.Machine
end

