-- ==== Sys2Proof/Machine/Translate.lean ====
section
/-! DEFINITION. The translation cache and what passes through it (R262, R265), and the traffic of a command with its flush and
checkpoint reads (R266, R268). -/

namespace Sys2Proof.Machine

/-! ### Translations -/

/-- The entry that translates an address of an address space. -/
def entryAt (s : State) (space addr : Nat) : Option AtcEntry :=
  s.host.atc.find? fun e => e.space == space && decide (e.page.toNat ≤ addr) && decide (addr < e.page.toNat + e.size)

/-- First byte and size of the host page that holds an address: the size the host returned, 4 KiB where no entry is held. -/
def hostPage (s : State) (space addr : Nat) : Nat × Nat :=
  match entryAt s space addr with
  | some e => (e.page.toNat, max e.size 4096)
  | none => (addr / 4096 * 4096, 4096)

/-- The pieces of `n` bytes at an address, one for each host page they touch: address and bytes. -/
def pagePieces (s : State) (space : Nat) : Nat → Nat → Nat → List (Nat × Nat)
  | 0, _, _ => []
  | k + 1, addr, n =>
    if n = 0 then []
    else
      let p := hostPage s space addr
      let m := min n (p.1 + p.2 - addr)
      (addr, m) :: pagePieces s space k (addr + m) (n - m)

/-- The pieces of an access. -/
def piecesOf (s : State) (space addr n : Nat) : List (Nat × Nat) := pagePieces s space (n / 4096 + 2) addr n

/-- Whether an entry with the permission an access needs translates an address. -/
def entryAllows (s : State) (space addr : Nat) (write : Bool) : Bool :=
  match entryAt s space addr with
  | none => false
  | some e => if write then e.write else e.read

/-- The host pages of an access that hold no translation with its permission (R262). A chip address needs none, and without ATS
requests go untranslated. -/
def lackingPages (s : State) (space addr n : Nat) (write : Bool) : List Nat :=
  if isChip addr || !s.host.ats then []
  else ((piecesOf s space addr n).filter fun p => !entryAllows s space p.1 write).map fun p => (hostPage s space p.1).1

/-- Whether an access holds its translations (R262). -/
def translated (s : State) (space addr n : Nat) (write : Bool) : Bool := (lackingPages s space addr n write).isEmpty

/-- Sends a translation request for each page that has none outstanding (R262). -/
def askPages (space : Nat) (pages : List Nat) (s : State) : State :=
  pages.foldl (fun t p =>
    if t.host.asked.contains (space, p) then t
    else send (.atsRequest space p) { t with host := { t.host with asked := (space, p) :: t.host.asked } }) s

/-! ### Invalidations -/

/-- One read of a command is done: the invalidations that wait for reads issued before them go on (R265). -/
def Inval.readDone (id : Nat) (v : Inval) : Inval :=
  { v with waits := (v.waits.map fun w => if w.1 = id then (id, w.2 - 1) else w).filter fun w => w.2 != 0 }

/-- Answers the invalidations whose reads have completed, oldest first. -/
def answerInvals (s : State) : State :=
  let out := s.host.invals.filter fun v => v.waits.isEmpty
  out.foldl (fun t v => send (.invalidated v.space v.page v.size) t)
    { s with host := { s.host with invals := s.host.invals.filter fun v => !v.waits.isEmpty } }

/-- A host read of a command has completed. -/
def hostReadDone (id : Nat) (s : State) : State :=
  answerInvals { s with host := { s.host with invals := s.host.invals.map (Inval.readDone id) } }

/-! ### Traffic -/

/-- The checkpoint reads of `n` host bytes written at an address: one at each FLUSH_KIB KiB of the command's host writes (R268). -/
def checkpointReads (every addr n : Nat) (u : HostUse) : List FlushRead :=
  (List.range ((u.sinceCkpt + n) / every)).map fun i =>
    let o := every * (i + 1) - u.sinceCkpt
    { addr := addr + o - 1, covers := u.hostWritten + o }

/-- The last address written in each host page, with that of some new pieces. -/
def notePages (s : State) (space : Nat) (ps : List (Nat × Nat)) (old : List (Nat × Nat)) : List (Nat × Nat) :=
  ps.foldl (fun l p =>
    let g := (hostPage s space p.1).1
    (g, p.1 + p.2 - 1) :: l.filter fun e => e.1 != g) old

/-- A command's traffic after `n` host bytes written at an address. -/
def HostUse.wrote (s : State) (space every addr n : Nat) (u : HostUse) : HostUse :=
  { u with touched := true, hostWritten := u.hostWritten + n, lastHost := addr + n - 1, flushed := false,
           sinceCkpt := (u.sinceCkpt + n) % every, reads := u.reads ++ checkpointReads every addr n u,
           pages := notePages s space (piecesOf s space addr n) u.pages }

/-- Notes `n` bytes a command wrote at an address, and issues the checkpoint reads that fall due (R266, R268). -/
def noteWrite (id addr n : Nat) (s : State) : State :=
  match cmd? s id with
  | none => s
  | some c =>
    if n = 0 then s
    else if isChip addr then modCmd id (fun d => { d with use := { d.use with chipPending := d.use.chipPending + n } }) s
    else
      let every := 1024 * rd Reg.HOSTPATH_CFG_FLUSH_KIB 0 s
      (checkpointReads every addr n c.use).foldl (fun t r => send (.flushRead r.addr) t)
        (modCmd id (fun d => { d with use := d.use.wrote s (spaceOf s c.ctx) every addr n }) s)

/-- Notes a host read of a command. -/
def noteRead (id addr : Nat) (s : State) : State :=
  modCmd id (fun c => { c with use := { c.use with touched := c.use.touched || !isChip addr } }) s

/-- Whether the flushes of R266 are done: chip writes acknowledged, host writes covered by a completed read. -/
def flushed (u : HostUse) : Bool := u.chipPending == 0 && u.reads.isEmpty && (u.flushed || u.hostWritten == 0)

/-- Whether a command may post: its flushes are done, those of the host path only while the sluice is OPEN (R269 step 1). -/
def mayPost (s : State) (c : Cmd) : Bool :=
  flushed c.use || (c.use.chipPending == 0 && !(s.host.st == .opened))

/-- The reads a flush issues: one to the last host address, and with STRONG_COMPLETE one to each page written. -/
def flushAddrs (c : Cmd) : List Nat :=
  c.use.lastHost :: (if Pkt.strong c.words then c.use.pages.map (·.2) else [])

/-- Issues the flush reads of a command that wrote host addresses, once (R266). -/
def beginFlush (c : Cmd) (s : State) : State :=
  if c.use.flushed || c.use.hostWritten == 0 then s
  else
    let as := flushAddrs c
    let t := modCmd c.id (fun d => { d with use := { d.use with
      flushed := true, reads := d.use.reads ++ as.map fun a => { addr := a, covers := d.use.hostWritten } } }) s
    { t with sent := as.map (Out.flushRead ·) ++ t.sent }

end Sys2Proof.Machine
end

