-- ==== Sys2Proof/Machine/Replies.lean ====
section
/-! DEFINITION. The reply ring, credits, valves and the completion of a command (R31, R39 to R44, R271, R284, R299). -/

namespace Sys2Proof.Machine

/-! ### Rings -/

/-- Slots of a queue's rings. -/
def Queue.depth (q : Queue) : Nat := 2 ^ q.cfg.depthLog2

/-- Admitted commands of a queue without a reply, held replies that keep a credit among them. -/
def inFlight (s : State) (q : Nat) : Nat :=
  (s.cmds.filter fun c => c.queue == q).length + (s.host.held.filter fun r => r.queue == q && r.credit).length

/-- The authoritative pointers and credits of a queue (R43): the completion counter, the last CI write, and what the credit
limit leaves. -/
def authPtrs (s : State) (q : Nat) : QPtrs :=
  let v := queue s q
  { pi := v.posted % v.depth, ci := v.lastCi, free := v.cfg.limit - inFlight s q }

/-- Compares the two working copies and rebuilds them when they disagree (R43). -/
def checkPtrs (q : Nat) (s : State) : State :=
  let v := queue s q
  if v.p1 = v.p2 then s
  else
    let a := authPtrs s q
    logErr 0x0002 0 (some v.cfg.ctx) 0 q
      (setQueue q { v with p1 := a, p2 := a, ptrFault := satAdd 4 v.ptrFault 1 } s)

/-- Updates both working copies, after their comparison. -/
def updPtrs (q : Nat) (f : QPtrs → QPtrs) (s : State) : State :=
  let t := checkPtrs q s
  let v := queue t q
  setQueue q { v with p1 := f v.p1, p2 := f v.p2 } t

/-- Credits of the pool not taken by queues that are not DISABLED (R26). -/
def poolFree (s : State) : Nat :=
  16384 - sumOf (s.queues.map fun e => if e.2.st == .disabled then 0 else e.2.cfg.limit)

/-- Bytes of a reply record (R40, 02 Table 5). -/
def replyBytes (r : HeldReply) (seq : Nat) (phase : Bool) (time : Nat) : List Byte :=
  toLE 4 (r.tag % 2 ^ 16 + r.status % 2 ^ 8 * 2 ^ 16 + r.opcode % 2 ^ 8 * 2 ^ 24)
  ++ toLE 4 (seq % 2 ^ 24 + b2n phase * 2 ^ 31) ++ toLE 4 r.d0 ++ toLE 4 r.d1 ++ toLE 8 r.digest ++ toLE 8 time

/-- Address of a reply record. -/
def replyAddr (v : Queue) (i : Nat) : Nat := v.replyBase + 32 * i

/-- Address of the pointer mirror word. -/
def mirrorAddr (v : Queue) : Nat := v.replyBase + 32 * v.depth

/-- Drops one snapshot of a version (R70). -/
def unsnapVersion (v : Nat) (vers : List Version) : List Version :=
  vers.map fun x => if x.num == v then { x with inflight := x.inflight - 1 } else x

/-- Drops a command's snapshots. -/
def unsnap (snaps : List Snap) (s : State) : State :=
  snaps.foldl (fun t n => setTable n.table { table t n.table with vers := unsnapVersion n.version (table t n.table).vers } t) s

/-- Moves a queue's reply side past one record: PI, the lap, SEQ, the completion counter, the credit (R31, R40, R41), and drops
the snapshots of its command (R70). -/
def advanceReply (r : HeldReply) (s : State) : State :=
  let t := unsnap r.snaps (checkPtrs r.queue s)
  let v := queue t r.queue
  let pi := (v.p1.pi + 1) % v.depth
  let f := fun p : QPtrs => { p with pi := pi, free := if r.credit then min (p.free + 1) v.cfg.limit else p.free }
  setQueue r.queue
    { v with p1 := f v.p1, p2 := f v.p2, posted := v.posted + 1, seq := (v.seq + 1) % 2 ^ 24,
             phase := if pi = 0 then !v.phase else v.phase, mirror := pi, unread := v.unread ++ [r.slots] } t

/-- Writes a reply record at PI, advances PI and writes the mirror after it (R41). -/
def writeReply (r : HeldReply) (s : State) : State :=
  let t := checkPtrs r.queue s
  let v := queue t r.queue
  let u := advanceReply r (writeMem 0 (replyAddr v v.p1.pi) (replyBytes r v.seq v.phase s.cycle) t)
  let w := writeMem 0 (mirrorAddr v) (toLE 8 (queue u r.queue).mirror) u
  { w with hang := { w.hang with replies := w.hang.replies + 1 } }

/-- Whether a reply waits for the host path (R271). -/
def replyHeld (s : State) (q : Nat) : Bool :=
  !isChip (queue s q).replyBase && (!(s.host.st == .opened) || s.host.held.any fun r => r.queue == q)

/-- Posts a reply, or holds it for the host path. -/
def postReply (r : HeldReply) (s : State) : State :=
  if replyHeld s r.queue then { s with host := { s.host with held := s.host.held ++ [r] } } else writeReply r s

/-! ### Valves -/

/-- Adds to a valve; a saturating add is recorded (R284). -/
def valveAdd (c v n : Nat) (s : State) : State :=
  let t := setValve v (satAdd 32 (valve s v) n) s
  if valve s v + n < 2 ^ 32 then t
  else logErr 0x0003 0 (some c) 0 v (wr Reg.VALVE_STAT_LAST 0 v (wr Reg.VALVE_STAT_SAT 0 1 t))

/-! ### The digest -/

/-- The packet with the fields of R299 part 1 read as zero. -/
def digestPacket (ws : List Word) : List Word :=
  let zero := fun (v : List Word) (w : Nat) => setAt v w 0#32
  let w0 := BitVec.ofNat 32 (wordAt ws 0 % 2 ^ 16)
  let w1 := BitVec.ofNat 32 (wordAt ws 1 / 2 ^ 8 * 2 ^ 8)
  let base := setAt (setAt ([3, 4, 5, 6].foldl zero ws) 0 w0) 1 w1
  match Pkt.op ws with
  | 0x01 => setAt ([11, 12, 13, 14, 16, 17, 18, 19].foldl zero base) 15 (BitVec.ofNat 32 (wordAt ws 15 / 2 ^ 16 * 2 ^ 16))
  | 0x02 => setAt ([11, 12, 13, 14].foldl zero base) 15 (BitVec.ofNat 32 (wordAt ws 15 / 2 ^ 16 * 2 ^ 16))
  | 0x1A => [11, 12, 13, 14].foldl zero base
  | _ => [11, 12].foldl zero base

/-- The tables a command names, with the version of each, in feature order (R299 part 2); a command without a snapshot of it
names no version. -/
def digestTables (c : Cmd) : List (Nat × Nat) :=
  let named : List Nat :=
    match c.op with
    | 0x02 => c.feats.map fun f => field (wordAt f 0) 11 0
    | 0x18 | 0x19 | 0x1A | 0x20 | 0x28 | 0x29 | 0x00 => []
    | _ => [Pkt.table c.words]
  named.map fun t => (t, ((c.snaps.find? fun n => n.table == t).map (·.version)).getD 0xFFFFFFFF)

/-- The digest of a command: the CRC-64 of its digest stream (R299). -/
def digestOf (s : State) (c : Cmd) : Nat :=
  crc64 (bytesOf (digestPacket (if Pkt.ext c.words then c.words else c.words.take 16))
    ++ ((digestTables c).flatMap fun e => toLE 4 e.1 ++ toLE 4 e.2 ++ toLE 8 (table s e.1).desc.seed)
    ++ c.inputs ++ toLE 4 (leavesOf s c.ctx) ++ toLE 4 (rd Reg.JOB_CHIPS_CHIPS 0 s))

/-! ### Completion -/

/-- The reply record of a command. -/
def replyOf (s : State) (c : Cmd) (st : St) (d0 d1 : Nat) : HeldReply :=
  { queue := c.queue, ctx := c.ctx, slots := if Pkt.ext c.words then 2 else 1, credit := true, tag := Pkt.tag c.words,
    status := st.code, opcode := c.op, d0 := d0 % 2 ^ 32, d1 := d1 % 2 ^ 32,
    digest := if Pkt.digestEn c.words && st == .ok then digestOf s c else 0, cmd := some c.id, snaps := c.snaps }

/-- Whether every packet of a queue whose fetch had begun has posted its reply. -/
def allPosted (s : State) (q : Nat) : Bool :=
  (queue s q).begun == 0 && !(s.cmds.any fun c => c.queue == q) && !(s.host.held.any fun r => r.queue == q)

/-- A queue that drains becomes DISABLED once it holds no admitted command and no fetch that has begun (R40, R407); one left
FENCED by a close or reset that has ended becomes DISABLED once every packet whose fetch had begun has posted its reply (02
Table 1). -/
def settleQueue (q : Nat) (s : State) : State :=
  let v := queue s q
  let x := (ctx s v.cfg.ctx).st
  if (v.st == .draining && inFlight s q == 0 && v.begun == 0)
      || (v.st == .fenced && !(x == .closing) && !(x == .resetting) && allPosted s q) then
    setQueue q { v with st := .disabled, enable := false } s
  else s

/-- Writes the completion flag as one 8-byte write (R39 step 2). -/
def writeFlag (c : Cmd) (st : St) (s : State) : State :=
  if Pkt.cflagEn c.words && !(st == .hostPathLost) && (isChip (Pkt.cflagAddr c.words) || s.host.st == .opened) then
    writeMem (spaceOf s c.ctx) (Pkt.cflagAddr c.words) (toLE 8 (Pkt.cflagValue c.words)) s
  else s

/-- Posts POST_VALVE (R39 step 3). -/
def postValve (c : Cmd) (s : State) : State :=
  if Pkt.postEn c.words then valveAdd c.ctx (Pkt.postValve c.words) 1 s else s

/-- Removes a command; its snapshots go with its reply. -/
def dropCmd (c : Cmd) (s : State) : State := { s with cmds := s.cmds.filter fun d => d.id != c.id }

/-- A modification of a valve applied to its count. -/
def ValveMod.apply (n : Nat) (m : ValveMod) : Nat := if m.set then m.amount else satAdd 32 n m.amount

/-- The count of a valve after the modifications of its cycle, in ascending source number (R286). -/
def settledCount (ms : List ValveMod) (v n : Nat) : Nat :=
  let mine := ms.filter fun m => m.valve == v
  (sortBy (fun (a b : ValveMod) => decide (a.source < b.source)) mine).foldl ValveMod.apply ((mine.head?.map (·.before)).getD n)

/-- A modification of a valve, made in `t` of `s`, belongs to the cycle of those just before it where it joins them, else to a cycle of
its own (R286, log entry 89). -/
def inCycle (joins : Bool) (v source : Nat) (set : Bool) (n : Nat) (s t : State) : State :=
  let old := if joins then s.mods else []
  let base := ((old.find? fun m => m.valve == v).map (·.before)).getD (valve s v)
  let ms := old ++ [{ valve := v, source := source, set := set, amount := n, before := base }]
  { setValve v (settledCount ms v base) t with mods := ms }

/-- A wait is evaluated: the modifications made so far are those of an earlier cycle (R286). -/
def endCycle (s : State) : State := { s with mods := [] }

/-- Steps 2 to 4 of R39: flag, valve, reply. `flag` is false where the flag is not written (R278, R313). -/
def complete (c : Cmd) (st : St) (d0 d1 : Nat) (flag : Bool) (s : State) : State :=
  let r := replyOf s c st d0 d1
  let t := checkPtrs c.queue s
  settleQueue c.queue (postReply r (dropCmd c (postValve c (if flag then writeFlag c st t else t))))

/-- Completes a packet that fails a check of admission: its reply alone (R39), with its credit returned. -/
def rejectCmd (c : Cmd) (v : Verdict) (s : State) : State :=
  settleQueue c.queue (postReply (replyOf s c v.1 v.2.1 v.2.2) (dropCmd c (checkPtrs c.queue s)))

/-- The status of a command whose own work has ended; COMMAND_COMPLETE posts it. -/
def finish (id : Nat) (v : Verdict) (s : State) : State :=
  modCmd id (fun c => { c with phase := .done, status := v.1, d0 := v.2.1, d1 := v.2.2, progress := c.progress + 1 }) s

/-- ST_OK without details. -/
def okVerdict : Verdict := (.ok, 0, 0)

end Sys2Proof.Machine
end

