-- ==== Sys2Proof/Machine/Access.lean ====
section
/-! DEFINITION. Which accesses the control aperture serves (R333, R350, R351, R368), and the wake they cause (13 Table 3). -/

namespace Sys2Proof.Machine

/-- Offsets of the UM_SUP_ registers (R402). -/
def isSup (o : Nat) : Bool := decide (0x2400 ≤ o ∧ o < 0x2420) || decide (0x2430 ≤ o ∧ o < 0x248C)
/-- Offsets of the UM_ERR_ registers (R401). -/
def isErr (o : Nat) : Bool := decide (0x2000 ≤ o ∧ o < 0x2014) || decide (0x2020 ≤ o ∧ o < 0x2040)
/-- Offsets of the UM_DUMP_ registers (R401). -/
def isDump (o : Nat) : Bool := decide (0x2080 ≤ o ∧ o < 0x20AC)
/-- Offsets of UM_ID and UM_BOOT_STAT (R393). -/
def isIdBoot (o : Nat) : Bool := decide (o < 8)
/-- Offsets of UM_CYCLE_COUNT (R393). -/
def isCycle (o : Nat) : Bool := decide (8 ≤ o ∧ o < 16)

/-- A running rung 4 fences the aperture until the restart has begun (R311, R351, R368). -/
def rung4Runs (s : State) : Bool := match s.rung with | some r => r.rung == 4 && !r.held && decide (r.step < 7) | none => false

/-- U3 holds the engine asleep (R333). -/
def asleep (s : State) : Bool := s.sup.pstate == 3

/-- Whether the aperture serves an offset in the present phase and power state. -/
def served (s : State) (o : Nat) : Bool :=
  !rung4Runs s
  && (if asleep s then isSup o || isErr o || isDump o || isCycle o
      else if phaseOf s == 0 then false
      else if phaseOf s == 7 then isIdBoot o || isSup o || isErr o
      else true)

/-- A request wakes the engine from U1 or U2 (13 Table 3). -/
def wakeUp (s : State) : State :=
  if s.sup.pstate == 1 || s.sup.pstate == 2 then
    wr Reg.SUP_PSTATE_STAT_STATE 0 0 { s with sup := { s.sup with pstate := 0, stopped := [], parked := [] } }
  else s

/-- A write to a register at offset `o` whose effect is `f`: it takes effect where the aperture serves it; in U3 an ignored
write is counted; during rung 4 it completes with NT_ERR. -/
def apWrite (o : Nat) (s : State) (f : State → State) : State :=
  if served s o then
    let t := wakeUp s
    f { t with bus := { t.bus with err := false } }
  else if rung4Runs s then { s with bus := { s.bus with err := true } }
  else if asleep s then bump Reg.SUP_PSTATE_STAT_ASLEEP_CNT 0 1 s
  else s

/-- A read at offset `o` whose data and effect are `f`: where the aperture does not serve it, it returns zero (R333, R350), or
completes with NT_ERR during rung 4 (R368). -/
def apReadWith (o : Nat) (s : State) (f : State → Nat × State) : State :=
  if served s o then
    let r := f (wakeUp s)
    { r.2 with bus := { r.2.bus with rdata := r.1, err := false } }
  else { s with bus := { s.bus with rdata := 0, err := rung4Runs s } }

/-- An ACTIVE queue becomes HELD while the sluice is not OPEN, when its command ring is a host address, or when it is a HOLD
queue with an admitted, unissued command that needs the host path (R270). -/
def settleHold (q : Nat) (s : State) : State :=
  let v := queue s q
  let waits := v.cfg.policy == 0 && s.cmds.any fun c => c.queue == q && c.phase == .admitted && needsHost s c
  if !(s.host.st == .opened) && v.st == .active && (!isChip v.base || waits) then setQueue q { v with st := .held } s else s

/-- Offset of a queue's control window (R403). -/
def qCtl (q : Nat) (k : Nat) : Nat := 0x8000 + 32 * q + k

end Sys2Proof.Machine
end

