-- ==== Sys2Proof/Machine/Queues.lean ====
section
/-! DEFINITION. The queue commands: doorbells, enable and disable, the reply ring's reset and consumer index (02). -/

namespace Sys2Proof.Machine

/-! ### Doorbells -/

/-- Slots a tail advances past the last accepted one (R29). -/
def tailAdvance (v : Queue) (t : Nat) : Nat := (t + v.depth - v.tail) % v.depth

/-- Whether a doorbell is an overrun (R29). -/
def dbOverrun (v : Queue) (t : Nat) : Bool := decide (t ≥ v.depth) || decide (v.w + tailAdvance v t > v.depth - 1)

/-- Whether a queue checks doorbells (R29). -/
def takesDoorbell (v : Queue) : Bool := v.st == .active || v.st == .held || v.st == .fenced

/-- The effect of a doorbell on a queue (R28, R29): an overrun puts the queue in OVERRUN, a FENCED one as well (log entry 10). -/
def ringDoorbell (q t : Nat) (s : State) : State :=
  let v := queue s q
  if !takesDoorbell v then s
  else if dbOverrun v t then
    logErr 0x0001 0 (some v.cfg.ctx) 0 (q + t % 2 ^ 16 * 2 ^ 16)
      (setQueue q { v with flags := { v.flags with dbOverrun := true }, st := .overrun } s)
  else setQueue q { v with tail := t, w := v.w + tailAdvance v t } s

/-- A write to UM_Q_DOORBELL: before READY it is ignored (R351). -/
def writeDoorbell (q t : Nat) (s : State) : State := if isReady s then ringDoorbell q t s else s

/-- DOORBELL (R28, R29). -/
def execDoorbell (q : QueueNo) (tail : BitVec 16) (s : State) : Host.Outcome State Fault Refusal :=
  done s (apWrite (qCtl q.toNat 0) s (writeDoorbell q.toNat tail.toNat))

/-- A write that clears DB_OVERRUN: a queue in OVERRUN returns to ACTIVE (R29). -/
def clearOverrun (q : Nat) (s : State) : State :=
  let v := queue s q
  settleHold q (setQueue q
    { v with flags := { v.flags with dbOverrun := false }, st := if v.st == .overrun then .active else v.st } s)

/-- DB_OVERRUN_CLEAR (R29). -/
def execDbOverrunClear (q : QueueNo) (s : State) : Host.Outcome State Fault Refusal :=
  done s (apWrite (qCtl q.toNat 0x10) s (clearOverrun q.toNat))

/-! ### Enable -/

/-- Whether UM_Q_CFG is out of range for a queue (R25, R26). -/
def cfgBad (q : Nat) (g : QCfg) : Bool :=
  decide (g.depthLog2 < 6) || decide (g.depthLog2 > 16) || decide (g.policy > 1) || decide (g.limit < 1)
  || decide (g.limit > 1024) || decide (g.limit > 2 ^ g.depthLog2) || (q == 0 && g.ctx != 0)

/-- Whether an enable is accepted (R26). -/
def enableOk (s : State) (q : Nat) : Bool :=
  let v := queue s q
  !cfgBad q v.cfg && (ctx s v.cfg.ctx).st == .opened && decide (v.cfg.limit ≤ poolFree s)

/-- Sets CFG_ERR of a queue. -/
def setCfgErr (q : Nat) (s : State) : State :=
  let v := queue s q
  setQueue q { v with flags := { v.flags with cfgErr := true } } s

/-- A write of 1 to ENABLE (R26, R351, R407). The free credits become CREDIT_LIMIT less the commands in flight, after the
comparison of R43. DESIGN CHOICE: a refused write of 1 in FENCED leaves a bit that is still 1 at 1, so it goes on reading 1 until
software clears it (log entry 68). -/
def enableQueue (q : Nat) (s : State) : State :=
  let v := queue s q
  match v.st with
  | .disabled =>
    if isReady s && enableOk s q then
      let n := v.cfg.limit - inFlight s q
      settleHold q
        (updPtrs q (fun p => { p with free := n })
          (setQueue q { v with st := .active, enable := true } { s with arb := { s.arb with used := true } }))
    else setCfgErr q s
  | .draining => setCfgErr q s
  | .fenced => setCfgErr q s
  | _ => if isReady s then s else setCfgErr q s

/-- ENABLE_SET (R407). -/
def execEnableSet (q : QueueNo) (s : State) : Host.Outcome State Fault Refusal :=
  done s (apWrite (qCtl q.toNat 0x14) s (enableQueue q.toNat))

/-- A write of 0 to ENABLE (R407). A packet whose fetch has begun counts with the admitted commands that the drain waits for
(R40). -/
def disableQueue (q : Nat) (s : State) : State :=
  let v := queue s q
  match v.st with
  | .disabled => s
  | .draining => s
  | .fenced => setQueue q { v with enable := false } s
  | _ => setQueue q { v with enable := false, st := if inFlight s q = 0 ∧ v.begun = 0 then .disabled else .draining } s

/-- ENABLE_CLEAR (R407). -/
def execEnableClear (q : QueueNo) (s : State) : Host.Outcome State Fault Refusal :=
  done s (apWrite (qCtl q.toNat 0x14) s (disableQueue q.toNat))

/-! ### The reply ring -/

/-- A queue after a reset of its rings (R44). -/
def Queue.ringReset (v : Queue) : Queue :=
  { v with p1 := { pi := 0, ci := 0, free := v.cfg.limit }, p2 := { pi := 0, ci := 0, free := v.cfg.limit },
           seq := 0, phase := true, fetch := 0, begun := 0, tail := 0, w := 0, unread := [], posted := 0, lastCi := 0, mirror := 0,
           ptrFault := 0 }

/-- A request to reset the rings: performed in DISABLED, else refused (R44). -/
def resetRings (q : Nat) (s : State) : State :=
  let v := queue s q
  if v.st == .disabled then setQueue q v.ringReset s
  else setQueue q { v with flags := { v.flags with resetRefused := true } } s

/-- Whether ENABLE reads 1 (R407). -/
def enableReads (v : Queue) : Bool :=
  match v.st with
  | .active => true
  | .held => true
  | .overrun => true
  | .fenced => v.enable
  | .disabled => false
  | .draining => false

/-- A write to UM_Q_CTRL with REPLY_RESET 1 (R44, R404): with ENABLE 1 the reset comes first, then the enable; one that
changes ENABLE from 1 to 0 performs neither. -/
def replyResetWrite (q : Nat) (en : Bool) (s : State) : State :=
  let v := queue s q
  if en then enableQueue q (resetRings q s)
  else if enableReads v then setQueue q { v with flags := { v.flags with resetRefused := true } } s
  else resetRings q s

/-- REPLY_RESET (R44, R404). -/
def execReplyReset (q : QueueNo) (enable : Bool) (s : State) : Host.Outcome State Fault Refusal :=
  done s (apWrite (qCtl q.toNat 0x14) s (replyResetWrite q.toNat enable))

/-- Whether a consumer index would move CI past PI or lies outside the ring (R42). -/
def ciUnderrun (v : Queue) (ci : Nat) : Bool :=
  decide (ci ≥ v.depth)
  || decide ((ci + v.depth - v.p1.ci) % v.depth > (v.p1.pi + v.depth - v.p1.ci) % v.depth)

/-- A write to UM_Q_REPLY_CI (R29, R42). -/
def writeCi (q ci : Nat) (s : State) : State :=
  let t := checkPtrs q s
  let v := queue t q
  if ciUnderrun v ci then
    setQueue q { v with flags := { v.flags with underrun := true }, underruns := satAdd 32 v.underruns 1 } t
  else
    let n := (ci + v.depth - v.p1.ci) % v.depth
    setQueue q { v with p1 := { v.p1 with ci := ci }, p2 := { v.p2 with ci := ci }, lastCi := ci,
                        w := v.w - sumOf (v.unread.take n), unread := v.unread.drop n } t

/-- REPLY_CI_WRITE (R42). -/
def execReplyCiWrite (q : QueueNo) (ci : BitVec 16) (s : State) : Host.Outcome State Fault Refusal :=
  done s (apWrite (qCtl q.toNat 4) s (writeCi q.toNat ci.toNat))

end Sys2Proof.Machine
end

