-- ==== Sys2Proof/Machine/TableOps.lean ====
section
/-! DEFINITION. Tables and versions by rule: states and codes, snapshots and access (R61, R70, R74 to R76), the stored row's
layout (R51, R52), identifiers (R56), shards and home slices (R58 to R60), delta slots (R67). -/

namespace Sys2Proof.Machine

/-- "No version" (R61). -/
def noVersion : Nat := 0xFFFFFFFF

/-- Code of a version state (03 Table 5). -/
def VState.code : VState → Nat
  | .loading => 1
  | .working => 2
  | .published => 3
  | .superseded => 4
  | .retiring => 5
  | .free => 6

/-- A table is defined while it has a version other than FREE (R65). -/
def Table.defined (t : Table) : Bool := !t.vers.isEmpty

/-- The version with a number. -/
def Table.version? (t : Table) (v : Nat) : Option Version := t.vers.find? fun x => x.num == v

/-- The first version in a state. -/
def Table.inState (t : Table) (st : VState) : Option Version := t.vers.find? fun x => x.st == st

/-- The PUBLISHED version. -/
def Table.published (t : Table) : Option Version := t.inState .published

/-- The WORKING version. -/
def Table.working (t : Table) : Option Version := t.inState .working

/-- The base version: the oldest other than FREE (R66). -/
def Table.baseNum (t : Table) : Nat := (t.vers.head?.map (·.num)).getD noVersion

/-- State code of a version: 0 never created, 6 once FREE. -/
def Table.stateCode (t : Table) (v : Nat) : Nat :=
  match t.version? v with
  | some x => x.st.code
  | none => if t.defined && decide (v < t.created) then 6 else 0

/-- Modifies a version. -/
def Table.modVersion (t : Table) (v : Nat) (f : Version → Version) : Table :=
  { t with vers := t.vers.map fun x => if x.num == v then f x else x }

/-- Whether a context owns the training line of a table: it is TRAIN_CTX and open with KIND 1 (R74). -/
def trains (s : State) (t c : Nat) : Bool :=
  (table s t).desc.trainEn && (table s t).desc.trainCtx == c && (table s t).defined && isTraining s c

/-- The version a read of a context snapshots at admission; none where Table 6 of 03 refuses it. -/
def snapVersion (s : State) (t c : Nat) : Option Nat :=
  let tb := table s t
  if trains s t c then tb.working.map (·.num)
  else if tb.desc.trainEn && !tb.desc.versioned then none
  else tb.published.map (·.num)

/-- Takes a snapshot: one more in flight on the version (R70). -/
def takeSnap (n : Snap) (s : State) : State :=
  setTable n.table ((table s n.table).modVersion n.version fun x => { x with inflight := x.inflight + 1 }) s

/-- Takes several. -/
def takeSnaps (ns : List Snap) (s : State) : State := ns.foldl (fun t n => takeSnap n t) s

/-! ### Stored rows -/

/-- Bits of an element of FORMAT (R48). -/
def formatBits (f : Nat) : Nat :=
  match f with
  | 0 => 32
  | 1 => 16
  | 2 => 16
  | 3 => 8
  | 4 => 8
  | 5 => 8
  | _ => 4

/-- Bits of an FP32 or BF16 element. -/
def wideBits (f : Nat) : Nat := if f = 0 then 32 else 16

/-- Data tiles. -/
def Desc.td (d : Desc) : Nat := ceilDiv (d.rowLen * formatBits d.format) 512
/-- Adapter tiles. -/
def Desc.ta (d : Desc) : Nat := if d.adapter then ceilDiv (d.rank * wideBits d.aFmt) 512 else 0
/-- Elements of the trained part: RANK of an adapter table, else ROW_LEN. -/
def Desc.trainLen (d : Desc) : Nat := if d.adapter then d.rank else d.rowLen
/-- Whether the optimiser keeps per-element state: momentum or Adam. -/
def Desc.hasState (d : Desc) : Bool := d.opt == 1 || d.opt == 3
/-- State tiles. -/
def Desc.ts (d : Desc) : Nat := if d.hasState then ceilDiv (d.trainLen * wideBits d.stateFmt) 512 else 0
/-- Metadata tiles. -/
def Desc.tm (d : Desc) : Nat := if d.format == 5 || d.format == 6 || d.opt == 2 || d.opt == 3 then 1 else 0
/-- Tiles without the check tiles. -/
def Desc.tiles (d : Desc) : Nat := d.td + d.ta + d.ts + d.tm
/-- Check tiles. -/
def Desc.tc (d : Desc) : Nat := ceilDiv (4 * d.tiles) 64
/-- Row stride in bytes (R51). -/
def Desc.stride (d : Desc) : Nat := 64 * (d.tiles + d.tc)
/-- Tiles of a whole stored row. -/
def Desc.allTiles (d : Desc) : Nat := d.tiles + d.tc
/-- Whether pooling uses a tile of a row: its data and adapter tiles, and the metadata tile of a row with a SCALE (R53, R55,
R125; log entry 67). -/
def Desc.pools (d : Desc) (t : Nat) : Bool :=
  decide (t < d.td + d.ta) || ((d.format == 5 || d.format == 6) && t == d.td + d.ta + d.ts)
/-- Whether a failure of the stored tile `k` fails the tile `t`: itself, or the check tile that holds its check word (R51). -/
def Desc.spoils (d : Desc) (k t : Nat) : Bool := k == t || (decide (d.tiles ≤ k) && t / 16 == k - d.tiles)

/-- Check word of a tile (R54). -/
def tileCheck (tile : List Byte) (row t : Nat) : Nat := crc32c (tile ++ toLE 8 (row % 2 ^ 40 + t % 2 ^ 10 * 2 ^ 40))

/-- Tile `t` of a stored row. -/
def tileOf (row : List Byte) (t : Nat) : List Byte := (row.drop (64 * t)).take 64

/-- The tiles of a stored row that fail their check (R55). -/
def badTiles (d : Desc) (row : Nat) (bs : List Byte) : List Nat :=
  (List.range d.tiles).filter fun t =>
    fromLE ((bs.drop (64 * d.tiles + 4 * t)).take 4) != tileCheck (tileOf bs t) row t

/-- Bytes padded with zeros to whole tiles. -/
def padTo (n : Nat) (bs : List Byte) : List Byte := bs.take n ++ List.replicate (n - bs.length) 0#8

/-- The check tiles of a row's other tiles (R51). -/
def checkTiles (d : Desc) (row : Nat) (bs : List Byte) : List Byte :=
  padTo (64 * d.tc) ((List.range d.tiles).flatMap fun t => toLE 4 (tileCheck (tileOf bs t) row t))

/-! ### Identifiers and shards -/

/-- What an identifier turns into. -/
inductive Xlat
  /-- dropped: 0 PAD, 1 INVALID, 2 MISSING -/
  | dropped (reason : Nat)
  /-- a row of this chip -/
  | here (row : Nat)
  /-- a row of another chip -/
  | remote (row chip : Nat)
  deriving DecidableEq, Repr

/-- The hashed translation (R56). -/
def hashRow (id seed rows : Nat) : Nat :=
  let h := id ^^^ seed
  let h := h ^^^ (h / 2 ^ 31)
  let h := (h * 0x8F3D6A1B52C9E477) % 2 ^ 64
  let h := h ^^^ (h / 2 ^ 27)
  let h := (h * 0xB4E109D73A6F2C5B) % 2 ^ 64
  let h := h ^^^ (h / 2 ^ 33)
  (h / 2 ^ 24 * rows) / 2 ^ 40

/-- Translation of an identifier to a logical row (R56): none of PAD, or the row; INVALID is a row not below ROWS. -/
def translate (d : Desc) (id : Nat) : Option Nat :=
  if id = 0xFFFFFFFFFFFFFFFF then none
  else if d.xlate = 0 then some id
  else if d.xlate = 1 then some (id % d.rows)
  else some (hashRow id d.seed d.rows)

/-- The shard of a row. -/
def Table.shard? (t : Table) (row : Nat) : Option Shard := t.shards[row / 2 ^ t.desc.shardLog2]?

/-- Identifier to row, with the cases of R57. -/
def lookupId (t : Table) (id : Nat) : Xlat :=
  match translate t.desc id with
  | none => .dropped 0
  | some r =>
    if r ≥ t.desc.rows then .dropped 1
    else match t.shard? r with
      | none => .dropped 2
      | some h => if h.tier = 0 then .dropped 2 else if h.tier = 5 then .remote r h.chip else .here r

/-- Home slice of a row: the XOR of its ten 4-bit groups (R60). -/
def homeOf (row : Nat) : Nat := (List.range 10).foldl (fun x n => x ^^^ (row / 16 ^ n % 16)) 0

/-- Home address of a local row (R59). -/
def Table.homeAddr (t : Table) (row : Nat) : Nat :=
  match t.shard? row with
  | none => 0
  | some h => h.base + (row % 2 ^ t.desc.shardLog2) * t.desc.stride

/-- Home place of a local row. -/
def Table.homePlace (t : Table) (row : Nat) : Place :=
  match t.shard? row with
  | none => ⟨0, 0, 0⟩
  | some h => ⟨h.tier, h.target, t.homeAddr row⟩

/-- Counts dropped identifiers of a table by reason (R57). -/
def countDrops (t : Nat) (reasons : List Nat) (s : State) : State :=
  let n := fun r => (reasons.filter (· == r)).length
  bump Reg.TBL_PAD_CNT_COUNT t (n 0) (bump Reg.TBL_INVALID_CNT_COUNT t (n 1) (bump Reg.TBL_MISSING_CNT_COUNT t (n 2) s))

/-! ### Delta slots (R67) -/

/-- Rows of the working version that hold a slot. -/
def Table.slotOf (t : Table) (v row : Nat) : Option Nat :=
  (t.delta.find? fun x => x.version == v && x.row == row).map (·.slot)

/-- Slots ZERO_ROWS reserved at admission on a table (R134). -/
def zeroReserved (s : State) (t : Nat) : Nat :=
  sumOf (s.cmds.map fun c =>
    if c.op == 5 && Pkt.table c.words == t && !(c.phase == .done) then
      match c.work with | .rows r => r.count | _ => 0
    else 0)

/-- Free and unreserved slots of the delta pool. -/
def freeSlots (s : State) (t : Nat) : Nat :=
  (table s t).desc.deltaRows - (table s t).delta.length - (table s t).resv.length - zeroReserved s t

/-- The lowest slots that neither hold a row nor are reserved. -/
def pickSlots (t : Table) (n : Nat) : List Nat :=
  (lowestFree (t.delta.map (·.slot) ++ t.resv.map (·.slot)) (min t.desc.deltaRows (n + t.delta.length + t.resv.length)) 0 []).take n

/-- Place of a delta slot: DELTA_POOL_ADDR + slot × stride in DELTA_TIER. -/
def Table.slotPlace (t : Table) (slot : Nat) : Place := ⟨t.desc.deltaTier, 0, t.desc.deltaPool + slot * t.desc.stride⟩

/-- Whether the table keeps its training line in a delta pool. -/
def Table.pooled (t : Table) : Bool := t.desc.trainEn && t.desc.versioned

/-! ### Checks 6 and 7 of R33 -/

/-- Refusal by existence or Table 6 of 03. -/
def refuse (t : Nat) : Verdict := (.noTable, t, noVersion)

/-- Check 6 for a table read by a gather, cascade, prefetch or pin. -/
def readCheck (s : State) (c t : Nat) : Option Verdict := if (snapVersion s t c).isNone then some (refuse t) else none

/-- Check 7 for a forward command (R18). -/
def stepCheckFwd (s : State) (c st t : Nat) : Option Verdict :=
  let k := (table s t).step
  if !trains s t c then none
  else if st ≤ k then some (.stepStale, k, t)
  else if st > k + 2 then some (.stepAhead, k, t)
  else none

/-- Check 7 for a SCATTER_GRAD or MERGE_APPLY (R34). A SCATTER_GRAD of a step whose merge has begun is stale (R212). -/
def stepCheckBack (s : State) (op st t : Nat) : Option Verdict :=
  let k := (table s t).step
  if st ≤ k then some (.stepStale, k, t)
  else if st > k + 1 then some (.stepAhead, k, t)
  else if op == 3 && (table s t).merging.isSome then some (.stepStale, k, t)
  else none

/-- Checks of FIRST_ROW and ROWS (R69). -/
def rowRangeCheck (s : State) (ws : List Word) : Option Verdict :=
  let d := (table s (Pkt.table ws)).desc
  let first := Pkt.addrC ws
  let n := wordAt ws 10
  if first = 0xFFFFFFFFFFFFFFFF then (if d.adapter then none else some (.badField, fieldPos 16 0 0, 0))
  else if first + n ≤ d.rows then none
  else if first ≥ d.rows then some (.badField, fieldPos 16 0 0, 0)
  else some (.badField, fieldPos 10 0 0, 0)

/-- The first of several checks that fails. -/
def firstOf (l : List (Option Verdict)) : Option Verdict := l.findSome? id

/-- Checks of a command on named tables, one table after the other: existence of all, then access, then the step. -/
def forwardChecks (s : State) (c st : Nat) (ts : List Nat) (mid : Option Verdict) : Option Verdict :=
  firstOf (ts.map (fun t => if (table s t).defined then none else some (refuse t)) ++ ts.map (readCheck s c) ++ [mid]
    ++ ts.map (stepCheckFwd s c st))

/-- Checks 6 and 7 of every opcode but CASCADE, and the checks the owning chapters make at admission (R65, R69, R74, R76,
R134, R174). -/
def checks67 (s : State) (ws : List Word) : Option Verdict :=
  let c := Pkt.ctx ws
  let t := Pkt.table ws
  let tb := table s t
  let exist := if tb.defined then none else some (refuse t)
  let named := if tb.stateCode (Pkt.w9 ws) = 0 then some (St.noTable, t, Pkt.w9 ws) else none
  let manage := if c == 0 || trains s t c then none else some (refuse t)
  let grad := if trains s t c && tb.working.isSome then none else some (refuse t)
  match Pkt.op ws with
  | 0x01 => forwardChecks s c (Pkt.step ws) [t] none
  | 0x03 => firstOf [exist, grad, stepCheckBack s 3 (Pkt.step ws) t]
  | 0x04 => firstOf [exist, grad, stepCheckBack s 4 (Pkt.step ws) t]
  | 0x05 => firstOf [exist, grad,
      if tb.pooled && decide (Pkt.count ws > freeSlots s t) then some (.badField, fieldPos 9 0 0, 0) else none]
  | 0x06 => firstOf [exist, readCheck s c t]
  | 0x07 => firstOf [exist, if Pkt.unpin ws then none else readCheck s c t]
  | 0x08 => firstOf [exist, manage]
  | 0x11 => exist
  | 0x12 => firstOf [named, manage]
  | 0x13 => firstOf [named, manage]
  | 0x14 => firstOf [named, manage, rowRangeCheck s ws]
  | 0x15 => firstOf [named, manage, rowRangeCheck s ws]
  | _ => none

/-! ### The forward command of a SCATTER_GRAD (R35, R202) -/

/-- INTERACT of a record's forward command. -/
def LehrRec.interacts (r : LehrRec) : Bool := r.cascade && bit (wordAt r.params 0) 8
/-- A record with nothing left to hold: every trained feature released and no interaction record. -/
def LehrRec.spent (r : LehrRec) : Bool := !r.inter && r.feats.all fun f => f.released || !f.trained

/-- Whether a record belongs to the forward command a SCATTER_GRAD names. -/
def named (c : Cmd) (r : LehrRec) : Bool := r.ctx == c.ctx && r.tag == Pkt.fwdTag c.words && r.step == Pkt.step c.words

/-- The record of the forward command a SCATTER_GRAD names, where exactly one is held. A CASCADE with INTERACT 1 whose records are all
released is still found, without them, where no other is held (R244, R247). -/
def fwdRecord (s : State) (c : Cmd) : Option LehrRec :=
  let l := s.lehr.filter (named c)
  match l.filter fun r => !r.spent with
  | [r] => some r
  | [] => l.getLast?
  | _ => none

/-- Whether an earlier SCATTER_GRAD in flight names the same forward feature (R202). -/
def namedTwice (s : State) (c : Cmd) : Bool :=
  s.cmds.any fun d => d.op == 3 && decide (d.id < c.id) && d.ctx == c.ctx && Pkt.fwdTag d.words == Pkt.fwdTag c.words
    && Pkt.step d.words == Pkt.step c.words && Pkt.feature d.words == Pkt.feature c.words

/-- Whether a SCATTER_GRAD takes inbound frames (R202, R247). -/
def takesFrames (c : Cmd) (r : LehrRec) : Bool := !Pkt.gradSel c.words && (Pkt.feature c.words == 63 || !r.interacts)

/-- FEATURE of the frames of a SCATTER_GRAD (R202, R242). DEDUCED: one that names FEATURE 63 of a command without an interaction names
frames that no feature of it has, and claims or drains none of theirs (log entry 52). -/
def frameFeature (c : Cmd) (r : LehrRec) : Nat := if Pkt.feature c.words = 63 ∧ r.interacts then 0 else Pkt.feature c.words

end Sys2Proof.Machine
end

