-- ==== Sys2Proof/Machine/Admit.lean ====
section
/-! DEFINITION. The admission of packets (R28 to R35, R70): their checks, snapshots and feature records, and the completion of a memory
read. -/

namespace Sys2Proof.Machine

/-! ### What a command keeps from its admission -/

/-- The snapshot of a forward feature. -/
def featOf (s : State) (c t pool : Nat) : Feat :=
  { table := t, version := (snapVersion s t c).getD 0, pool := pool, rowLen := (table s t).desc.rowLen, trained := trains s t c }

/-- The features of a forward command. -/
def featsOf (s : State) (c : Cmd) : List Feat :=
  if c.op = 1 then [featOf s c.ctx (Pkt.table c.words) (Pkt.pool c.words)]
  else c.feats.map fun r => featOf s c.ctx (field (wordAt r 0) 11 0) (field (wordAt r 0) 15 12)

/-- Snapshots of the tables beside its own that an interaction SCATTER_GRAD may gather again: the training line of those its context
trains, and the versions its CASCADE reads of the others, while they stand (R70, R245). -/
def againSnaps (s : State) (c : Cmd) : List Snap :=
  match fwdRecord s c with
  | none => []
  | some r => (dedup (r.feats.map (·.table))).filterMap fun t =>
      match r.feats.find? fun f => f.table == t with
      | none => none
      | some f =>
        if t = Pkt.table c.words then none
        else if f.trained then (snapVersion s t c.ctx).map fun v => ⟨t, v⟩
        else if ((table s t).version? f.version).isSome then some ⟨t, f.version⟩ else none

/-- Snapshots a command takes at admission (R68, R70). -/
def snapsOf (s : State) (c : Cmd) : List Snap :=
  match c.op with
  | 0x03 =>
    ((snapVersion s (Pkt.table c.words) c.ctx).toList.map fun v => ⟨Pkt.table c.words, v⟩)
      ++ (if Pkt.feature c.words = 63 then againSnaps s c else [])
  | 0x01 | 0x02 | 0x04 | 0x05 | 0x06 =>
    (tablesOf c).filterMap fun t => (snapVersion s t c.ctx).map fun v => ⟨t, v⟩
  | 0x07 =>
    if Pkt.unpin c.words then []
    else (tablesOf c).filterMap fun t => (snapVersion s t c.ctx).map fun v => ⟨t, v⟩
  | 0x15 =>
    let t := Pkt.table c.words
    let k := (table s t).stateCode (Pkt.w9 c.words)
    if 1 ≤ k ∧ k ≤ 4 then [⟨t, Pkt.w9 c.words⟩] else []
  | _ => []

/-- What an admitted command keeps while it runs. -/
def workOf (s : State) (c : Cmd) : Work :=
  let t := Pkt.table c.words
  match c.op with
  | 0x01 | 0x02 => .fwd { feats := featsOf s c }
  | 0x03 => .scatter { feature := Pkt.feature c.words, e := (table s t).gradExp }
  | 0x04 => .merge { table := t }
  | 0x05 => .rows { count := if (table s t).pooled then Pkt.count c.words else 0 }
  | 0x06 | 0x07 | 0x08 | 0x14 | 0x15 => .rows {}
  | 0x1A => .copy 0 none
  | _ => .none

/-- Whether a forward command keeps backward records: it comes from a training context, and trains a feature or interacts
(R101, R240). -/
def keepsRecords (c : Cmd) (fs : List Feat) : Bool :=
  c.training && (c.op == 1 || c.op == 2) && (fs.any (·.trained) || (c.op == 2 && Pkt.interact c.words))

/-- The backward records of a forward command as it is admitted. -/
def newRecord (s : State) (c : Cmd) : List LehrRec :=
  let fs := featsOf s c
  if keepsRecords c fs then
    [{ cmd := c.id, ctx := c.ctx, tag := Pkt.tag c.words, step := Pkt.step c.words, slot := Pkt.towerSlot c.words,
       params := (c.words.drop 8).take 8, cascade := c.op == 2, feats := fs, bags := [],
       inter := c.op == 2 && Pkt.interact c.words }]
  else []

/-- Admission past every check: snapshots, work and records; the command waits for the arbiter. -/
def admitted (c : Cmd) (s : State) : State :=
  let ns := snapsOf s c
  settleHold c.queue <| takeSnaps ns
    { modCmd c.id (fun d => { d with phase := .admitted, snaps := ns, work := workOf s c, feats := c.feats }) s with
      lehr := s.lehr ++ newRecord s c }

/-! ### CASCADE feature records (R35) -/

/-- The offending field of a feature record. -/
def recordFault (r : List Word) : Option Offence :=
  let w0 := wordAt r 0
  lowestOffence (reservedOffences [0xFFFF, 0xFFFFFFFF, 0xFFFFFFFF, 0xFFFFFFFF, 0xFFFFFFFF, 0xFFFFFFFF, 0xFFFFFFFF, 0xFFFFFFFF]
      0 r ++ offend (decide (field w0 15 12 > 3)) 0 12 ++ offend (field w0 15 12 != 2 && addr64 r 6 != 0) 6 0)

/-- The first faulty record: its verdict. -/
def recordCheck (rs : List (List Word)) : Option Verdict :=
  (rs.zipIdx.findSome? fun e => (recordFault e.1).map fun o => (St.badField, fieldPos o.1 o.2 10, e.2))

/-- Tables of two features that differ in ROW_LEN under INTERACT (R102). -/
def rowLenCheck (s : State) (c : Cmd) (ts : List Nat) : Option Verdict :=
  if Pkt.interact c.words then
    let n := (table s (ts.headD 0)).desc.rowLen
    ts.zipIdx.findSome? fun e =>
      if (table s e.1).desc.rowLen = n then none else some (St.badField, fieldPos 0 0 10, e.2)
  else none

/-- Finishes the admission of a CASCADE whose records were read. -/
def admitCascade (c : Cmd) (rs : List (List Word)) (s : State) : State :=
  let d := { c with feats := rs }
  let ts := rs.map fun r => field (wordAt r 0) 11 0
  match firstOf [recordCheck rs, forwardChecks s c.ctx (Pkt.step c.words) (dedup ts) (rowLenCheck s c ts)] with
  | some v => rejectCmd c v s
  | none => admitted d s

/-! ### PACKET_FETCH -/

/-- Slots a packet covers. -/
def slotsOf (ws : List Word) : Nat := if Pkt.ext ws then 2 else 1

/-- Slots that accepted doorbells cover and that are not fetched (R28). -/
def covered (v : Queue) : Nat := (v.tail + v.depth - v.fetch) % v.depth

/-- Whether a queue may begin the fetch of one more packet (R28): it is ACTIVE or FENCED, the doorbells cover a slot for each
packet begun, and its ring can be reached. -/
def mayBegin (s : State) (q : Nat) : Bool :=
  let v := queue s q
  (v.st == .active || v.st == .fenced) && decide (v.begun < covered v) && (isChip v.base || s.host.st == .opened)

/-- Whether the packet at the fetch index can arrive (R28, R29, R40): the doorbells cover it, no earlier packet of the queue waits
for its admission, and its fetch has begun or can begin now. -/
def fetchable (s : State) (q : Nat) (ws : List Word) : Bool :=
  let v := queue s q
  let shape := if Pkt.ext ws then ws.length == 32 else ws.length == 16
  shape && decide (slotsOf ws ≤ covered v) && (decide (0 < v.begun) || mayBegin s q)
    && !(s.cmds.any fun c => c.queue == q && c.phase == .reading)

/-- Begins the fetch of the next packet: whatever happens to the queue, it arrives (R40). -/
def beginFetch (q : Nat) (s : State) : State :=
  if mayBegin s q then setQueue q { queue s q with begun := (queue s q).begun + 1 } s else s

/-- A queue past a packet of `n` slots. A packet that takes two slots leaves no fetch begun beyond the slots still covered. -/
def Queue.passed (v : Queue) (n : Nat) : Queue :=
  { v with fetch := (v.fetch + n) % v.depth, begun := min (v.begun - 1) (covered v - n) }

/-- The reply of a packet that is not admitted (R30): it takes no credit. -/
def refuseReply (s : State) (q : Nat) (ws : List Word) (v : Verdict) : HeldReply :=
  { queue := q, ctx := (queue s q).cfg.ctx, slots := slotsOf ws, credit := false, tag := Pkt.tag ws, status := v.1.code,
    opcode := Pkt.op ws, d0 := v.2.1 % 2 ^ 32, d1 := v.2.2 % 2 ^ 32, digest := 0 }

/-- A new command of a queue, its credit taken. -/
def newCmd (s : State) (q : Nat) (ws : List Word) : Cmd :=
  let c := (queue s q).cfg.ctx
  { id := s.nextId, queue := q, ctx := c, gen := (ctx s c).gen, words := ws, training := isTraining s c, phase := .admitted }

/-- Whether a context may read the feature records a CASCADE names (R278). -/
def listAllowed (s : State) (k : Nat) (ws : List Word) : Bool :=
  windowAllows s k (Pkt.addrA ws) (32 * Pkt.features ws) false

/-- Takes a packet with a credit: checks 1 to 5, then 6 and 7, or the read of a CASCADE's records between them. Records
outside the context's windows are a translation fault on FEATURE_LIST_ADDR at admission (R35, R278). -/
def takePacket (q : Nat) (ws : List Word) (s : State) : State :=
  let c := newCmd s q ws
  let t := updPtrs q (fun p => { p with free := p.free - 1 }) { s with nextId := s.nextId + 1 }
  let u := { t with cmds := t.cmds ++ [c] }
  match checks15 s q ws with
  | some v => rejectCmd c v u
  | none =>
    if Pkt.op ws = 2 then
      if listAllowed s c.ctx ws then modCmd c.id (fun d => { d with phase := .reading }) u
      else rejectCmd c (.xlateFault, 0xFFFFFFFE, 11) u
    else match checks67 s ws with
      | some v => rejectCmd c v u
      | none => admitted c u

/-- A fetched packet (R30, R40). -/
def fetchPacket (q : Nat) (ws : List Word) (s : State) : State :=
  let v := queue s q
  let t := setQueue q (v.passed (slotsOf ws)) s
  if v.st == .fenced then settleQueue q (postReply (refuseReply s q ws (.ctxClosed, v.cfg.ctx, 0)) t)
  else if v.p1.free = 0 then settleQueue q (postReply (refuseReply s q ws (.queueFull, inFlight s q, 0)) t)
  else takePacket q ws t

/-- Whether a header arrives whose EXT bit asks for a slot that no doorbell covers (R29). -/
def lacksExtension (s : State) (q : Nat) (ws : List Word) : Bool :=
  Pkt.ext ws && ws.length == 16 && covered (queue s q) == 1 && decide (0 < (queue s q).begun)

/-- The fetch of a packet without its extension is given up: nothing is fetched until a doorbell covers it (R29). -/
def giveUpFetch (q : Nat) (s : State) : State :=
  settleQueue q (setQueue q { queue s q with begun := (queue s q).begun - 1 } s)

/-! ### Memory reads -/

/-- Whether a read completion holds the feature records of a CASCADE being admitted. -/
def completesRecords (c : Cmd) (addr : Nat) (data : List Byte) : Bool :=
  c.phase == .reading && addr == Pkt.addrA c.words && decide (data.length ≥ 32 * Pkt.features c.words)

/-- The feature records in their bytes. -/
def recordsOf (n : Nat) (bs : List Byte) : List (List Word) := (List.range n).map fun i => wordsOf 8 (bs.drop (32 * i))

/-- A response whose command has ended is counted (R291). -/
def lateResponse (c : Nat) (s : State) : State := bump Reg.CTX_LATE_CNT_COUNT c 1 s

/-- Whether a request of a context's generation is outstanding: a tag, or a fetch from a tier (R292). -/
def tagsOut (s : State) (c : Nat) : Bool :=
  let g := (ctx s c).gen
  ((ctx s c).tags.any fun e => e.1 == g) || s.fetches.any fun f => f.ctx == c && f.gen == g

/-- A context FREE after its quarantine: its valve range and its PASID are released (R283, R292). -/
def Ctx.freed (x : Ctx) : Ctx := { x with st := .free, valveBase := 0, valveCount := 0, pasid := none }

/-- The quarantine of a context ends when every tag of its last generation has retired (R292). -/
def settleQuarantine (c : Nat) (s : State) : State :=
  if (ctx s c).st == .quarantined && !tagsOut s c then setCtx c (ctx s c).freed s else s

/-- A tag of a context retires (R292). -/
def retireTag (c : Nat) (tag : Tag) (s : State) : State :=
  settleQuarantine c (setCtx c { ctx s c with tags := (ctx s c).tags.filter fun e => decide (e.2 ≠ tag) } s)

/-- MEMORY_READ_COMPLETION (R35, R291): the data reach memory as the command sees it; a completion of a command that has
ended is dropped and counted. -/
def execMemoryReadCompletion (ctx : CtxNo) (cmd : Nat) (addr : Dword) (data : List Byte) (s : State) :
    Host.Outcome State Fault Refusal :=
  done s (match cmd? s cmd with
    | none =>
      if cmd < s.nextId then hostReadDone cmd (retireTag ctx.toNat (.cmd cmd) (lateResponse ctx.toNat s)) else s
    | some c =>
      if c.ctx != ctx.toNat then s
      else
        let t := hostReadDone cmd (progress cmd (writeMem (spaceOf s c.ctx) addr.toNat data s))
        if completesRecords c addr.toNat data then
          admitCascade c (recordsOf (Pkt.features c.words) data) t
        else t)

end Sys2Proof.Machine
end

