-- ==== Sys2Proof/Machine/Crypto.lean ====
section
/-! DEFINITION. The firmware checks of 14_startup_reset_state.md R355: SHA-384 (FIPS 180-4) and ECDSA over P-384 (FIPS 186-5,
SEC 1). The manual names these standards and does not repeat them; their constants here are PRESUMED from them (log entry 8). -/

namespace Sys2Proof.Machine

namespace Sha384

/-- The largest number below 2^k whose power of exponent `e` is at most `x`, bit k - 1 first. -/
def rootFrom (e x : Nat) : Nat → Nat → Nat
  | 0, r => r
  | k + 1, r => rootFrom e x k (if (r + 2 ^ k) ^ e ≤ x then r + 2 ^ k else r)

/-- The first 64 bits of the fractional part of the root of exponent `e` of a prime below 2^9. -/
def rootFraction (e p : Nat) : Nat := rootFrom e (p * 2 ^ (64 * e)) 69 0 % 2 ^ 64

/-- The primes up to 409, of which there are 80. -/
def primes : List Nat :=
  (List.range 410).filter fun n => decide (2 ≤ n) && (List.range 19).all fun d => decide (d + 2 ≥ n ∨ n % (d + 2) ≠ 0)

/-- The round constants: from the cube roots of the first 80 primes (FIPS 180-4, 4.2.3). -/
def roundConstants : List Nat := primes.map (rootFraction 3)

/-- The initial hash value: from the square roots of the ninth to the sixteenth prime (FIPS 180-4, 5.3.4). -/
def iv : List Nat := ((primes.drop 8).take 8).map (rootFraction 2)

/-- Modulo 2^64. -/
def w64 (x : Nat) : Nat := x % 2 ^ 64
/-- Rotate right by n. -/
def rotr (x n : Nat) : Nat := (x >>> n) ||| w64 (x <<< (64 - n))

/-- The message schedule: the last 16 words, newest first, extended by one. -/
def nextW (ws : List Nat) : Nat :=
  let g (i : Nat) := ws.getD (i - 1) 0
  let s0 := rotr (g 15) 1 ^^^ rotr (g 15) 8 ^^^ ((g 15) >>> 7)
  let s1 := rotr (g 2) 19 ^^^ rotr (g 2) 61 ^^^ ((g 2) >>> 6)
  w64 (g 16 + s0 + g 7 + s1)

/-- Words 16 to 79, newest first. -/
def extend : Nat → List Nat → List Nat
  | 0, ws => ws
  | n + 1, ws => extend n (nextW ws :: ws)

/-- One round. -/
def round (st : List Nat) (kw : Nat) : List Nat :=
  match st with
  | [a, b, c, d, e, f, g, h] =>
    let t1 := h + (rotr e 14 ^^^ rotr e 18 ^^^ rotr e 41) + ((e &&& f) ^^^ ((e ^^^ (2 ^ 64 - 1)) &&& g)) + kw
    let t2 := (rotr a 28 ^^^ rotr a 34 ^^^ rotr a 39) + ((a &&& b) ^^^ (a &&& c) ^^^ (b &&& c))
    [w64 (t1 + t2), a, b, c, w64 (d + t1), e, f, g]
  | _ => st

/-- The big-endian value of bytes. -/
def fromBE (bs : List Byte) : Nat := bs.foldl (fun n b => n * 256 + b.toNat) 0

/-- `n` bytes of a value, most significant first. -/
def toBE (n v : Nat) : List Byte := (toLE n v).reverse

/-- The sixteen words of a block. -/
def blockWords : Nat → List Byte → List Nat
  | 0, _ => []
  | n + 1, bs => fromBE (bs.take 8) :: blockWords n (bs.drop 8)

/-- One block. -/
def block (st : List Nat) (bs : List Byte) : List Nat :=
  let ws := (extend 64 (blockWords 16 bs).reverse).reverse
  let out := (List.zipWith (fun k w => k + w) roundConstants ws).foldl round st
  List.zipWith (fun a b => w64 (a + b)) st out

/-- All blocks. -/
def blocks : Nat → List Nat → List Byte → List Nat
  | 0, st, _ => st
  | n + 1, st, bs => blocks n (block st (bs.take 128)) (bs.drop 128)

/-- SHA-384 of a byte string, 48 bytes. -/
def hash (msg : List Byte) : List Byte :=
  let l := msg.length
  let pad := (128 - (l + 17) % 128) % 128
  let m := msg ++ 0x80#8 :: List.replicate pad 0#8 ++ toBE 16 (8 * l)
  ((blocks (m.length / 128) iv m).take 6).flatMap (toBE 8)

end Sha384

namespace P384

/-- the field prime -/
def p : Nat := 2 ^ 384 - 2 ^ 128 - 2 ^ 96 + 2 ^ 32 - 1
/-- the group order -/
def n : Nat := 0xffffffffffffffffffffffffffffffffffffffffffffffffc7634d81f4372ddf581a0db248b0a77aecec196accc52973
/-- the curve coefficient b (a is −3) -/
def b : Nat := 0xb3312fa7e23ee7e4988e056be3f82d19181d9c6efe8141120314088f5013875ac656398d8a2ed19d2a85c8edd3ec2aef
/-- base point, x -/
def gx : Nat := 0xaa87ca22be8b05378eb1c71ef320ad746e1d3b628ba79b9859f741e082542a385502f25dbf55296c3a545e3872760ab7
/-- base point, y -/
def gy : Nat := 0x3617de4a96262c6f5d9e98bf9292dc29f8f41dbd289a147ce9da3113b5f0b8c00a60b1ce1d7e819d7a431d7c90ea0e5f

/-- A point in Jacobian coordinates; z = 0 is the point at infinity. -/
structure Pt where
  /-- X -/
  x : Nat
  /-- Y -/
  y : Nat
  /-- Z -/
  z : Nat
  deriving DecidableEq, Repr

/-- a − b modulo p -/
def subp (u v : Nat) : Nat := (u + p - v % p) % p

/-- The double of a point. -/
def dbl (q : Pt) : Pt :=
  let zz := q.z * q.z % p
  let m := 3 * (subp q.x zz) * (q.x + zz) % p
  let yy := q.y * q.y % p
  let s := 4 * q.x * yy % p
  let x := subp (m * m % p) (2 * s)
  ⟨x, subp (m * subp s x % p) (8 * yy * yy % p), 2 * q.y * q.z % p⟩

/-- The sum of two points. -/
def add (q r : Pt) : Pt :=
  if q.z = 0 then r else if r.z = 0 then q
  else
    let z1 := q.z * q.z % p
    let z2 := r.z * r.z % p
    let u1 := q.x * z2 % p
    let u2 := r.x * z1 % p
    let s1 := q.y * z2 * r.z % p
    let s2 := r.y * z1 * q.z % p
    let h := subp u2 u1
    let w := subp s2 s1
    if h = 0 then (if w = 0 then dbl q else ⟨1, 1, 0⟩)
    else
      let hh := h * h % p
      let hhh := h * hh % p
      let v := u1 * hh % p
      let x := subp (w * w % p) (hhh + 2 * v)
      ⟨x, subp (w * subp v x % p) (s1 * hhh % p), h * q.z * r.z % p⟩

/-- k × q, from bit `i - 1` of k down. -/
def mulFrom (k : Nat) (q : Pt) : Nat → Pt → Pt
  | 0, acc => acc
  | i + 1, acc =>
    let d := dbl acc
    mulFrom k q i (if k.testBit i then add d q else d)

/-- k × q -/
def mul (k : Nat) (q : Pt) : Pt := mulFrom k q 384 ⟨1, 1, 0⟩

/-- x^k modulo m, from bit `i - 1` of k down. -/
def powFrom (x k m : Nat) : Nat → Nat → Nat
  | 0, acc => acc
  | i + 1, acc =>
    let d := acc * acc % m
    powFrom x k m i (if k.testBit i then d * x % m else d)

/-- The inverse modulo a prime m. -/
def inv (x m : Nat) : Nat := powFrom x (m - 2) m 384 1

/-- The affine x of a point. -/
def affineX (q : Pt) : Nat :=
  let zi := inv q.z p
  q.x * (zi * zi % p) % p

/-- The signature (r, s) verifies over the hash under the public point (x, y): FIPS 186-5, 6.4.2. -/
def verify (hash : Nat) (r s x y : Nat) : Bool :=
  let onCurve := x < p ∧ y < p ∧ y * y % p = (x * x % p * x + b + 3 * (p - x)) % p
  if onCurve ∧ 0 < r ∧ r < n ∧ 0 < s ∧ s < n then
    let w := inv s n
    let u1 := hash * w % n
    let u2 := r * w % n
    let q := add (mul u1 ⟨gx, gy, 1⟩) (mul u2 ⟨x, y, 1⟩)
    if q.z = 0 then false else affineX q % n = r
  else false

end P384

end Sys2Proof.Machine
end

