-- ==== Sys2Proof/Machine/Messages.lean ====
section
/-! DEFINITION. Messages between chips: their fields, the rim port a peer is reached on, and the answer to a lookup that fails (R193 to
R196). -/

namespace Sys2Proof.Machine

/-! ### Fields -/

/-- Word `i` of a message. -/
def msgWord (m : List Byte) (i : Nat) : Nat := fromLE ((m.drop (4 * i)).take 4)

/-- KIND of a message. -/
def msgKind (m : List Byte) : Nat := fromLE (m.take 1)

/-- Whether a message has a header of a kind. -/
def isMsg (k : Nat) (m : List Byte) : Bool := decide (m.length ≥ 32) && msgKind m == k

/-- SRC_CHIP of a message. -/
def msgChip (m : List Byte) : Nat := field (msgWord m 1) 11 0
/-- CTX of a request. -/
def msgCtx (m : List Byte) : Nat := field (msgWord m 1) 19 12
/-- GEN of a request. -/
def msgGen (m : List Byte) : Nat := field (msgWord m 1) 31 20
/-- REQ_ID of a message. -/
def msgReq (m : List Byte) : Nat := msgWord m 2
/-- TABLE of a request. -/
def msgTable (m : List Byte) : Nat := field (msgWord m 3) 11 0
/-- ENTRIES of a request. -/
def msgEntries (m : List Byte) : Nat := field (msgWord m 3) 31 12

/-! ### Ports (R193) -/

/-- The rim port for a peer (R193): (p XOR q) AND 3 when up, else the next higher that is up, counting modulo 4. -/
def rimPort (s : State) (p : Nat) : Option Nat :=
  let k := (p ^^^ rd Reg.CHIP_ID_CHIP 0 s) % 4
  ([k, k + 1, k + 2, k + 3].map (· % 4)).find? fun x => rdb Reg.RIM_PORT_STAT_UP x s

/-- Sends a message to a peer on its port, where one is up. -/
def sendPeer (p : Nat) (bs : List Byte) (s : State) : State :=
  match rimPort s p with
  | some k => send (.message p k bs) s
  | none => s

/-! ### Lookups that fail (R195, R196) -/

/-- The header of a PARTIAL_RSP (07 Table 7). -/
def rspHeader (s : State) (st last req n row : Nat) : List Byte :=
  toLE 4 (2 + st * 2 ^ 8 + last * 2 ^ 16) ++ toLE 4 (rd Reg.CHIP_ID_CHIP 0 s) ++ toLE 4 req ++ toLE 4 n
    ++ toLE 4 (row % 2 ^ 32) ++ toLE 4 (row / 2 ^ 32 % 256) ++ toLE 8 0

/-- Answers a lookup that fails. -/
def rspFail (m : List Byte) (st row : Nat) (s : State) : State := sendPeer (msgChip m) (rspHeader s st 1 (msgReq m) 0 row) s

/-- Adds to the in-flight count of a version. -/
def addInflight (t v : Nat) (n : Int) (s : State) : State :=
  setTable t ((table s t).modVersion v fun x => { x with inflight := ((x.inflight : Int) + n).toNat }) s

/-- Numbers by which fetches name the lookups they serve: above every admission number. -/
def lookupBase : Nat := 2 ^ 67

/-- A lookup being served, by number. -/
def served? (s : State) (id : Nat) : Option Served := s.remote.served.find? fun w => w.id == id

/-- A lookup leaves the serve queue: it counts no more on its version, and no fetch waits for it. -/
def endServed (w : Served) (s : State) : State :=
  let t := { s with
    remote := { s.remote with served := s.remote.served.filter fun x => x.id != w.id }
    fetches := s.fetches.map fun f => { f with waiters := f.waiters.filter (· != w.id) } }
  if w.held then addInflight w.table w.version (-1) t else t

/-- Answers a lookup whose rows cannot be had: its STATUS, and its row under CORRUPT. -/
def failServed (st row id : Nat) (s : State) : State :=
  match served? s id with
  | none => s
  | some w => rspFail w.msg st row (endServed w s)

end Sys2Proof.Machine
end

