-- ==== Sys2Proof/Machine/Cleanup.lean ====
section
/-! DEFINITION. What the end of a command frees or leaves behind, by its opcode and status (R101, R106, R202, R208, R211, R223,
R227, R291), and the end of a command outside its own row. -/

namespace Sys2Proof.Machine

/-- Bytes of a command known delivered (R268). -/
def knownBytes (c : Cmd) : Nat := c.use.hostKnown + c.use.chipDone

/-- ST_HOST_PATH_LOST with the bytes known delivered, low word first. -/
def lostVerdict (c : Cmd) : Verdict := (.hostPathLost, knownBytes c % 2 ^ 32, knownBytes c / 2 ^ 32)

/-- Applies `f` to every physical slice that holds anything. -/
def mapSlices (f : Slice → Slice) (s : State) : State := { s with slices := Sparse.mapVals {} (fun _ v => f v) s.slices }

/-- A fetch has returned, or will not: pool slots that waited for it are freed (R180). -/
def retireOld (fetch : Nat) (s : State) : State :=
  { s with place := { s.place with
    old := (s.place.old.map fun o => { o with fetches := o.fetches.filter (· != fetch) }).filter fun o => !o.fetches.isEmpty } }

/-- The way that a fetch was to fill is free again. -/
def freeFill (f : Fetch) (s : State) : State :=
  match f.dest with
  | .way c k w =>
    let v := slice s f.slice
    let b := Sparse.get {} v.sets (c * 2 ^ 24 + k)
    let free := fun (x : Way) => if x.st == .filling && x.owner == f.id then ({ freq := 0 } : Way) else x
    setSlice f.slice { v with sets := Sparse.set {} v.sets (c * 2 ^ 24 + k) { b with ways := modAt b.ways w free } } s
  | _ => s

/-- A fetch that will not be answered: it goes, and the way it was to fill is free again. -/
def dropFetch (f : Fetch) (s : State) : State :=
  freeFill f (retireOld f.id { s with fetches := s.fetches.filter fun g => g.id != f.id })

/-! ### Tower frames -/

/-- Payload padded with zeros to a multiple of 64 bytes (R104). -/
def pad64 (bs : List Byte) : List Byte := bs ++ List.replicate ((64 - bs.length % 64) % 64) 0#8

/-- A tower frame (R104, 04 Table 3). -/
def frameBytes (slot kind fmt feature index len tag status : Nat) (payload : List Byte) : List Byte :=
  toLE 2 slot ++ toLE 1 (kind + fmt * 16) ++ toLE 1 feature ++ toLE 4 index ++ toLE 4 len ++ toLE 2 tag ++ toLE 1 status
  ++ toLE 1 0 ++ pad64 payload

/-- Channel of the END frame of a command (R371). -/
def endChannel (c : Cmd) : Nat := Pkt.towerSlot c.words % 16

/-- The END frame of a command (R104). -/
def endFrame (c : Cmd) (st : St) : List Byte :=
  frameBytes (Pkt.towerSlot c.words) 2 (Pkt.outFmt c.words) 0 0 0 (Pkt.tag c.words) st.code []

/-- The END frame leaves, or waits while its channel's acceptance is withheld (R105). -/
def sendEnd (c : Cmd) (st : St) (s : State) : State :=
  if endChannel c ∈ s.tower.held then
    { s with tower := { s.tower with ends := s.tower.ends ++ [(endChannel c, endFrame c st)] } }
  else send (.frame (endChannel c) (endFrame c st)) s

/-- Whether a forward command sends its result to the tower port (R105). -/
def usesTower (c : Cmd) : Bool := c.op == 2 || (c.op == 1 && Pkt.outSel c.words == 0)

/-! ### Gradient pushes -/

/-- Header of a GRAD_PUSH (08 Table 3). -/
def pushHeader (s : State) (phase fmt c req t entries step exp seq : Nat) : List Byte :=
  toLE 4 (3 + phase * 2 ^ 8 + fmt * 2 ^ 10)
  ++ toLE 4 (rd Reg.CHIP_ID_CHIP 0 s + c * 2 ^ 12 + (ctx s c).gen % 2 ^ 12 * 2 ^ 20)
  ++ toLE 4 req ++ toLE 4 (t + entries * 2 ^ 12) ++ toLE 4 step ++ toLE 4 exp ++ toLE 4 seq ++ toLE 4 0

/-- A DISCARD or COMMIT for each push of a SCATTER_GRAD. -/
def sendPhase (phase : Nat) (c : Cmd) (ps : List Push) (s : State) : State :=
  ps.foldl (fun t p =>
    send (.message p.chip p.port (pushHeader s phase 0 c.ctx p.req (Pkt.table c.words) 0 (Pkt.step c.words) 0 0xFFFFFFFF)) t) s

/-! ### Release of records -/

/-- A sample without its dense and z records (R244). -/
def BagRec.dropInter (b : BagRec) : BagRec := { b with dense := [], z := [] }

/-- The record with a feature's records released (R227). -/
def LehrRec.release (r : LehrRec) (f : Nat) : LehrRec :=
  { r with
    bags := if f = 63 then r.bags.map BagRec.dropInter else r.bags
    feats := r.feats.zipIdx.map fun e => if e.2 = f then { e.1 with released := true } else e.1
    inter := r.inter && f != 63
    held := r.held.filter fun h => h.1 != f && h.1 != 64 + f
    spill := r.spill.filter fun h => h.feature != f && h.feature != 64 + f }

/-- The record without the space of g records, which are numbered from 64 on. -/
def LehrRec.dropG (r : LehrRec) : LehrRec :=
  { r with
    held := r.held.filter fun h => decide (h.1 < 64)
    spill := r.spill.filter fun h => decide (h.feature < 64) }

/-- Releases the records a SCATTER_GRAD named. -/
def releaseFeature (fwd f : Nat) (l : List LehrRec) : List LehrRec :=
  (l.map fun r => if r.cmd == fwd then r.release f else r).filter fun r => !(r.cmd == fwd && r.complete && r.spent && !r.interacts)

/-- Whether a commit of table `t` releases a feature: it is trained, on that table, and not released (R227). -/
def Feat.dueOn (t : Nat) (f : Feat) : Bool := f.trained && !f.released && f.table == t

/-- Features of a record that commits of the tables release. -/
def LehrRec.due (r : LehrRec) (ts : List Nat) : List Nat :=
  (r.feats.zipIdx.filter fun e => ts.any fun t => e.1.dueOn t).map (·.2)

/-- The record without the features that commits of the tables release; with no trained feature left, its interaction records
go as well (R227). -/
def LehrRec.pass (r : LehrRec) (ts : List Nat) : LehrRec :=
  let x := (r.due ts).foldl LehrRec.release r
  if (r.due ts).isEmpty || x.feats.any fun f => f.trained && !f.released then x else x.release 63

/-- The forward command has completed with ST_OK: its records stand, or are released and counted where a commit has passed
them (R227). -/
def completeRecord (id : Nat) (s : State) : State :=
  let late := sumOf ((s.lehr.filter fun r => r.cmd == id).map fun r => (r.due r.stale).length)
  let kept := fun (r : LehrRec) => !(r.cmd == id && r.spent)
  let passed := s.lehr.map fun r => if r.cmd == id then { r.pass r.stale with complete := true } else r
  let t := { s with lehr := passed.filter kept }
  if late = 0 then t else bump Reg.LEHR_UNUSED_CNT_COUNT 0 late t

/-! ### By opcode -/

/-- Bytes of the OUT_ADDR region of a GATHER_POOL. -/
def outLen (f : Fwd) (c : Cmd) : Nat :=
  Pkt.bags c.words * ((f.feats.head?.map (·.rowLen)).getD 0) * Pkt.outBytes (Pkt.gOutFmt c.words)

/-- The content of the OUT_ADDR region of a GATHER_POOL that fails is undefined, as far as it lies in the windows (R106). -/
def spoilOut (c : Cmd) (f : Fwd) (s : State) : State :=
  let n := ((f.feats.head?.map (·.rowLen)).getD 0) * Pkt.outBytes (Pkt.gOutFmt c.words)
  if c.op == 1 && Pkt.outSel c.words == 1 then
    (List.range (Pkt.bags c.words)).foldl (fun t b =>
      if windowAllows t c.ctx (Pkt.outAddr c.words + b * n) n true then
        writeFree (spaceOf t c.ctx) (Pkt.outAddr c.words + b * n) n t
      else t) s
  else s

/-- A command waits for no fetch, no request and no room any more. -/
def dropWaits (id : Nat) (s : State) : State :=
  { s with
    fetches := s.fetches.map fun x => { x with waiters := x.waiters.filter (· != id) }
    partials := s.partials.filter fun p => p.cmd != id
    remote := { s.remote with lookups := s.remote.lookups.filter fun l => l.cmd != id
                              migs := s.remote.migs.filter fun m => m.cmd != id }
    waits := s.waits.filter fun w => w.1 != id
    slices := Sparse.mapVals {} (fun _ v => { v with side := v.side.filter fun e => e.cmd != id }) s.slices }

/-- A forward command ends: its waits and partials go, its records stand or are discarded, its END frame leaves
(none for a command that ends at a completion flag outside its windows and so has no other effect, R278). -/
def endFwd (c : Cmd) (f : Fwd) (st : St) (s : State) : State :=
  let u := if st == .ok then completeRecord c.id s else spoilOut c f { s with lehr := s.lehr.filter fun r => r.cmd != c.id }
  if usesTower c && !f.endSent && !c.noFlag then sendEnd c st u else u

/-- The forward command of a SCATTER_GRAD as far as its frames name it: its admission number, TOWER_SLOT and FEATURE. A command that ends before it
was tied to one drains its frames too, unless another in flight takes them. -/
def drainKey (s : State) (c : Cmd) (g : Scatter) : Option (Nat × Nat × Nat) :=
  match g.fwd with
  | some w => if g.frames then some (w, g.slot, if g.feature = 63 then 0 else g.feature) else none
  | none =>
    match fwdRecord s c with
    | some r => if takesFrames c r && !namedTwice s c then some (r.cmd, r.slot, frameFeature c r) else none
    | none => none

/-- Frames a SCATTER_GRAD has not taken, to be discarded (R202). -/
def drainOf (s : State) (c : Cmd) (g : Scatter) : List Drain :=
  match drainKey s c g with
  | none => []
  | some k =>
    let left := (List.range (Pkt.bags c.words)).filter fun i => !(g.taken.any fun e => e.1 == i)
    if left.isEmpty then []
    else [{ slot := k.2.1, tag := Pkt.fwdTag c.words, feature := k.2.2, fwd := k.1, left := left }]

/-- Adds a SCATTER_GRAD's maximum to its table's step (R219). -/
def addAmax (t : Nat) (g : Scatter) (s : State) : State :=
  let tb := table s t
  bump Reg.TBL_GRAD_NONFINITE_CNT_COUNT t g.nonfinite
    (setTable t { tb with amax := if g.amax.toNat > tb.amax.toNat then g.amax else tb.amax, amaxAny := true } s)

/-- A sample whose y records were replaced is marked RECOMPUTE (R246). -/
def BagRec.redo (b : BagRec) : BagRec := if b.g.isEmpty then b else { b with g := [], recompute := true }

/-- Samples of a record whose y records were replaced. -/
def LehrRec.replaced (r : LehrRec) : Nat := (r.bags.filter fun b => !b.g.isEmpty && !b.recompute).length

/-- What an interaction SCATTER_GRAD that fails leaves (R246): the content of its GRAD_ADDR region is undefined, and the
samples whose y records were replaced are marked RECOMPUTE. -/
def spoilInter (c : Cmd) (g : Scatter) (s : State) : State :=
  let n := g.bags * (table s (Pkt.table c.words)).desc.rowLen * 4
  let w := g.fwd.getD 0
  let t := if windowAllows s c.ctx (Pkt.addrA c.words) n true then
    writeFree (spaceOf s c.ctx) (Pkt.addrA c.words) n s else s
  if g.written then
    bump Reg.LEHR_RECOMPUTE_CNT_COUNT 0 (sumOf ((t.lehr.filter fun r => r.cmd == w).map LehrRec.replaced))
      { t with lehr := t.lehr.map fun r => if r.cmd == w then { r with bags := r.bags.map BagRec.redo, inter := true } else r }
  else { t with lehr := t.lehr.map fun r => if r.cmd == w then r.dropG else r }

/-- A SCATTER_GRAD ends: with ST_OK its slots belong to the step and its feature's records are released; otherwise its
slots, reservations and pushes are freed (R208, R211, R219, R227). -/
def endScatter (c : Cmd) (g : Scatter) (st : St) (s : State) : State :=
  let d := { s with drains := s.drains ++ drainOf s c g }
  if st == .ok then
    let own := fun x : Slot => if x.owner = SlotOwner.chip c.id then { x with prov := false } else x
    let t := mapSlices (fun v => { v with slots := v.slots.map own }) d
    addAmax (Pkt.table c.words) g
      (match g.fwd with | none => t | some w => { t with lehr := releaseFeature w g.feature t.lehr })
  else
    let e := if g.feature = 63 ∧ g.started then spoilInter c g d else d
    let t := mapSlices (fun v => { v with slots := v.slots.filter fun x => decide (x.owner ≠ SlotOwner.chip c.id) }) e
    let tb := table t (Pkt.table c.words)
    let rs := (tb.resv.map fun r => { r with holders := r.holders.filter (· != c.id) }).filter fun r => !r.holders.isEmpty
    sendPhase 2 c g.pushes (setTable (Pkt.table c.words) { tb with resv := rs } t)

/-- PENDING copies of a command become INVALID (R132). -/
def dropPending (id : Nat) (s : State) : State :=
  mapSlices (fun v =>
    { v with
      sets := Sparse.mapVals {} (fun _ b => { b with ways := b.ways.map fun w =>
        if w.st == .pending && w.owner == id then {} else w }) v.sets
      punty := v.punty.map fun p => { p with pend := p.pend.filter fun e => e.1 != id } }) s

/-- A MERGE_APPLY ends without its commit: PENDING copies go, slots and counter stand (R223). -/
def endMerge (c : Cmd) (s : State) : State :=
  let t := dropPending c.id s
  let n := Pkt.table c.words
  let tb := table t n
  setTable n (if tb.merging = some c.id then { tb with merging := none } else tb) t

/-- The entry of a row whose present move is over, by its swap or without one: the next of its moves waits to start, but for those to
where the row is; with none left it is PLACED, and of a row at home nothing is left (R174, R179, R182). -/
def PEntry.goNext (e : PEntry) : Option PEntry :=
  let ended := { e with moving := false, waiting := false, copied := false, retried := false, read := none, cmds := [], next := [] }
  match e.next.dropWhile fun m => m.2.tier == e.curTier with
  | m :: rest =>
    some { ended with moving := true, waiting := true, src := false, newTier := m.2.tier, new := m.2, next := rest, cmds := [m.1] }
  | [] => if e.curTier = 0 then none else some ended

/-- The entry without a command: a move that only this command asked for and that has not started is released (R182). -/
def PEntry.release (id : Nat) (e : PEntry) : Option PEntry :=
  let x := { e with cmds := e.cmds.filter (· != id), next := e.next.filter fun m => m.1 != id }
  if e.waiting && e.cmds.contains id && x.cmds.isEmpty then x.goNext else some x

/-- Releases what a command has reserved for moves that have not started. -/
def releaseMoves (id : Nat) (s : State) : State :=
  { s with place := { s.place with entries := s.place.entries.filterMap (PEntry.release id) } }

/-- A ZERO_ROWS, PREFETCH, PIN_ROWS or ROW_MIGRATE ends. -/
def endRows (c : Cmd) (s : State) : State :=
  let n := Pkt.table c.words
  let tb := table s n
  releaseMoves c.id (dropPending c.id (setTable n { tb with zero := tb.zero.filter fun z => z.cmd != c.id } s))

/-- A descriptor whose generation has ended: IDLE, and its pending arm waits for promotion (R260). -/
def SDesc.stopped (d : SDesc) : SDesc :=
  { d with st := .idle, cmd := none, cancel := [], ended := false, waitOk := false, promote := d.pend.isSome,
           srcs := [], dsts := [] }

/-- A generation ends with its STREAM_ARM, and the STREAM_CANCELs that stopped it are done (R260, R261). -/
def endStream (c : Cmd) (s : State) : State :=
  let k := Pkt.table c.words
  let d := desc s k
  if d.cmd = some c.id then
    d.cancel.foldl (fun t i => finish i okVerdict t) (setDesc k d.stopped s)
  else if d.pend.map (·.1) = some c.id then setDesc k { d with pend := none, promote := false } s
  else s

/-- What the end of a command frees or leaves behind. -/
def cleanup (c : Cmd) (st : St) (s0 : State) : State :=
  let s := dropWaits c.id s0
  match c.work with
  | .fwd f => endFwd c f st s
  | .scatter g => endScatter c g st s
  | .merge _ => endMerge c s
  | .rows _ => endRows c s
  | .copy _ _ => s
  | .none => if c.op = 0x18 then endStream c s else s

/-- A page request outstanding as its command ends leaves its tag behind (R291, R292). -/
def leaveTag (c : Cmd) (s : State) : State :=
  if c.use.fault.any (·.sent) then
    setCtx c.ctx { ctx s c.ctx with tags := (c.gen, .cmd c.id) :: (ctx s c.ctx).tags } s
  else s

/-- A command ended from outside its row while writes of it are not flushed: it keeps its status, and its flag, valve and reply
wait for the flushes (R39). -/
def keepEnded (c : Cmd) (v : Verdict) (s : State) : State :=
  beginFlush c (modCmd c.id (fun d =>
    { d with phase := .done, status := v.1, d0 := v.2.1, d1 := v.2.2, core := none, noFlag := c.noFlag, ended := true,
             work := .none, use := { d.use with fault := none } }) s)

/-- Whether a command's completion flag lies outside the windows that allow writes (R278). -/
def flagOutside (s : State) (c : Cmd) : Bool :=
  Pkt.cflagEn c.words && !windowAllows s c.ctx (Pkt.cflagAddr c.words) 8 true

/-- What a command ends with when something ends it: a command whose own work has failed, or that has ended already, keeps its first
status; but one that ended well and loses the host path before its reply has lost it (R107, R269). -/
def lastVerdict (c : Cmd) (v : Verdict) : Verdict :=
  if c.phase == .done && (c.status != .ok || c.ended && v.1 != .hostPathLost) then (c.status, c.d0, c.d1) else v

/-- Ends a command: what it frees, then its flushes, its flag, its valve and its reply (R39); no flush outlasts the loss of the host
path. -/
def endCommand (c : Cmd) (v : Verdict) (s : State) : State :=
  if mayPost s c || v.1 == .hostPathLost then
    let w := lastVerdict c v
    complete c w.1 w.2.1 w.2.2 (!c.noFlag && !flagOutside s c) (cleanup c w.1 (leaveTag c s))
  else if c.ended then s
  else keepEnded c (lastVerdict c v) (cleanup c (lastVerdict c v).1 (leaveTag c s))

/-- Ends every command `p` names, oldest first. -/
def endCommands (p : Cmd → Bool) (v : Cmd → Verdict) (s : State) : State :=
  (s.cmds.filter p).foldl (fun t c => match cmd? t c.id with | none => t | some d => endCommand d (v d) t) s

end Sys2Proof.Machine
end

