-- ==== Sys2Proof/Machine/Float.lean ====
section
/-! DEFINITION. The number formats of the engine and its exact arithmetic (03_tables_versions.md R53, 04_gather_pool.md R88 to
R99, 08_backward_update.md R213 to R216, 09_interaction_lanes.md R232). Every operation is taken exactly on `Num` and rounded
once, to nearest with ties to even. -/

namespace Sys2Proof.Machine

/-- A value of a binary floating-point format: NaN with its sign, an infinity, or (-1)^neg × m × 2^e exactly. -/
inductive Num
  /-- a NaN with the sign of its source (R53) -/
  | nan (neg : Bool)
  /-- an infinity -/
  | inf (neg : Bool)
  /-- (-1)^neg × m × 2^e; a zero keeps its sign -/
  | fin (neg : Bool) (m : Nat) (e : Int)
  deriving DecidableEq, Repr

namespace Num

/-- +0. -/
def zero : Num := .fin false 0 0
/-- 1. -/
def one : Num := .fin false 1 0

/-- The integer whose product with 2^e0 is the signed value, for e0 at most the exponent. -/
def signed (neg : Bool) (m : Nat) (e e0 : Int) : Int :=
  let v : Int := (m * 2 ^ (e - e0).toNat : Nat)
  if neg then -v else v

/-- The exact sum, under the special values of R92: a NaN, or both infinities, give 0x7FC0 0000; an exact zero is −0 only when
every term is −0. -/
def add : Num → Num → Num
  | .nan _, _ => .nan false
  | _, .nan _ => .nan false
  | .inf a, .inf b => if a = b then .inf a else .nan false
  | .inf a, _ => .inf a
  | _, .inf b => .inf b
  | .fin na ma ea, .fin nb mb eb =>
    let e0 := min ea eb
    let s := signed na ma ea e0 + signed nb mb eb e0
    if s = 0 then .fin (na && nb) 0 0 else .fin (decide (s < 0)) s.natAbs e0

/-- The exact product. -/
def mul : Num → Num → Num
  | .nan _, _ => .nan false
  | _, .nan _ => .nan false
  | .inf a, .inf b => .inf (a != b)
  | .inf a, .fin nb mb _ => if mb = 0 then .nan false else .inf (a != nb)
  | .fin na ma _, .inf b => if ma = 0 then .nan false else .inf (na != b)
  | .fin na ma ea, .fin nb mb eb => .fin (na != nb) (ma * mb) (ea + eb)

/-- Exact negation. -/
def neg : Num → Num
  | .nan n => .nan n
  | .inf n => .inf (!n)
  | .fin n m e => .fin (!n) m e

/-- The exact sum of a list; +0 for no term (R89). -/
def sum : List Num → Num
  | [] => zero
  | x :: xs => xs.foldl add x

/-- The power with a whole exponent, exactly (R215). -/
def pow (x : Num) (t : Nat) : Num :=
  match x with
  | .nan _ => if t = 0 then one else .nan false
  | .inf n => if t = 0 then one else .inf (n && decide (t % 2 = 1))
  | .fin n m e => .fin (n && decide (t % 2 = 1)) (m ^ t) (e * t)

/-- True of NaN. -/
def isNan : Num → Bool
  | .nan _ => true
  | _ => false

/-- True of a finite value. -/
def isFinite : Num → Bool
  | .fin _ _ _ => true
  | _ => false

/-- True of +0 and −0. -/
def isZero : Num → Bool
  | .fin _ 0 _ => true
  | _ => false

/-- The magnitude. -/
def abs : Num → Num
  | .nan n => .nan n
  | .inf _ => .inf false
  | .fin _ m e => .fin false m e

/-- x < y of two finite values. -/
def finLt (na : Bool) (ma : Nat) (ea : Int) (nb : Bool) (mb : Nat) (eb : Int) : Bool :=
  let e0 := min ea eb
  decide (signed na ma ea e0 < signed nb mb eb e0)

/-- x < y in the total order of R93: NaN above +∞, and −0 below +0. -/
def maxLt : Num → Num → Bool
  | .nan _, _ => false
  | _, .nan _ => true
  | .inf a, .inf b => a && !b
  | .inf a, .fin _ _ _ => a
  | .fin _ _ _, .inf b => !b
  | .fin na ma ea, .fin nb mb eb =>
    if ma = 0 ∧ mb = 0 then na && !nb else finLt na ma ea nb mb eb

end Num

/-- A binary format: widths of exponent and significand field, bias, the code of its largest finite value, the code of infinity
where it has one, and the code of its NaN, all without the sign. -/
structure Fmt where
  /-- exponent field, bits -/
  expBits : Nat
  /-- significand field, bits -/
  manBits : Nat
  /-- exponent bias -/
  bias : Nat
  /-- code of the largest finite value -/
  maxFin : Nat
  /-- code of infinity, where the format has one -/
  infCode : Option Nat
  /-- code of the NaN the engine writes (R97) -/
  nanCode : Nat
  deriving DecidableEq, Repr

namespace Fmt

/-- FP32 -/
def fp32 : Fmt := ⟨8, 23, 127, 0x7F7FFFFF, some 0x7F800000, 0x7FC00000⟩
/-- BF16 -/
def bf16 : Fmt := ⟨8, 7, 127, 0x7F7F, some 0x7F80, 0x7FC0⟩
/-- FP16 -/
def fp16 : Fmt := ⟨5, 10, 15, 0x7BFF, some 0x7C00, 0x7E00⟩
/-- FP8 E4M3: no infinity, NaN S.1111.111 (03, OCP definitions) -/
def e4m3 : Fmt := ⟨4, 3, 7, 0x7E, none, 0x7F⟩
/-- FP8 E5M2 -/
def e5m2 : Fmt := ⟨5, 2, 15, 0x7B, some 0x7C, 0x7E⟩

/-- Bits of a code, the sign included. -/
def bits (f : Fmt) : Nat := 1 + f.expBits + f.manBits

/-- The exponent of the least significant bit of a subnormal. -/
def lsbMin (f : Fmt) : Int := 1 - (f.bias : Int) - (f.manBits : Int)

/-- The value of a code. -/
def decode (f : Fmt) (code : Nat) : Num :=
  let mag := code % 2 ^ (f.expBits + f.manBits)
  let neg := decide (code / 2 ^ (f.expBits + f.manBits) % 2 = 1)
  if mag > f.maxFin then
    if f.infCode = some mag then .inf neg else .nan neg
  else
    let ex := mag / 2 ^ f.manBits
    let man := mag % 2 ^ f.manBits
    if ex = 0 then .fin neg man f.lsbMin
    else .fin neg (2 ^ f.manBits + man) (f.lsbMin + (ex : Int) - 1)

/-- The code with its sign bit. -/
def withSign (f : Fmt) (neg : Bool) (mag : Nat) : Nat :=
  if neg then 2 ^ (f.expBits + f.manBits) + mag else mag

/-- floor(num × 2^k ÷ den) and whether the remainder is zero, below, at or above one half: 0, 1, 2, 3. -/
def floorHalf (num den : Nat) (k : Int) : Nat × Nat :=
  let a := num * 2 ^ k.toNat
  let b := den * 2 ^ (-k).toNat
  let q := a / b
  let r := a % b
  (q, if r = 0 then 0 else if 2 * r < b then 1 else if 2 * r = b then 2 else 3)

/-- Nearest, ties to even. -/
def nearest (q half : Nat) : Nat :=
  if half = 3 ∨ (half = 2 ∧ q % 2 = 1) then q + 1 else q

/-- floor(log2(num ÷ den × 2^e)) for a positive quotient. -/
def floorLog2 (num den : Nat) (e : Int) : Int :=
  let k : Int := (Nat.log2 num : Int) - (Nat.log2 den : Int)
  -- num/den lies in (2^(k-1), 2^(k+1))
  let ge := num * 2 ^ (-k).toNat ≥ den * 2 ^ k.toNat
  (if ge then k else k - 1) + e

/-- What a magnitude beyond the range becomes: the infinity of the format, or its largest value where it has none (R97: ±448). -/
def overflow (f : Fmt) : Nat := f.infCode.getD f.maxFin

/-- The code nearest to (-1)^neg × num ÷ den × 2^e, one rounding, subnormals kept. -/
def roundRat (f : Fmt) (neg : Bool) (num den : Nat) (e : Int) : Nat :=
  if num = 0 then f.withSign neg 0
  else
    let k := floorLog2 num den e
    let l := max (k - (f.manBits : Int)) f.lsbMin
    let (q, h) := floorHalf num den (e - l)
    let code := (l - f.lsbMin).toNat * 2 ^ f.manBits + nearest q h
    f.withSign neg (if code > f.maxFin then f.overflow else code)

/-- The code of an exact value, one rounding to nearest with ties to even. -/
def round (f : Fmt) : Num → Nat
  | .nan neg => f.withSign neg f.nanCode
  | .inf neg => f.withSign neg (f.infCode.getD f.nanCode)
  | .fin neg m e => f.roundRat neg m 1 e

/-- The code of an exact non-negative value, rounded toward +∞ (R219). -/
def roundUp (f : Fmt) : Num → Nat
  | .nan neg => f.withSign neg f.nanCode
  | .inf neg => f.withSign neg (f.infCode.getD f.nanCode)
  | .fin neg m e =>
    if m = 0 then f.withSign neg 0
    else
      let k := floorLog2 m 1 e
      let l := max (k - (f.manBits : Int)) f.lsbMin
      let (q, h) := floorHalf m 1 (e - l)
      let code := (l - f.lsbMin).toNat * 2 ^ f.manBits + (if h = 0 then q else q + 1)
      f.withSign neg (if code > f.maxFin then f.overflow else code)

end Fmt

/-! ### FP32 operations, each rounded once -/

/-- An FP32 code. -/
abbrev F32 := Word

/-- The value of an FP32 code. -/
def F32.num (x : F32) : Num := Fmt.fp32.decode x.toNat

/-- round32 of an exact value (04). -/
def round32 (x : Num) : F32 := BitVec.ofNat 32 (Fmt.fp32.round x)

/-- 0x7FC0 0000 (R92). -/
def F32.qnan : F32 := 0x7FC00000#32

/-- round32(a + b) -/
def F32.add (a b : F32) : F32 := round32 (a.num.add b.num)
/-- round32(a − b) -/
def F32.sub (a b : F32) : F32 := round32 (a.num.add b.num.neg)
/-- round32(a × b) -/
def F32.mul (a b : F32) : F32 := round32 (a.num.mul b.num)
/-- fma(a, b, c), rounded once -/
def F32.fma (a b c : F32) : F32 := round32 ((a.num.mul b.num).add c.num)
/-- exact negation -/
def F32.neg (a : F32) : F32 := a ^^^ 0x80000000#32

/-- round32 of the quotient of two exact values (R90, R204, R215). -/
def divNum (x y : Num) : F32 :=
  match x, y with
  | .nan _, _ => F32.qnan
  | _, .nan _ => F32.qnan
  | .inf _, .inf _ => F32.qnan
  | .inf a, .fin nb _ _ => round32 (.inf (a != nb))
  | .fin na _ _, .inf b => round32 (.fin (na != b) 0 0)
  | .fin na ma ea, .fin nb mb eb =>
    if mb = 0 then (if ma = 0 then F32.qnan else round32 (.inf (na != nb)))
    else BitVec.ofNat 32 (Fmt.fp32.roundRat (na != nb) ma mb (ea - eb))

/-- round32(a ÷ b) -/
def F32.div (a b : F32) : F32 := divNum a.num b.num

/-- round32(x ÷ n) for a whole n. -/
def divNat (x : Num) (n : Nat) : F32 := divNum x (.fin false n 0)

/-- The largest r with r² ≤ n, found bit by bit from bit `k - 1` down. -/
def isqrtFrom (n : Nat) : Nat → Nat → Nat
  | 0, acc => acc
  | k + 1, acc =>
    let t := acc + 2 ^ k
    isqrtFrom n k (if t * t ≤ n then t else acc)

/-- floor(sqrt(n)) -/
def isqrt (n : Nat) : Nat := isqrtFrom n (Nat.log2 n / 2 + 1) 0

/-- The FP32 code nearest to sqrt(num ÷ den × 2^e), of the exact root. -/
def sqrtRat (num den : Nat) (e : Int) : F32 :=
  if num = 0 then 0#32
  else
    let f := Fmt.fp32
    let k := (Fmt.floorLog2 num den e) / 2
    let l := max (k - (f.manBits : Int)) f.lsbMin
    -- q = floor(sqrt(v) / 2^l) = isqrt(floor(v / 4^l))
    let sh := e - 2 * l
    let a := num * 2 ^ sh.toNat
    let b := den * 2 ^ (-sh).toNat
    let q := isqrt (a / b)
    -- v / 4^l against q² and (q + 1/2)²
    let h := if a = q * q * b then 0 else
      let lhs := 4 * a
      let rhs := (2 * q + 1) * (2 * q + 1) * b
      if lhs < rhs then 1 else if lhs = rhs then 2 else 3
    let code := (l - f.lsbMin).toNat * 2 ^ f.manBits + Fmt.nearest q h
    BitVec.ofNat 32 (if code > f.maxFin then f.overflow else code)

/-- The FP32 value nearest to 1 ÷ sqrt(v) (R98, R99); +∞ of +0, as the special cases of 04 follow. -/
def rsqrt (v : F32) : F32 :=
  match v.num with
  | .nan _ => F32.qnan
  | .inf false => 0#32
  | .inf true => F32.qnan
  | .fin neg m e =>
    if m = 0 then round32 (.inf neg)
    else if neg then F32.qnan
    else sqrtRat 1 m (-e)

/-- The FP32 value nearest to sqrt of an exact value (R215). -/
def sqrtNum (v : Num) : F32 :=
  match v with
  | .nan _ => F32.qnan
  | .inf false => round32 (.inf false)
  | .inf true => F32.qnan
  | .fin neg m e =>
    if m = 0 then round32 (.fin neg 0 0)
    else if neg then F32.qnan
    else sqrtRat m 1 e

end Sys2Proof.Machine
end

