-- ==== Sys2Proof/Machine/RowStore.lean ====
section
/-! DEFINITION. Where stored rows lie and how they are read and written: tier addresses (R144, R146, R155), host-attached memory and
flash (R188, R190), poisoned units (R163), the placement of a row (R115, R127, R169), its tile checks (R55), and its values
(R52, R53, R77). -/

namespace Sys2Proof.Machine

/-! ### Tier addresses -/

/-- First address of the cistern (R144). -/
def cisternBase : Nat := 0x4000000000
/-- First address of the interleaved view of HBM4. -/
def hbmBase : Nat := 0x8000000000
/-- First address of the channel-local view of HBM4. -/
def hbmLocalBase : Nat := 0x10000000000

/-- Bank and DRAM row of an address within a vault or channel (R146, R155). -/
def bankRow (a : Nat) : Nat × Nat := (a / 2 ^ 11 % 32, a / 2 ^ 16)

/-- Pseudo-channel of a channel address, and its sector within the 1 KiB page (R155). -/
def pcSector (ca : Nat) : Nat × Nat := (ca / 2 ^ 10 % 2, ca / 32 % 32)

/-- cistern_locate (R146): logical vault and vault address of an offset. -/
def cisternLocate (a : Nat) : Nat × Nat :=
  let g := a / 65536
  let l := g / 256
  ((g ^^^ l ^^^ (l / 256)) % 256, l * 65536 + a % 65536)

/-- hbm_locate (R155): channel and channel address of a tier address. -/
def hbmLocate (addr : Nat) : Nat × Nat :=
  if addr < hbmLocalBase then
    let h := addr - hbmBase
    let b := h / 256
    ((b ^^^ (b / 2 ^ 8) ^^^ (b / 2 ^ 16) ^^^ (b / 2 ^ 24)) % 256, b / 256 * 256 + h % 256)
  else
    let h := addr - hbmLocalBase
    (h / 2 ^ 31, h % 2 ^ 31)

/-- Key of a DRAM byte by physical vault and vault address. -/
def vaultKey (v va : Nat) : Nat := v * 2 ^ 28 + va
/-- Key of a DRAM byte by channel and channel address. -/
def channelKey (ch ca : Nat) : Nat := 2 ^ 60 + ch * 2 ^ 31 + ca

/-- The DRAM unit of a byte of tier 1 or 2: its UNIT, or none where no vault stands for the logical one (R165). -/
def dramUnit (s : State) (tier addr : Nat) : Option Nat :=
  if tier = 1 then (physOf s 6 (cisternLocate (addr - cisternBase)).1).map (unitId 6) else some (unitId 7 (hbmLocate addr).1)

/-- The unit, bank and DRAM row of a byte of tier 1 or 2 (R146, R155). -/
def dramRow (s : State) (tier addr : Nat) : Option (Nat × Nat × Nat) :=
  (dramUnit s tier addr).map fun u =>
    (u, bankRow (if tier = 1 then (cisternLocate (addr - cisternBase)).2 else (hbmLocate addr).2))

/-- Key of a DRAM byte of tier 1 or 2. -/
def dramKey (s : State) (tier addr : Nat) : Option Nat :=
  if tier = 1 then
    let l := cisternLocate (addr - cisternBase)
    (physOf s 6 l.1).map fun v => vaultKey v l.2
  else
    let l := hbmLocate addr
    some (channelKey l.1 l.2)

/-- Host physical address of byte `a` of a CXL region (R188). -/
def cxlAddr (s : State) (region a : Nat) : Nat := rd Reg.CXL_REGION_BASE_BASE region s * 4096 + a

/-- Key of a flash byte. -/
def flashKey (target a : Nat) : Nat := target * 2 ^ 80 + a

/-! ### The placement region (R169, R171) -/

/-- basin_set (R113). -/
def basinSet (tab i n : Nat) : Nat :=
  let x := i ^^^ (tab * 2 ^ 40)
  let x := x ^^^ (x / 2 ^ 29)
  let x := (x * 0xA3C559E17B0D4F27) % 2 ^ 64
  let x := x ^^^ (x / 2 ^ 32)
  (x % 2 ^ 32) * n / 2 ^ 32

/-- Base of the placement region (R170). -/
def regionBase (s : State) : Nat := rd Reg.PLACE_RPT_BASE_BASE 0 s * 2 ^ 26

/-- Set of a row in the row-placement table (R171). -/
def rptSet (t row : Nat) : Nat := basinSet t row 131072

/-- A row-placement table entry in its 32 bytes (07 Table 2). An entry whose move has yet to start stands as PLACED where it is
(log entry 14). -/
def PEntry.bytes (e : PEntry) : List Byte :=
  let going := e.moving && !e.waiting
  let target := fun (tier : Nat) (p : Place) => if tier = 3 ∨ tier = 4 then p.target else 0
  toLE 4 (e.table + (if going then 2 else 1) * 2 ^ 12 + (if e.src then 2 ^ 14 else 0) + e.curTier * 2 ^ 16
    + (if going then e.newTier * 2 ^ 20 else 0))
  ++ toLE 4 (e.row % 2 ^ 32)
  ++ toLE 4 (e.row / 2 ^ 32 % 256 + target e.curTier e.cur * 2 ^ 8 + (if going then target e.newTier e.new * 2 ^ 16 else 0))
  ++ toLE 4 e.epoch ++ toLE 8 (if e.curTier = 0 then 0 else e.cur.addr) ++ toLE 8 (if going then e.new.addr else 0)

/-- Count of a field of a load record: 0 USES, 1 FETCHES, 2 KIB, 3 REMOTE (R183). KIB is kept in bytes. -/
def loadCount (l : Sparse Nat) (rec fld : Nat) : Nat :=
  let n := Sparse.get 0 l (rec * 4 + fld)
  min (if fld = 2 then n / 1024 else n) (2 ^ 32 - 1)

/-- A byte of the placement region by its offset (07 Table 1): the row-placement table, the load records with their four counts in
words 0 to 3 (DESIGN CHOICE, log entry 14), the sketch; the reserved part reads 0. -/
def regionByte (s : State) (o : Nat) : Byte :=
  if o < 0x2000000 then
    match s.place.entries.find? fun e => rptSet e.table e.row == o / 256 && e.way == o / 32 % 8 with
    | some e => e.bytes.getD (o % 32) 0#8
    | none => 0#8
  else if o < 0x3000000 then
    let r := (o - 0x2000000) / 32
    if o % 32 < 16 then (toLE 4 (loadCount s.place.load r (o % 32 / 4))).getD (o % 4) 0#8 else 0#8
  else if o < 0x3800000 then (toLE 2 (Sparse.get 0 s.place.sketch ((o - 0x3000000) / 2))).getD (o % 2) 0#8
  else 0#8

/-- Whether an address of the cistern lies in the placement region. -/
def inRegion (s : State) (a : Nat) : Bool := decide (regionBase s ≤ a) && decide (a < regionBase s + 2 ^ 26)

/-! ### Bytes of a tier -/

/-- One byte of a tier, by place and offset. -/
def tierByte (s : State) (p : Place) (i : Nat) : Byte :=
  match p.tier with
  | 3 => Sparse.get 0#8 s.tiers.host (cxlAddr s p.target (p.addr + i))
  | 4 => Sparse.get 0#8 s.tiers.flash (flashKey p.target (p.addr + i))
  | t =>
    if t = 1 ∧ inRegion s (p.addr + i) then regionByte s (p.addr + i - regionBase s)
    else match dramKey s t (p.addr + i) with
    | some k => Sparse.get 0#8 s.tiers.dram k
    | none => 0#8

/-- `n` bytes of a tier from a place. -/
def readTier (s : State) (p : Place) (n : Nat) : List Byte := (List.range n).map (tierByte s p)

/-! ### Poison (R163) -/

/-- Whether a 64-byte unit of DRAM is poisoned. -/
def poisoned (l : List (Nat × Nat)) (k : Nat) : Bool := l.any fun r => decide (r.1 < k + 64) && decide (k < r.2)

/-- Clears the mark of one 64-byte unit. -/
def clearPoison (k : Nat) (l : List (Nat × Nat)) : List (Nat × Nat) :=
  l.flatMap fun r =>
    if r.2 ≤ k ∨ k + 64 ≤ r.1 then [r]
    else (if r.1 < k then [(r.1, k)] else []) ++ (if k + 64 < r.2 then [(k + 64, r.2)] else [])

/-- Marks a range of DRAM keys poisoned. -/
def poisonRange (lo hi : Nat) (s : State) : State :=
  { s with tiers := { s.tiers with poison := (lo, hi) :: s.tiers.poison } }

/-- Writes one byte of a tier. -/
def writeTierByte (s : State) (p : Place) (i : Nat) (b : Byte) (t : Tiers) : Tiers :=
  match p.tier with
  | 3 => { t with host := Sparse.set 0#8 t.host (cxlAddr s p.target (p.addr + i)) b }
  | 4 => { t with flash := Sparse.set 0#8 t.flash (flashKey p.target (p.addr + i)) b }
  | n => match dramKey s n (p.addr + i) with
    | some k => { t with dram := Sparse.set 0#8 t.dram k b }
    | none => t

/-- The poison left after whole 64-byte units were written from a place on. -/
def unpoison (s : State) (p : Place) (n : Nat) (l : List (Nat × Nat)) : List (Nat × Nat) :=
  if p.tier > 2 then l
  else (List.range (n / 64)).foldl (fun l t => match dramKey s p.tier (p.addr + 64 * t) with
    | some k => clearPoison k l
    | none => l) l

/-- Writes bytes to a tier from a place on. -/
def writeTier (p : Place) (bs : List Byte) (s : State) : State :=
  let t := bs.zipIdx.foldl (fun t e => writeTierByte s p e.2 e.1 t) s.tiers
  { s with tiers := { t with poison := unpoison s p bs.length t.poison } }

/-- Tiles of a stored row, check tiles included, that lie on poison. -/
def poisonTiles (s : State) (d : Desc) (p : Place) : List Nat :=
  if p.tier > 2 || s.tiers.poison.isEmpty then []
  else (List.range d.allTiles).filter fun t =>
    match dramKey s p.tier (p.addr + 64 * t) with
    | some k => poisoned s.tiers.poison k
    | none => false

/-! ### Reach of a place -/

/-- How an access to a tier ends. -/
inductive Reach
  /-- it is served -/
  | ok
  /-- a vault or channel out of service: its UNIT (R165, R168) -/
  | hw (unit : Nat)
  /-- the sluice is not OPEN (R189) -/
  | lost
  /-- the flash target is not connected (R191) -/
  | remote (target : Nat)
  deriving DecidableEq, Repr

/-- Whether a DRAM unit serves accesses. -/
def unitServes (s : State) (u : Nat) : Bool := (unit s u).st == .active

/-- Whether an access of `n` bytes reaches its place. -/
def reach (s : State) (p : Place) (n : Nat) : Reach :=
  match p.tier with
  | 3 => if s.host.st == .opened then .ok else .lost
  | 4 => if rdb Reg.NVMF_TGT_STAT_CONNECTED p.target s then .ok else .remote p.target
  | t =>
    let bad := (List.range (ceilDiv n 64)).findSome? fun i =>
      match dramUnit s t (p.addr + 64 * i) with
      | none => some (unitId 6 (cisternLocate (p.addr + 64 * i - cisternBase)).1)
      | some u => if unitServes s u then none else some u
    match bad with
    | some u => .hw u
    | none => .ok

/-- Whether a row crosses a 64 KiB boundary of the cistern (R146). -/
def straddles (p : Place) (n : Nat) : Bool := decide ((p.addr % 65536) + n > 65536)

/-! ### Where a row lies -/

/-- The entry of a row in the row-placement table. -/
def pentry? (s : State) (t row : Nat) : Option PEntry := s.place.entries.find? fun e => e.table == t && e.row == row

/-- Whether a row is MOVING and its move has started (R177). -/
def isMoving (s : State) (t row : Nat) : Bool :=
  match pentry? s t row with
  | some e => e.moving && !e.waiting
  | none => false

/-- The current home of a row (R59, R169). -/
def homeNow (s : State) (t row : Nat) : Place :=
  match pentry? s t row with
  | some e => if e.curTier = 0 then (table s t).homePlace row else e.cur
  | none => (table s t).homePlace row

/-- The newest delta at or below a version that holds a row. -/
def Table.newestDelta (tb : Table) (v row : Nat) : Option Delta :=
  (tb.delta.filter fun d => d.row == row && decide (d.version ≤ v)).foldl
    (fun (b : Option Delta) d => match b with
      | none => some d
      | some x => if d.version > x.version then some d else b) none

/-- The oldest delta above a version that holds a row. -/
def Table.nextDelta (tb : Table) (v row : Nat) : Option Delta :=
  (tb.delta.filter fun d => d.row == row && decide (d.version > v)).foldl
    (fun (b : Option Delta) d => match b with
      | none => some d
      | some x => if d.version < x.version then some d else b) none

/-- Place of the stored row that version `v` reads. -/
def rowPlace (s : State) (t v row : Nat) : Place :=
  match (table s t).newestDelta v row with
  | some d => (table s t).slotPlace d.slot
  | none => homeNow s t row

/-- Range of versions of a copy filled for a read of version `v` (R115). -/
def rowRange (s : State) (t v row : Nat) : Nat × Option Nat :=
  let tb := table s t
  if !tb.desc.versioned then (0, none)
  else (match tb.newestDelta v row with
      | some d => d.version
      | none => tb.baseNum,
    (tb.nextDelta v row).map fun d => d.version - 1)

/-! ### Values of a row -/

/-- The floating format of a code: 0 FP32, 1 BF16, 2 FP16, 3 E4M3, 4 E5M2. -/
def fmtOf (f : Nat) : Fmt :=
  match f with
  | 0 => .fp32
  | 1 => .bf16
  | 2 => .fp16
  | 3 => .e4m3
  | _ => .e5m2

/-- Bytes of a floating format. -/
def fmtBytes (f : Nat) : Nat := (fmtOf f).bits / 8

/-- FP32 of a code of a floating format (R53). -/
def toF32 (f code : Nat) : F32 := round32 ((fmtOf f).decode code)

/-- Code of an FP32 value in a floating format (R97, R216). -/
def ofF32 (f : Nat) (x : F32) : Nat := (fmtOf f).round x.num

/-- Element code `j` of `w` bytes in bytes. -/
def codeAt (bs : List Byte) (w j : Nat) : Nat := fromLE ((bs.drop (w * j)).take w)

/-- Codes of `n` elements of `w` bytes. -/
def codesOf (w n : Nat) (bs : List Byte) : List Nat := (List.range n).map (codeAt bs w)

/-- Integer element `j` of INT8 or INT4 data (R52). -/
def intAt (fmt : Nat) (bs : List Byte) (j : Nat) : Int :=
  if fmt = 5 then signedOf 8 (codeAt bs 1 j)
  else signedOf 4 (if j % 2 = 0 then codeAt bs 1 (j / 2) % 16 else codeAt bs 1 (j / 2) / 16)

/-- A whole number as an exact value. -/
def intNum (q : Int) : Num := .fin (decide (q < 0)) q.natAbs 0

/-- Byte offset of the adapter part. -/
def Desc.offA (d : Desc) : Nat := 64 * d.td
/-- Byte offset of the state part. -/
def Desc.offS (d : Desc) : Nat := 64 * (d.td + d.ta)
/-- Byte offset of the metadata tile. -/
def Desc.offM (d : Desc) : Nat := 64 * (d.td + d.ta + d.ts)

/-- Word `i` of the metadata tile. -/
def metaWord (d : Desc) (bs : List Byte) (i : Nat) : Word :=
  if d.tm = 0 then 0#32 else BitVec.ofNat 32 (codeAt (bs.drop d.offM) 4 i)

/-- The data elements of a stored row, dequantised (R53). -/
def baseElems (d : Desc) (bs : List Byte) : List F32 :=
  if d.format ≤ 4 then (codesOf (fmtBytes d.format) d.rowLen bs).map (toF32 d.format)
  else
    let scale := Fmt.fp16.decode (codeAt (bs.drop d.offM) 2 0)
    let bias := Fmt.fp16.decode (codeAt (bs.drop d.offM) 2 1)
    (List.range d.rowLen).map fun j =>
      let q := intNum (intAt d.format bs j)
      if d.format = 5 then round32 ((q.mul scale).add bias) else round32 (q.mul scale)

/-- The elements of A of an adapter row. -/
def aElems (d : Desc) (bs : List Byte) : List F32 :=
  (codesOf (fmtBytes d.aFmt) d.rank (bs.drop d.offA)).map (toF32 d.aFmt)

/-- One adapter element: the chain of R77. -/
def adapterElem (d : Desc) (b : List Word) (as : List F32) (base : F32) (j : Nat) : F32 :=
  as.zipIdx.foldl (fun acc e => F32.fma e.1 (b.getD (e.2 * d.rowLen + j) 0#32) acc) base

/-- The values of a row in FP32 (R53, R77), with the matrix B of its version. -/
def rowElems (d : Desc) (b : List Word) (bs : List Byte) : List F32 :=
  if d.adapter then (baseElems d bs).zipIdx.map fun e => adapterElem d b (aElems d bs) e.1 e.2
  else baseElems d bs

/-- The matrix B of a version. -/
def matB (s : State) (t v : Nat) : List Word := (((table s t).version? v).map (·.b.b)).getD []

end Sys2Proof.Machine
end

