-- ==== Sys2Proof/Machine/Cache.lean ====
section
/-! DEFINITION. The basin row cache with its punty entries, gob, cullet and hold buffers (R55, R108 to R130, R140, R177): where a copy
lies, what a hit does, which way a fill takes, how a stored row is read, and where an evicted copy goes. -/

namespace Sys2Proof.Machine

/-! ### Geometry -/

/-- Sets of a geometry (R109). -/
def Geom.sets (g : Geom) : Nat := g.granules * 65536 / (2 ^ g.slotLog2 * g.ways)

/-- The geometry written for a class and not yet applied. -/
def cfgGeom (s : State) (c : Nat) : Geom :=
  { granules := rd Reg.BASIN_CLASS_CFG_GRANULES c s, ways := rd Reg.BASIN_CLASS_CFG_WAYS c s,
    slotLog2 := rd Reg.BASIN_CLASS_CFG_SLOT_LOG2 c s, filter := rdb Reg.BASIN_CLASS_CFG_FREQ_FILTER c s }

/-- Whether a class changes under a running APPLY (R110). -/
def changing (s : State) (c : Nat) : Bool := rdb Reg.BASIN_STAT_APPLY_BUSY 0 s && decide (cfgGeom s c ≠ geomOf s c)

/-- Whether a table bypasses the basin (R111). -/
def bypasses (s : State) (t : Nat) : Bool :=
  let d := (table s t).desc
  let g := geomOf s d.cls
  g.sets == 0 || decide (d.stride > 2 ^ g.slotLog2) || changing s d.cls

/-- Key of a set in a slice. -/
def setKey (cls k : Nat) : Nat := cls * 2 ^ 24 + k

/-- Key of the set of a row. -/
def rowSet (s : State) (t row : Nat) : Nat :=
  let c := (table s t).desc.cls
  setKey c (basinSet t row (geomOf s c).sets)

/-- Class of a set key. -/
def keyClass (k : Nat) : Nat := k / 2 ^ 24

/-- The set with its ways written out. -/
def setOf (s : State) (v : Slice) (k : Nat) : BSet :=
  let b := Sparse.get {} v.sets k
  if b.ways.isEmpty then { b with ways := List.replicate (geomOf s (keyClass k)).ways {} } else b

/-- Replaces a set; one that holds nothing is not listed. -/
def putSet (k : Nat) (b : BSet) (v : Slice) : Slice :=
  let c := if b.plru = 0 ∧ b.ways.all (fun w => decide (w = ({} : Way))) then { b with ways := [] } else b
  { v with sets := Sparse.set {} v.sets k c }

/-! ### Copies -/

/-- Whether a copy serves a read of version `ver` of a row (R114). -/
def Copy.covers (c : Copy) (t row ver : Nat) : Bool :=
  c.table == t && c.row == row && decide (c.lo ≤ ver) && (match c.hi with | none => true | some h => decide (ver ≤ h))

/-- Whether a copy's range contains no version other than FREE (R116). -/
def Copy.dead (s : State) (c : Copy) : Bool :=
  !(Machine.table s c.table).vers.any fun v => c.covers c.table c.row v.num

/-- Where a copy lies in a slice. -/
inductive Spot
  /-- punty entry -/
  | punty (i : Nat)
  /-- way of a set -/
  | way (key w : Nat)
  /-- gob entry -/
  | gob (i : Nat)
  /-- cullet entry -/
  | cull (i : Nat)
  /-- hold-area entry -/
  | hold (i : Nat)
  /-- row of a commit that waits for the cullet buffer -/
  | kept (i : Nat)
  deriving DecidableEq, Repr

/-- Index of the first element that satisfies a test. -/
def idxOf {α : Type} (p : α → Bool) (l : List α) : Option Nat := (l.zipIdx.find? fun e => p e.1).map (·.2)

/-- The spot that serves a read of a row in a slice, searched in every structure (R108, R129, R177). -/
def findSpot (s : State) (v : Slice) (t row ver : Nat) : Option Spot :=
  let hit := fun (c : Copy) => c.covers t row ver
  match idxOf (fun (p : Punty) => hit p.copy) v.punty with
  | some i => some (.punty i)
  | none =>
    let k := rowSet s t row
    match idxOf (fun (w : Way) => (w.st == .clean || w.st == .dirty) && hit w.copy) (Sparse.get {} v.sets k).ways with
    | some i => some (.way k i)
    | none =>
      match idxOf hit v.gob with
      | some i => some (.gob i)
      | none =>
        match idxOf (fun (e : Cull) => e.snooped && hit e.copy) v.cullet with
        | some i => some (.cull i)
        | none =>
          match idxOf (fun (e : Cull) => e.snooped && hit e.copy) v.hold with
          | some i => some (.hold i)
          | none => (idxOf hit v.kept).map Spot.kept

/-- The copy at a spot. -/
def copyAt (v : Slice) : Spot → Option Copy
  | .punty i => v.punty[i]?.map (·.copy)
  | .way k w => (Sparse.get {} v.sets k).ways[w]?.map (·.copy)
  | .gob i => v.gob[i]?
  | .cull i => v.cullet[i]?.map (·.copy)
  | .hold i => v.hold[i]?.map (·.copy)
  | .kept i => v.kept[i]?

/-- Content of a dirty copy of a row, the newest in the slice. -/
def dirtyIn (v : Slice) (t row ver : Nat) : Option (List Byte) :=
  let hit := fun (c : Copy) => c.covers t row ver
  let ways := v.sets.flatMap fun e => e.2.ways
  ((v.punty.find? fun p => p.dirty && hit p.copy).map fun p => p.copy.bytes)
  <|> ((ways.find? fun w => w.st == .dirty && hit w.copy).map fun w => w.copy.bytes)
  <|> ((v.cullet.find? fun e => e.snooped && !e.dropped && hit e.copy).map fun e => e.copy.bytes)
  <|> ((v.hold.find? fun e => e.snooped && hit e.copy).map fun e => e.copy.bytes)
  <|> ((v.kept.find? hit).map (·.bytes))

/-- Content of a dirty copy of a row in any slice: what its tier does not hold yet (log entry 12). -/
def dirtyCopy (s : State) (t row ver : Nat) : Option (List Byte) := s.slices.findSome? fun e => dirtyIn e.2 t row ver

/-! ### Choosing a victim (R121, R122) -/

/-- WAYS rounded up to a power of two. -/
def pow2Up (n : Nat) : Nat := if n ≤ 2 then 2 else if n ≤ 4 then 4 else if n ≤ 8 then 8 else 16

/-- Whether way `w` lies under node `n` of the tree of `p` leaves. -/
def under (p n w : Nat) : Bool :=
  [0, 1, 2, 3, 4].any fun k => (p + w) / 2 ^ k == n

/-- Walks the tree to a leaf, past children without candidates. -/
def descend (p plru : Nat) (cand : List Nat) : Nat → Nat → Nat
  | 0, n => n
  | f + 1, n =>
    if n ≥ p then n
    else
      let b := b2n (plru.testBit n)
      let c := 2 * n + b
      descend p plru cand f (if cand.any (under p c) then c else 2 * n + 1 - b)

/-- The victim of a set; none where nothing may be taken. -/
def chooseVictim (s : State) (k : Nat) (b : BSet) : Option Nat :=
  let g := geomOf s (keyClass k)
  let ws := b.ways.zipIdx
  let live := fun (w : Way) => w.st == .clean || w.st == .dirty
  match ws.find? fun e => e.1.st == .invalid || (live e.1 && e.1.copy.dead s) with
  | some e => some e.2
  | none =>
    let cs := ws.filter fun e => live e.1
    if cs.isEmpty then none
    else
      let fs := sortBy (fun a c => decide (a < c)) (cs.map fun e => e.1.freq)
      let med := fs.getD (ceilDiv cs.length 2 - 1) 0
      let es := if g.filter then cs.filter fun e => decide (e.1.freq ≤ med) else cs
      let p := pow2Up g.ways
      some (descend p b.plru (es.map (·.2)) 5 1 - p)

/-- The bit of node `n` after a use of way `w`: away from it. -/
def touchNode (p w : Nat) (plru n : Nat) : Nat :=
  let left := under p (2 * n) w
  if left then plru ||| 2 ^ n else (plru ||| 2 ^ n) ^^^ 2 ^ n

/-- Tree bits after a hit or an allocation of way `w`. -/
def touch (ways w plru : Nat) : Nat :=
  let p := pow2Up ways
  ((List.range p).filter fun n => decide (1 ≤ n) && under p n w).foldl (fun b n => touchNode p w b n) plru

/-- One more hit of way `w` (R120). -/
def bumpFreq (w : Nat) (ws : List Way) : List Way :=
  let f := (ws.getD w {}).freq
  let hs := if f ≥ 15 then ws.map fun x => { x with freq := x.freq / 2 } else ws
  modAt hs w fun x => { x with freq := x.freq + 1 }

/-! ### Write-back -/

/-- Where a dirty copy is written. -/
inductive Target
  /-- a place -/
  | place (p : Place)
  /-- the hold area of its slice, while its row is MOVING (R177) -/
  | hold
  deriving DecidableEq, Repr

/-- Target of a write of a row's home. -/
def homeTarget (s : State) (t row : Nat) : Target := if isMoving s t row then .hold else .place (homeNow s t row)

/-- The write-back target of a dirty copy (R127). -/
def writeTarget (s : State) (c : Copy) : Target :=
  match (table s c.table).slotOf c.lo c.row with
  | some k => if (table s c.table).desc.versioned then .place ((table s c.table).slotPlace k) else homeTarget s c.table c.row
  | none => homeTarget s c.table c.row

/-- Bytes of a logical block of a flash target (R190). -/
def lbaBytes (s : State) (t : Nat) : Nat := 2 ^ rd Reg.NVMF_TGT_CFG_LBA_LOG2 t s

/-- Logical blocks that cover `n` bytes of flash from `a`: first and count. -/
def lbaSpan (s : State) (t a n : Nat) : Nat × Nat :=
  let b := lbaBytes s t
  (a / b, (a + n - 1) / b + 1 - a / b)

/-- NVMe commands that a target's queues hold at most: QUEUES × QDEPTH (R190). -/
def ioLimit (s : State) (t : Nat) : Nat := rd Reg.NVMF_TGT_CFG_QUEUES t s * rd Reg.NVMF_TGT_CFG_QDEPTH t s

/-- NVMe commands of a target that were sent and have not ended. -/
def iosOut (s : State) (t : Nat) : Nat := (s.remote.ios.filter fun io => io.target == t && io.sent).length

/-- Sends an NVMe command. -/
def sendIo (io : NvmeIo) (s : State) : State :=
  send (.nvme io.id io.target io.lba io.blocks io.write io.data)
    { s with remote := { s.remote with ios := s.remote.ios.map fun x => if x.id == io.id then { x with sent := true } else x } }

/-- Starts an NVMe command, with the data of a write; it waits where the target's queues are full (R190). -/
def startIo (io : NvmeIo) (data : List Byte) (s : State) : State :=
  let x := { io with id := s.remote.nextIo, data := data, sent := false }
  let t := { s with remote := { s.remote with ios := s.remote.ios ++ [x], nextIo := s.remote.nextIo + 1 } }
  if iosOut s io.target < ioLimit s io.target then sendIo x t else t

/-- Sends the NVMe commands of a target that waited for room in its queues, oldest first. -/
def sendWaiting (t : Nat) (s : State) : State :=
  ((s.remote.ios.filter fun io => io.target == t && !io.sent).take (ioLimit s t - iosOut s t)).foldl (fun x io => sendIo io x) s

/-- Whether an NVMe command outstanding writes a block of a span (R190: writes of one block go one at a time). -/
def blockBusy (s : State) (t lba n : Nat) : Bool :=
  s.remote.ios.any fun io => io.target == t && (io.write || io.back.isSome || io.move.isSome) && decide (io.lba < lba + n)
    && decide (lba < io.lba + io.blocks)

/-- Whether rows of `n` bytes at an address take whole logical blocks of a target. -/
def wholeBlocks (s : State) (p : Place) (n : Nat) : Bool :=
  p.addr % lbaBytes s p.target == 0 && n == (lbaSpan s p.target p.addr n).2 * lbaBytes s p.target

/-- Issues the NVMe commands of a write of a row to flash: a read first where the row shares a block with others (R190). -/
def issueFlash (p : Place) (bs : List Byte) (back : Option (Nat × Nat × Nat × Nat)) (move : Option (Nat × Nat)) (s : State) : State :=
  let span := lbaSpan s p.target p.addr bs.length
  let whole := wholeBlocks s p bs.length
  startIo { id := 0, target := p.target, lba := span.1, blocks := span.2, write := whole, fetch := none, back := back, move := move,
            tries := 0 } (if whole then bs else []) s

/-- Whether a write of `n` bytes to a place may be issued now. -/
def canIssue (s : State) (p : Place) (n : Nat) : Bool :=
  match p.tier with
  | 3 => s.host.st == .opened
  | 4 =>
    let span := lbaSpan s p.target p.addr n
    rdb Reg.NVMF_TGT_STAT_CONNECTED p.target s && !blockBusy s p.target span.1 span.2
  | _ => true

/-! ### The cullet buffer and the hold area (R128 to R130, R177, R179) -/

/-- Where an entry is written: fixed by its issue, and until then by the placement as it stands (R169). -/
def Cull.target (s : State) (e : Cull) : Target :=
  if e.issued then .place e.place
  else if e.home then homeTarget s e.copy.table e.copy.row
  else writeTarget s e.copy

/-- Whether an entry waits on host-attached memory (R130). -/
def Cull.hostBound (s : State) (e : Cull) : Bool :=
  match e.target s with
  | .place p => p.tier == 3
  | .hold => false

/-- Tiles of a list of stored rows. -/
def tilesOf (l : List (List Byte)) : Nat := sumOf (l.map fun b => ceilDiv b.length 64)

/-- Tiles of entries. -/
def cullTiles (l : List Cull) : Nat := tilesOf (l.map fun e => e.copy.bytes)

/-- Tiles that count against a size of a slice, with that size: its hold area (R177), its cullet buffer (R128), and of that the
rows bound for host-attached memory (R130). -/
def loads (s : State) (sl : Nat) : List (Nat × Nat) :=
  let v := slice s sl
  [(cullTiles v.hold, 1024), (cullTiles v.cullet, 4096), (cullTiles (v.cullet.filter (Cull.hostBound s)), 2048)]

/-- The slices that the change from `s` to `t` takes past a size, with whether that is the hold area's. -/
def overSlices (s t : State) : List (Nat × Bool) :=
  (Sparse.keys t.slices).filterMap fun sl =>
    match idxOf (fun (e : (Nat × Nat) × (Nat × Nat)) => decide (e.2.1 > e.2.2) && decide (e.2.1 > e.1.1)) (List.zip (loads s sl) (loads t sl)) with
    | none => none
    | some i => some (sl, i == 0)

/-- What waits for room: a command, or a number of the engine's own work, with a table and a row. -/
abbrev WaitKey := Nat × Nat × Nat

/-- Numbers that no command has: for the work of APPLY, FLUSH, FOLD and a publish in turn. -/
def engineWork (n : Nat) : Nat := 2 ^ 70 + n

/-- Counts a wait once. -/
def countWait (k : WaitKey) (l : List (Nat × Bool)) (s : State) : State :=
  if k ∈ s.waits then s
  else
    l.foldl (fun u e => if e.2 then bump Reg.PLACE_HOLD_STALL_COUNT 0 1 u else bump Reg.CULLET_STALL_CNT_COUNT e.1 1 u)
      { s with waits := s.waits ++ [k] }

/-- Takes the change from `s` to `t`, which evicts or holds at most one row, or waits where a cullet buffer or hold area would
overflow by it; a wait is counted once (R128, R177). The flag tells whether it was taken. -/
def orStall (k : WaitKey) (s t : State) : State × Bool :=
  match overSlices s t with
  | [] => ({ t with waits := t.waits.filter (· != k) }, true)
  | l => (countWait k l s, false)

/-- Whether an entry or way is a given copy. -/
def Copy.isId (c : Copy) (t row lo : Nat) : Bool := c.table == t && c.row == row && c.lo == lo

/-- Puts an entry into the hold area of a slice; a newer write of a row replaces one that is not issued yet (R177). -/
def toHold (sl : Nat) (e : Cull) (s : State) : State :=
  let v := slice s sl
  let old := fun (x : Cull) => !x.issued && x.copy.isId e.copy.table e.copy.row e.copy.lo
  setSlice sl { v with hold := (v.hold.filter fun x => !old x) ++ [{ e with issued := false }]
                       cullet := v.cullet.filter fun x => !old x } s

/-- Issues the write of cullet entry `i` of a slice where it may go: after every older write of its row; while its row is MOVING
the entry goes to the hold area instead, where there is room (R128, R129, R169, R177). -/
def issueCull (sl i : Nat) (s : State) : State :=
  let v := slice s sl
  match v.cullet[i]? with
  | none => s
  | some e =>
    let sameRow := fun (x : Cull) => x.copy.table == e.copy.table && x.copy.row == e.copy.row
    if e.issued || e.failed || (v.cullet.take i).any sameRow || v.hold.any sameRow then s
    else match e.target s with
      | .hold =>
        if cullTiles (v.hold ++ [e]) > 1024 then s else toHold sl e s
      | .place p =>
        if !canIssue s p e.copy.bytes.length then s
        else
          let t := setSlice sl { v with cullet := modAt v.cullet i fun x => { x with issued := true, place := p } } s
          if p.tier = 4 then issueFlash p e.copy.bytes (some (sl, e.copy.table, e.copy.row, e.copy.lo)) none t else t

/-- Issues the write of hold entry `i` of a slice once its row is no longer MOVING; the entry stays until the write is complete
(R179). -/
def issueHeld (sl i : Nat) (s : State) : State :=
  let v := slice s sl
  match v.hold[i]? with
  | none => s
  | some e =>
    let sameRow := fun (x : Cull) => x.copy.table == e.copy.table && x.copy.row == e.copy.row
    if e.issued || e.failed || (v.hold.take i).any sameRow || v.cullet.any (fun x => x.issued && sameRow x) then s
    else match e.target s with
      | .hold => s
      | .place p =>
        if !canIssue s p e.copy.bytes.length then s
        else
          let t := setSlice sl { v with hold := modAt v.hold i fun x => { x with issued := true, place := p } } s
          if p.tier = 4 then issueFlash p e.copy.bytes (some (sl, e.copy.table, e.copy.row, e.copy.lo)) none t else t

/-- Puts a row into the cullet buffer of a slice, its write issued where it can be. -/
def toCullet (sl : Nat) (e : Cull) (s : State) : State :=
  let v := slice s sl
  issueCull sl v.cullet.length (setSlice sl { v with cullet := v.cullet ++ [e] } s)

/-- Sends an entry to its tier: to the hold area while its row is MOVING, else through the cullet buffer. -/
def sendDown (sl : Nat) (e : Cull) (s : State) : State :=
  match e.target s with
  | .hold => toHold sl e s
  | .place _ => toCullet sl e s

/-- Sends a dirty copy to its write-back target. -/
def writeBack (sl : Nat) (c : Copy) (s : State) : State := sendDown sl { copy := c } s

/-- Sends down the rows of commits that were kept in a slice, oldest first, as far as there is room (R123, R214). -/
def drainKept (sl : Nat) : Nat → State → State
  | 0, s => s
  | f + 1, s =>
    match (slice s sl).kept with
    | [] => s
    | c :: rest =>
      let t := writeBack sl c (setSlice sl { slice s sl with kept := rest } s)
      if (overSlices s t).isEmpty then drainKept sl f t else s

/-- The write of a committed row that has no way goes straight toward its target (R123). -/
def writeDirect (sl : Nat) (c : Copy) (s : State) : State :=
  let t := setSlice sl { slice s sl with kept := (slice s sl).kept ++ [c] } s
  drainKept sl (slice t sl).kept.length t

/-- Issues whatever write waits in a slice and may go. -/
def issueSlice (s : State) (sl : Nat) : State :=
  let a := (List.range (slice s sl).hold.length).foldl (fun u i => issueHeld sl i u) s
  let n := (slice a sl).cullet.length
  let b := (List.range n).foldl (fun u i => issueCull sl (i - (n - (slice u sl).cullet.length)) u) a
  drainKept sl (slice b sl).kept.length b

/-- Issues whatever write of any slice waits and may go. -/
def issueWaiting (s : State) : State := (Sparse.keys s.slices).foldl issueSlice s

/-- The dirty copies that an entry was written from become clean where they still hold its content: the tier has it. -/
def cleaned (e : Cull) (v : Slice) : Slice :=
  let mine := fun (c : Copy) => c.isId e.copy.table e.copy.row e.copy.lo && decide (c.bytes = e.copy.bytes)
  { v with
    sets := Sparse.mapVals {} (fun _ b =>
      { b with ways := b.ways.map fun w => if w.st == .dirty && mine w.copy then { w with st := .clean } else w }) v.sets
    punty := v.punty.map fun p => if p.dirty && mine p.copy then { p with dirty := false } else p }

/-! ### Allocation -/

/-- Takes the victim's way of a set for `new`; none where R121 finds no way. A dirty victim moves to its write-back. -/
def allocWay (sl k : Nat) (new : Way) (s : State) : Option (State × Nat) :=
  let v := slice s sl
  let b := setOf s v k
  (chooseVictim s k b).map fun w =>
    let old := b.ways.getD w {}
    let g := geomOf s (keyClass k)
    let t := setSlice sl (putSet k { ways := setAt b.ways w new, plru := touch g.ways w b.plru } v) s
    (if old.st == .dirty && !old.copy.dead s then writeBack sl old.copy t else t, w)

/-- Places a copy in the basin by replacement; none where the table bypasses or no way is free. -/
def basinPlace (sl : Nat) (st : WState) (c : Copy) (freq : Nat) (s : State) : Option State :=
  if bypasses s c.table then none
  else (allocWay sl (rowSet s c.table c.row) { st := st, copy := c, freq := freq } s).map (·.1)

/-- Places a copy released from a pin: in the basin, else written back if dirty (R137, R138). DESIGN CHOICE: FREQ starts at 0, as
the way is allocated by neither a fill nor a promotion (log entry 74). -/
def placeOrWrite (sl : Nat) (c : Copy) (dirty : Bool) (s : State) : State :=
  match basinPlace sl (if dirty then .dirty else .clean) c 0 s with
  | some t => t
  | none => if dirty then writeBack sl c s else s

/-! ### Reads -/

/-- The first hit of a read promotes a gob entry (R140). -/
def promoteGob (sl i : Nat) (s : State) : State :=
  let v := slice s sl
  match v.gob[i]? with
  | none => s
  | some c =>
    let t := setSlice sl { v with gob := v.gob.eraseIdx i } s
    match basinPlace sl .clean c 1 t with
    | some u => bump Reg.GOB_PROMOTE_CNT_COUNT sl 1 u
    | none => t

/-- What a read that hits a spot does to the slice (R120, R122, R140). -/
def hitSpot (sl : Nat) (sp : Spot) (s : State) : State :=
  let v := slice s sl
  match sp with
  | .way k w =>
    let b := setOf s v k
    setSlice sl (putSet k { ways := bumpFreq w b.ways, plru := touch (geomOf s (keyClass k)).ways w b.plru } v) s
  | .gob i => promoteGob sl i s
  | _ => s

/-- Object of a per-slice, per-class counter. -/
def sliceClass (sl cls : Nat) : Nat := sl * 16 + cls

/-- Counts a hit or miss of a slice and class. -/
def countHit (sl cls : Nat) (hit : Bool) (s : State) : State :=
  bump (if hit then Reg.BASIN_HIT_CNT_COUNT else Reg.BASIN_MISS_CNT_COUNT) (sliceClass sl cls) 1 s

/-- Drops gob entries, oldest first, until `n` more tiles fit 16,384 (R140). -/
def gobRoom (sl : Nat) : Nat → List Copy → Nat → State → List Copy × State
  | 0, g, _, s => (g, s)
  | f + 1, g, n, s =>
    if tilesOf (g.map (·.bytes)) + n ≤ 16384 then (g, s)
    else match g with
      | [] => (g, s)
      | _ :: rest => gobRoom sl f rest n (bump Reg.GOB_DROP_CNT_COUNT sl 1 s)

/-- Drops and counts the gob entries of a slice whose range holds no version any more (R140). -/
def dropDeadGob (s : State) (sl : Nat) : State :=
  let v := slice s sl
  let live := v.gob.filter fun x => !x.dead s
  if live.length = v.gob.length then s
  else bump Reg.GOB_DROP_CNT_COUNT sl (v.gob.length - live.length) (setSlice sl { v with gob := live } s)

/-- Drops the dead gob entries of every slice. -/
def dropDeadGobs (s : State) : State := (Sparse.keys s.slices).foldl dropDeadGob s

/-- Puts a row into the gob buffer of its slice. -/
def gobPut (sl : Nat) (c : Copy) (s : State) : State :=
  let g := (slice s sl).gob
  let r := gobRoom sl (g.length + 1) g (ceilDiv c.bytes.length 64) s
  setSlice sl { slice r.2 sl with gob := r.1 ++ [c] } r.2

/-! ### Reading a stored row (R55) -/

/-- What a read of a stored row gives. -/
inductive RowRead
  /-- its bytes, checked -/
  | ok (bytes : List Byte)
  /-- a tile failed twice, and no other copy stands for it (R55) -/
  | corrupt
  /-- the place was not reached -/
  | bad (r : Reach)
  deriving DecidableEq, Repr

/-- The tiles of a row that fail where some stored tiles failed in the store or on the way. -/
def Desc.spoilt (d : Desc) (ks : List Nat) : List Nat := (List.range d.tiles).filter fun t => ks.any fun k => d.spoils k t

/-- The tiles of a row at a place that fail their check: those that lie on poison, and those whose content fails. -/
def failingTiles (s : State) (d : Desc) (row : Nat) (p : Place) (bs : List Byte) : List Nat :=
  d.spoilt (poisonTiles s d p) ++ badTiles d row bs

/-- The bytes of a stored row in its tier, and its tiles that fail. -/
def storedTiles (s : State) (t row : Nat) (p : Place) : Except Reach (List Byte × List Nat) :=
  let d := (table s t).desc
  match reach s p d.stride with
  | .ok =>
    let bs := readTier s p d.stride
    .ok (bs, failingTiles s d row p bs)
  | r => .error r

/-- Every tile: a merge, a PREFETCH, a pin, a save, a fold and a move take the whole row. -/
def everyTile (_ : Nat) : Bool := true

/-- The places where versions of a row are stored: its home, and its delta slots. -/
def rowPlaces (s : State) (t row : Nat) : List Place :=
  homeNow s t row :: ((table s t).delta.filter fun d => d.row == row).map fun d => (table s t).slotPlace d.slot

/-- The check tiles of a stored row. -/
def Desc.checks (d : Desc) (bs : List Byte) : List Byte := bs.drop (64 * d.tiles)

/-- The other copy of a row whose tiles fail at a place (R55): the row in another version's storage, where its check tiles are those
of the failing copy and every tile that is used passes. DEDUCED: that its content is identical shows in its check words (log
entry 75). -/
def otherCopy (s : State) (uses : Nat → Bool) (t row : Nat) (p : Place) (bs : List Byte) : Option (List Byte) :=
  let d := (table s t).desc
  if (poisonTiles s d p).any fun k => decide (d.tiles ≤ k) then none
  else ((rowPlaces s t row).filter fun q => decide (q ≠ p)).findSome? fun q =>
    match storedTiles s t row q with
    | .ok (cs, bad) => if decide (d.checks cs = d.checks bs) && !bad.any uses then some cs else none
    | .error _ => none

/-- A row read at a place where the tiles `more` fail on the way beside those that fail in the store: its bytes, or those of its other
copy. -/
def readAt (s : State) (uses : Nat → Bool) (t row : Nat) (p : Place) (more : List Nat) : RowRead :=
  match storedTiles s t row p with
  | .error r => .bad r
  | .ok (bs, bad) =>
    if ((table s t).desc.spoilt more ++ bad).any uses then
      match otherCopy s uses t row p bs with
      | some cs => .ok cs
      | none => .corrupt
    else .ok bs

/-- The bytes of the row of a version as it stands now, and its tiles that fail: from a dirty copy, else from its tier (R15). -/
def rowTiles (s : State) (t ver row : Nat) : Except Reach (List Byte × List Nat) :=
  match dirtyCopy s t row ver with
  | some bs => .ok (bs, badTiles (table s t).desc row bs)
  | none => storedTiles s t row (rowPlace s t ver row)

/-- Reads the stored row of a version from its tier and checks all of it. -/
def readStored (s : State) (t row : Nat) (p : Place) : RowRead := readAt s everyTile t row p []

/-! ### Failed reads as statuses -/

/-- ST_DATA_CORRUPT for a row, with its TILE_CORRUPT record (R55, R304). -/
def corruptCmd (c : Cmd) (sl t row : Nat) (s : State) : State :=
  finish c.id (.dataCorrupt, t, row % 2 ^ 32)
    (logErr 0x0010 0 (some c.ctx) (unitId 1 sl) (t + row * 2 ^ 24) s)

/-- ST_HW_ERROR with the index of the record written for it (R165, R168). -/
def hwErrorCmd (c : Cmd) (code u info : Nat) (s : State) : State :=
  finish c.id (.hwError, s.errs.head, 0) (logErr code 0 (some c.ctx) u info s)

/-- The rim port used for a flash target: the lowest of RIM_PORTS that is up, else the lowest (R190, R191). -/
def flashPort (s : State) (t : Nat) : Nat :=
  let ps := (List.range 4).filter fun p => bit (rd Reg.NVMF_TGT_CFG_RIM_PORTS t s) p
  (ps.find? fun p => rdb Reg.RIM_PORT_STAT_UP p s).getD (ps.headD 0)

/-- The code of the record of a unit that does not serve: VAULT_OUT or CHANNEL_OUT. -/
def unitCode (u : Nat) : Nat := if u / 4096 = 6 then 0x0023 else 0x0024

/-- Ends a command whose access did not reach its place (R165, R168, R189, R191). -/
def reachCmd (c : Cmd) (r : Reach) (s : State) : State :=
  match r with
  | .ok => s
  | .hw u => hwErrorCmd c (unitCode u) u 0 s
  | .lost => finish c.id (lostVerdict c) s
  | .remote t => finish c.id (.remoteLost, flashPort s t, t) s

end Sys2Proof.Machine
end

