-- ==== Sys2Proof/Machine/Ways.lean ====
section
/-! DEFINITION. Copies whose tiles fail, the ways that keep failing, and the repair maps of the retention store (R141, R142, R305,
R323, R360, R361). -/

namespace Sys2Proof.Machine

/-! ### Repair maps -/

/-- Entries of a repair map. -/
def Repair.size (r : Repair) : Nat :=
  r.vaults.length + r.remaps.length + r.queued.length + r.soft.length + r.ways.length + r.failed.length

/-- A write of a region of the retention store is due (R361). -/
def dueWrite (region : Nat) (s : State) : State :=
  { s with ret := { s.ret with writing := if s.ret.writing.contains region then s.ret.writing else s.ret.writing ++ [region] } }

/-- Applies a repair and stores it; where its map is full it holds for the present power-on only (R361). -/
def addRepair (f : Repair → Repair) (s : State) : State :=
  let t := { s with repair := f s.repair }
  if (f s.ret.staged).size > s.ret.staged.size && Config.mapFull s.ret.staged.size then wr Reg.RET_STAT_MAP_FULL 0 1 t
  else dueWrite 3 { t with ret := { t.ret with staged := f t.ret.staged } }

/-! ### Failing ways -/

/-- Marks a way DISABLED in a set: slice, class, set, way. -/
def disableWay (s : State) (e : Nat × Nat × Nat × Nat) : State :=
  let v := slice s e.1
  let k := setKey e.2.1 e.2.2.1
  let b := setOf s v k
  setSlice e.1 (putSet k { b with ways := modAt b.ways e.2.2.2 fun _ => { st := .disabled } } v) s

/-- The way of a tracking entry. -/
def Track.isWay (x : Track) (cls set way : Nat) : Bool := x.cls == cls && x.set == set && x.way == way

/-- Last failure of a tracked way. -/
def Track.last (x : Track) : Nat := x.times.headD 0

/-- A tracking table without the way whose last failure is oldest, where it is full (R142). -/
def makeRoom (l : List Track) : List Track :=
  if l.length < 64 then l
  else match sortBy (fun a b => decide (a.last < b.last)) l with
    | [] => []
    | x :: _ => l.filter fun y => !y.isWay x.cls x.set x.way

/-- A way becomes DISABLED (R142): its record, its count, its place in the repair map, and the unit of the slice's disabled
ways is OFFLINE (R323). -/
def failWay (c : Option Nat) (sl cls set way : Nat) (s : State) : State :=
  let t := logErr 0x0012 0 c (unitId 5 sl) (cls + set * 2 ^ 8 + way * 2 ^ 32) (disableWay s (sl, cls, set, way))
  let u := setUnit (unitId 5 sl) { unit t (unitId 5 sl) with st := .offline } t
  bump Reg.BASIN_DISABLED_CNT_WAYS sl 1 (addRepair (fun r => { r with ways := r.ways ++ [(sl, cls, set, way)] }) u)

/-- Counts a failure of a way within WINDOW, and disables it beyond THRESH (R142). -/
def countWayFail (c : Option Nat) (sl cls set way : Nat) (s : State) : State :=
  let v := slice s sl
  let window := rd Reg.BASIN_WAY_FAIL_WINDOW 0 s * 1000000
  let old := ((v.track.find? fun x => x.isWay cls set way).map (·.times)).getD []
  let times := s.cycle :: old.filter fun x => decide (s.cycle < x + window)
  let rest := v.track.filter fun x => !x.isWay cls set way
  if times.length > rd Reg.BASIN_WAY_FAIL_THRESH 0 s then failWay c sl cls set way (setSlice sl { v with track := rest } s)
  else
    let kept := if old.isEmpty then makeRoom rest else rest
    setSlice sl { v with track := kept ++ [{ cls := cls, set := set, way := way, times := times }] } s

/-! ### Copies that fail (R141) -/

/-- A stored row with every check word inverted. -/
def spoilChecks (d : Desc) (row : Nat) (bs : List Byte) : List Byte :=
  let ws := (List.range d.tiles).flatMap fun t => toLE 4 (tileCheck (tileOf bs t) row t ^^^ 0xFFFFFFFF)
  bs.take (64 * d.tiles) ++ padTo (64 * d.tc) ws

/-- Whether a tile of a copy that its use takes fails its check (R55). -/
def Copy.fails (s : State) (uses : Nat → Bool) (c : Copy) : Bool :=
  (badTiles (Machine.table s c.table).desc c.row c.bytes).any uses

/-- The copy as it is written where it cannot be repaired. -/
def Copy.spoiled (s : State) (c : Copy) : Copy := { c with bytes := spoilChecks (Machine.table s c.table).desc c.row c.bytes }

/-- Handles a copy at a spot that fails twice (R141): a CLEAN copy goes; a DIRTY one is written to its target with every check
word inverted. The flag says that the read fails with it. -/
def failSpot (c : Option Nat) (sl : Nat) (sp : Spot) (s : State) : State × Bool :=
  let v := slice s sl
  match sp with
  | .way k w =>
    let b := setOf s v k
    let x := b.ways.getD w {}
    let t := countWayFail c sl (keyClass k) (k % 2 ^ 24) w (setSlice sl (putSet k { b with ways := setAt b.ways w {} } v) s)
    if x.st == .dirty then (writeBack sl (x.copy.spoiled s) t, true) else (t, false)
  | .gob i => (setSlice sl { v with gob := v.gob.eraseIdx i } s, false)
  | .punty i =>
    match v.punty[i]? with
    | none => (s, false)
    | some p =>
      let t := setSlice sl { v with punty := v.punty.eraseIdx i } s
      if p.dirty then (writeBack sl (p.copy.spoiled s) t, true)
      else match readStored s p.copy.table p.copy.row (rowPlace s p.copy.table p.copy.lo p.copy.row) with
        | .ok bs => (setSlice sl { v with punty := modAt v.punty i fun q => { q with copy := { q.copy with bytes := bs } } } s, false)
        | _ => (t, false)
  | .cull i => (setSlice sl { v with cullet := modAt v.cullet i fun e => { e with copy := e.copy.spoiled s } } s, true)
  | .hold i => (setSlice sl { v with hold := modAt v.hold i fun e => { e with copy := e.copy.spoiled s } } s, true)
  | .kept i => (setSlice sl { v with kept := modAt v.kept i fun x => x.spoiled s } s, true)

/-- The check of the copies that would serve a read of some tiles of a row in a slice (R55, R141): what the engine does with those that fail;
the flag says that the read ends with ST_DATA_CORRUPT. At most one copy of each structure covers a version. -/
def checkCopies (uses : Nat → Bool) (c : Option Nat) (sl t row ver : Nat) : Nat → State → State × Bool
  | 0, s => (s, false)
  | n + 1, s =>
    match findSpot s (slice s sl) t row ver with
    | none => (s, false)
    | some sp =>
      match copyAt (slice s sl) sp with
      | none => (s, false)
      | some cp =>
        if !cp.fails s uses then (s, false)
        else
          let x := failSpot c sl sp s
          if x.2 then (x.1, true) else checkCopies uses c sl t row ver n x.1

/-- An upset of one bit in the row SRAM of a slice (R305): the 8-byte word `addr` of its granules, the classes in ascending order
(log entry 20). -/
def upsetWays (sl addr : Nat) : List (Nat × Geom) → Nat → State → State
  | [], _, s => s
  | (c, g) :: rest, base, s =>
    let n := g.granules * 65536 / 8
    if addr ≥ base + n then upsetWays sl addr rest (base + n) s
    else
      let o := (addr - base) * 8
      let size := 2 ^ g.slotLog2
      let w := o / size % g.ways
      let k := setKey c (o / size / g.ways)
      let v := slice s sl
      let flip := fun (x : Way) =>
        { x with copy := { x.copy with bytes := modAt x.copy.bytes (o % size) fun b => b ^^^ 1#8 } }
      if (Sparse.get {} v.sets k).ways.length ≤ w then s
      else setSlice sl (putSet k { setOf s v k with ways := modAt (setOf s v k).ways w flip } v) s

end Sys2Proof.Machine
end

