-- ==== Sys2Proof/Machine/Dram.lean ====
section
/-! DEFINITION. Errors, scrub and repair of the DRAM tiers (R161 to R165, R301, R304). -/

namespace Sys2Proof.Machine

/-- Key of a DRAM row in the error counts of a unit. -/
def rowKey (bank row : Nat) : Nat := bank * 2 ^ 15 + row

/-- Sets the count of corrected errors of a DRAM row. -/
def setFound (u key n : Nat) (s : State) : State :=
  let m := memUnit s u
  setMemUnit u { m with found := Sparse.set 0 m.found key n } s

/-- Spare rows of a cistern bank in use (R162). -/
def sparesUsed (s : State) (vault bank : Nat) : Nat := (s.repair.remaps.filter fun e => e.1 == vault && e.2.1 == bank).length

/-- Shows the rows queued for remapping (R163). -/
def showPending (s : State) : State := wr Reg.CIST_REMAP_PEND_ROWS 0 s.repair.queued.length s

/-- Queues a cistern row for remapping at the next start (R163). -/
def queueRemap (vault bank row : Nat) (s : State) : State :=
  if s.repair.queued.contains (vault, bank, row) then s
  else showPending (addRepair (fun r => { r with queued := r.queued ++ [(vault, bank, row)] }) s)

/-- Remaps a cistern row on the fly; its content does not change (R162). With no free spare it is queued (R163). -/
def remapRow (vault bank row : Nat) (s : State) : State :=
  if sparesUsed s vault bank ≥ 16 then queueRemap vault bank row s
  else bump Reg.CIST_REMAP_CNT_COUNT 0 1
    (setFound (unitId 6 vault) (rowKey bank row) 0 (addRepair (fun r => { r with remaps := r.remaps ++ [(vault, bank, row)] }) s))

/-- Repairs an HBM4 row softly, or records that the stack has no resource left for it (R164). DESIGN CHOICE: the row's count starts
again at 0 in both cases, so that without a resource the record recurs at each further threshold (log entry 76). -/
def softRepair (ks : List Nat) (channel bank row : Nat) (s : State) : State :=
  let used := (s.repair.soft.filter fun e => e.1 / 32 == channel / 32).length
  let t := setFound (unitId 7 channel) (rowKey bank row) 0 s
  if Config.noSoftRepair channel (rowKey bank row) used then
    bump Reg.HBM_REPAIR_EXHAUST_COUNT 0 1 (logEach 0x0022 0 ks (unitId 7 channel) (row * 2 ^ 32) t)
  else addRepair (fun r => { r with soft := r.soft ++ [(channel, bank, row)] }) t

/-- Counts the corrected errors of a DRAM row; at the threshold it is repaired (R161, R164). -/
def countCorrected (ks : List Nat) (u : Nat) (f : DramFinding) (s : State) : State :=
  let key := rowKey f.bank.toNat f.row.toNat
  let n := Sparse.get 0 (memUnit s u).found key + f.corrected
  let t := bump Reg.MEM_ECC_CE_CNT_COUNT u f.corrected (setFound u key n s)
  if f.corrected = 0 ∨ n < rd Reg.CIST_SCRUB_THRESH 0 s then t
  else if u / 4096 = 6 then remapRow (u % 4096) f.bank.toNat f.row.toNat t
  else softRepair ks (u % 4096) f.bank.toNat f.row.toNat t

/-- An uncorrected error: counted, recorded, and its cistern row queued (R163, R165). -/
def countUncorrected (ks : List Nat) (u : Nat) (f : DramFinding) (s : State) : State :=
  let m := memUnit s u
  let t := bump Reg.MEM_ECC_UE_CNT_COUNT u 1 (setMemUnit u { m with ues := m.ues + 1 } s)
  let v := logEach 0x0020 0 ks u (f.bank.toNat + f.row.toNat * 2 ^ 32) t
  if u / 4096 = 6 then queueRemap (u % 4096) f.bank.toNat f.row.toNat v else v

/-- What the reads of one DRAM row found. -/
def noteDram (ks : List Nat) (u : Nat) (s : State) (f : DramFinding) : State :=
  let t := countCorrected ks u f s
  if f.uncorrected then countUncorrected ks u f t else t

/-- The tiles of a row that fail with an uncorrected error. -/
def eccFails (l : List EccFinding) : List Nat := (l.filter (·.uncorrected)).map (·.tile)

/-- What the read of one tile of a row at a place found, charged to the DRAM row at its address (R146, R155, R161 to R164). -/
def noteTile (ks : List Nat) (p : Place) (s : State) (e : EccFinding) : State :=
  match dramRow s p.tier (p.addr + 64 * e.tile) with
  | some (u, bank, row) =>
    noteDram ks u s
      { bank := BitVec.ofNat 5 bank, row := BitVec.ofNat 15 row, corrected := e.corrected, uncorrected := e.uncorrected }
  | none => s

/-- What the read of a stored row found: the errors that the DRAM reports for its tiles, and an uncorrected one for each that lies on
poison (R163). -/
def noteReads (ks : List Nat) (d : Desc) (p : Place) (l : List EccFinding) (s : State) : State :=
  if p.tier = 1 ∨ p.tier = 2 then
    let mine := l.filter fun e => decide (e.tile < d.allTiles)
    let more := (poisonTiles s d p).filter fun k => !(eccFails mine).contains k
    (mine ++ more.map fun k => ({ tile := k, corrected := 0, uncorrected := true } : EccFinding)).foldl (noteTile ks p) s
  else s

/-- Whether any tile of a fetched row lies in a DRAM row of a vault. -/
def Fetch.meets (s : State) (vault : Nat) (l : List DramFinding) (f : Fetch) : Bool :=
  f.weir && f.place.tier == 1 && (List.range (Machine.table s f.table).desc.allTiles).any fun k =>
    match dramRow s 1 (f.place.addr + 64 * k) with
    | some (u, bank, row) => u == unitId 6 vault && l.any fun e => e.uncorrected && e.bank.toNat == bank && e.row.toNat == row
    | none => false

/-- A scrub that finds an uncorrected error in a row a weir is reading fails its tile: the row is read again (R168). -/
def failMet (vault : Nat) (l : List DramFinding) (s : State) : State :=
  { s with fetches := s.fetches.map fun f => if f.meets s vault l then { f with fails := f.fails + 1 } else f }

/-- CISTERN_SCRUB (R161): a vault has read all its rows once. Its counts begin a new period; those of the channels begin one
with vault 0 (log entry 21). -/
def execCisternScrub (vault : BitVec 9) (found : List DramFinding) (s : State) : Host.Outcome State Fault Refusal :=
  done s (
    let u := unitId 6 vault.toNat
    if vault.toNat ≥ 260 || !rdb Reg.CIST_SCRUB_EN 0 s || !unitServes s u then s
    else
      let t := failMet vault.toNat found (found.foldl (noteDram [] u) s)
      let fresh := fun (m : MemUnit) => { m with found := [], ues := 0 }
      { t with mems := Sparse.mapVals {} (fun k m => if k == u || (vault == 0#9 && k / 4096 == 7) then fresh m else m) t.mems })

end Sys2Proof.Machine
end

