-- ==== Sys2Proof/Machine/Placement.lean ====
section
/-! DEFINITION. Placement pools and moves of rows, and the skimmer's counts (R171 to R187). -/

namespace Sys2Proof.Machine

/-! ### Pools (R173) -/

/-- A slot in use: its place and bytes. -/
abbrev Used := Place × Nat

/-- a rounded up to a multiple of n. -/
def alignUp (n a : Nat) : Nat := (a + n - 1) / n * n

/-- Slots in use in a pool: those rows stand in, those moves fill, those a swap left. A row in flash takes whole logical blocks. -/
def poolUsed (s : State) (tier : Nat) : List Used :=
  let size := fun (p : Place) (n : Nat) => if tier = 4 then alignUp (lbaBytes s p.target) n else n
  dedup ((s.place.entries.flatMap fun e =>
    let n := (table s e.table).desc.stride
    (if e.curTier = tier then [(e.cur, size e.cur n)] else [])
    ++ (if e.moving && e.newTier == tier then [(e.new, size e.new n)] else [])
    ++ (e.next.filter fun m => m.2.tier == tier).map fun m => (m.2, size m.2 n))
  ++ (s.place.old.filter fun o => o.place.tier == tier).map fun o => (o.place, size o.place o.stride))

/-- Length of a pool in bytes over all it spans: 256 channels for the HBM4 pool. -/
def poolBytes (s : State) (tier : Nat) : Nat :=
  let n := rd Reg.PLACE_POOL_LEN_LEN tier s
  if tier = 2 then 256 * n else n

/-- Bytes of a pool in use. -/
def poolUsedBytes (s : State) (tier : Nat) : Nat := sumOf ((poolUsed s tier).map (·.2))

/-- Whether [a, a + n) is apart from every used interval. -/
def apart (used : List (Nat × Nat)) (a n : Nat) : Bool := used.all fun u => decide (a + n ≤ u.1) || decide (u.1 + u.2 ≤ a)

/-- The lowest start of `n` bytes within [base, base + len), apart from the used intervals, at an alignment, and for `page`
other than 0 not crossing a multiple of it. -/
def firstFit (used : List (Nat × Nat)) (base len n align page : Nat) : Option Nat :=
  let starts := (base :: used.map fun u => u.1 + u.2).flatMap fun a =>
    let x := alignUp align a
    if page = 0 then [x] else [x, alignUp page a]
  let ok := fun a => decide (base ≤ a) && decide (a + n ≤ base + len) && apart used a n
    && (page == 0 || decide (n > page) || decide (a % page + n ≤ page))
  (starts.filter ok).foldl (fun (b : Option Nat) a => match b with
    | none => some a
    | some x => some (min x a)) none

/-- A slot of the cistern pool: granules hold rows of one stride, none straddles. -/
def cisternSlot (used : List Used) (base len n : Nat) : Option Place :=
  (List.range (len / 65536)).findSome? fun g =>
    let lo := base + 65536 * g
    let here := used.filter fun u => decide (lo ≤ u.1.addr) && decide (u.1.addr < lo + 65536)
    if here.all fun u => u.2 == n then
      ((List.range (65536 / max n 1)).find? fun i => !here.any fun u => u.1.addr == lo + i * n).map fun i =>
        (⟨1, 0, lo + i * n⟩ : Place)
    else none

/-- Channel and channel address of a place of the HBM4 pool. -/
def chanOf (p : Place) : Nat × Nat := hbmLocate p.addr

/-- A slot of the HBM4 pool: the channel near the row's home slice with the most free bytes, the lowest on a tie. -/
def hbmSlot (used : List Used) (base len n row : Nat) : Option Place :=
  let usedIn := fun ch => (used.filter fun u => (chanOf u.1).1 == ch).map fun u => ((chanOf u.1).2, u.2)
  let chans := (List.range 16).map fun i => 16 * homeOf row + i
  let best := chans.foldl (fun (b : Option Nat) ch => match b with
    | none => some ch
    | some x => if sumOf ((usedIn ch).map (·.2)) < sumOf ((usedIn x).map (·.2)) then some ch else b) none
  best.bind fun ch => (firstFit (usedIn ch) base len n 64 1024).map fun a => (⟨2, 0, hbmLocalBase + ch * 2 ^ 31 + a⟩ : Place)

/-- A free slot of a pool for a row of `n` bytes. -/
def poolSlot (s : State) (used : List Used) (tier n row : Nat) : Option Place :=
  let base := rd Reg.PLACE_POOL_BASE_BASE tier s
  let len := rd Reg.PLACE_POOL_LEN_LEN tier s
  let tgt := rd Reg.PLACE_POOL_TARGET_TARGET tier s
  let ivs := used.map fun u => (u.1.addr, u.2)
  match tier with
  | 1 => cisternSlot used base len n
  | 2 => hbmSlot used base len n row
  | 3 => (firstFit ivs base len n 64 0).map fun a => (⟨3, tgt, a⟩ : Place)
  | 4 =>
    let b := lbaBytes s tgt
    (firstFit ivs base len (alignUp b n) b 0).map fun a => (⟨4, tgt, a⟩ : Place)
  | _ => none

/-- Free KiB of a pool. -/
def poolFreeKib (s : State) (tier : Nat) : Nat := (poolBytes s tier - poolUsedBytes s tier) / 1024

/-! ### The row-placement table -/

/-- Entries of a set. -/
def rptCount (es : List PEntry) (k : Nat) : Nat := (es.filter fun e => rptSet e.table e.row == k).length

/-- Rows MOVING now. -/
def movingCount (s : State) : Nat := (s.place.entries.filter fun e => e.moving && !e.waiting).length

/-- Modifies the entry of a row. -/
def modEntry (t row : Nat) (f : PEntry → PEntry) (s : State) : State :=
  { s with place := { s.place with entries := s.place.entries.map fun e =>
    if e.table == t && e.row == row then f e else e } }

/-- Removes the entry of a row. -/
def dropEntry (t row : Nat) (s : State) : State :=
  { s with place := { s.place with entries := s.place.entries.filter fun e => !(e.table == t && e.row == row) } }

/-- The lowest entry of a set that no row holds (R171). -/
def freeWay (es : List PEntry) (k : Nat) : Nat :=
  ((List.range 8).find? fun w => !es.any fun e => rptSet e.table e.row == k && e.way == w).getD 0

/-- The entry after a move to a place is reserved for it; the place of tier 0 is the shard-map home. -/
def reserveMove (s : State) (t row : Nat) (src : Bool) (tgt : Place) (cmds : List Nat) : PEntry :=
  match pentry? s t row with
  | some x =>
    { x with moving := true, waiting := true, copied := false, retried := false, read := none, src := src, newTier := tgt.tier,
             new := tgt, cmds := x.cmds ++ cmds }
  | none =>
    { table := t, row := row, moving := true, src := src, curTier := 0, cur := ⟨0, 0, 0⟩, newTier := tgt.tier, new := tgt,
      epoch := 0, waiting := true, way := freeWay s.place.entries (rptSet t row), cmds := cmds }

/-- Reserves the move of a row. -/
def putMove (t row : Nat) (src : Bool) (tgt : Place) (cmds : List Nat) (s : State) : State :=
  let e := reserveMove s t row src tgt cmds
  { s with place := { s.place with
    entries := (s.place.entries.filter fun x => !(x.table == t && x.row == row)) ++ [e]
    filter := dedup (basinSet t row 65536 :: s.place.filter) } }

/-! ### ROW_MIGRATE (R174, R175) -/

/-- What a ROW_MIGRATE does with a row. -/
inductive MoveAct
  /-- nothing -/
  | stay
  /-- it waits for the swap of the move that runs -/
  | join
  /-- it is moved again after its swap -/
  | again
  /-- a move starts -/
  | start
  deriving DecidableEq, Repr

/-- The action of R174 for a row and DEST_TIER. -/
def moveAct (s : State) (t row dest : Nat) : MoveAct :=
  match pentry? s t row with
  | none => if dest = 0 then .stay else .start
  | some e =>
    if e.moving then (if e.newTier = dest then .join else .again)
    else if e.curTier = dest then .stay else .start

/-- Reservations as they are built row by row: the state so far, entries short by bytes, pool bytes short. -/
abbrev MoveAcc := State × Nat × Nat

/-- Destination of a row: the home, or a free slot of the pool. -/
def moveDest (s : State) (t row dest : Nat) : Option Place :=
  if dest = 0 then some ⟨0, 0, 0⟩ else poolSlot s (poolUsed s dest) dest (table s t).desc.stride row

/-- Reserves for one row. -/
def reserveRow (id t dest : Nat) (acc : MoveAcc) (row : Nat) : MoveAcc :=
  let (s, e, p) := acc
  let n := (table s t).desc.stride
  match moveAct s t row dest with
  | .stay => (modEntry t row (fun x => { x with src := false }) s, e, p)
  | .join => (modEntry t row (fun x => { x with src := false, cmds := x.cmds ++ [id] }) s, e, p)
  | .again =>
    let last := (pentry? s t row).bind fun x => x.next.getLast?
    let tgt := match last with
      | some m => if m.2.tier = dest then some m.2 else moveDest s t row dest
      | none => moveDest s t row dest
    match tgt with
    | some g => (modEntry t row (fun x => { x with src := false, next := x.next ++ [(id, g)] }) s, e, p)
    | none => (s, e, p + n)
  | .start =>
    let lacks := (pentry? s t row).isNone
    let full := lacks && decide (rptCount s.place.entries (rptSet t row) ≥ 8)
    match moveDest s t row dest with
    | some tgt => if full then (s, e + 32, p) else (putMove t row false tgt [id] s, e, p)
    | none => (s, if full then e + 32 else e, p + n)

/-- Reserves every row or none: ST_NO_SPACE with 0x30 for entries, 0x31 for the pool, and the shortfall in KiB. -/
def reserveAll (id t dest : Nat) (rows : List Nat) (s : State) : Except Verdict State :=
  let r := rows.foldl (reserveRow id t dest) (s, 0, 0)
  if r.2.1 > 0 then .error (.noSpace, 0x30, ceilDiv r.2.1 1024)
  else if r.2.2 > 0 then .error (.noSpace, 0x31, ceilDiv r.2.2 1024)
  else .ok r.1

/-- Whether any entry still names a command. -/
def moveWaits (s : State) (id : Nat) : Bool := s.place.entries.any fun e => e.cmds.contains id || e.next.any fun m => m.1 == id

/-- A ROW_MIGRATE whose rows have all swapped, and whose forwarded rows are acknowledged, is done (R181). -/
def settleMigrate (id : Nat) (s : State) : State :=
  match cmd? s id with
  | none => s
  | some c =>
    match c.work with
    | .rows r =>
      if c.op == 8 && c.phase == .running && r.intake && !moveWaits s id && !s.remote.migs.any fun m => m.cmd == id then
        finish id okVerdict s
      else s
    | _ => s

/-- Numbers of MIGRATE_REQs served: above every admission number. -/
def servedBase : Nat := 2 ^ 64

/-- A MIGRATE_ACK (R174, R193: as the PARTIAL_RSP header, without partials). -/
def migrateAckBytes (s : State) (st req : Nat) : List Byte :=
  toLE 4 (6 + st * 2 ^ 8 + 2 ^ 16) ++ toLE 4 (rd Reg.CHIP_ID_CHIP 0 s) ++ toLE 4 req ++ toLE 20 0

/-- A served MIGRATE_REQ whose rows have swapped is acknowledged. -/
def settleServed (s : State) : State :=
  let fin := s.remote.migServed.filter fun m => !moveWaits s m.id
  fin.foldl (fun t m => sendPeer m.chip (migrateAckBytes t 0 m.req) t)
    { s with remote := { s.remote with migServed := s.remote.migServed.filter fun m => moveWaits s m.id } }

/-- Settles the commands that waited for moves. -/
def settleMoves (ids : List Nat) (s : State) : State :=
  settleServed ((dedup ids).foldl (fun t i => settleMigrate i t) s)

/-! ### Moves -/

/-- Whether a write to the current home of a row is issued and not complete (R176 step 1). -/
def homeWriteOut (s : State) (t row : Nat) : Bool :=
  s.slices.any fun e => (e.2.cullet ++ e.2.hold).any fun c =>
    c.issued && c.copy.table == t && c.copy.row == row && decide (c.place = homeNow s t row)

/-- Place a move fills. -/
def moveTo (s : State) (e : PEntry) : Place := if e.newTier = 0 then (table s e.table).homePlace e.row else e.new

/-- NVMe commands of moves that are over are nobody's. -/
def leaveIos (ended : Nat × Nat → Bool) (s : State) : State :=
  { s with remote := { s.remote with ios := s.remote.ios.map fun io => if io.move.any ended then { io with move := none } else io } }

/-- Goes on with the entry of a row whose present move is over, its swap done or its move cancelled. -/
def nextMove (t row : Nat) (s : State) : State :=
  let next := fun (e : PEntry) => if e.table == t && e.row == row then e.goNext else some e
  leaveIos (fun m => m == (t, row)) { s with place := { s.place with entries := s.place.entries.filterMap next } }

/-- The commands that wait for a row's moves. -/
def PEntry.waiters (e : PEntry) : List Nat := e.cmds ++ e.next.map (·.1)

/-- Cancels a move: the row keeps its former state, its held writes go to its current home, and the move that follows waits to
start (R176, R182, R199). -/
def cancelMove (t row : Nat) (s : State) : State :=
  match pentry? s t row with
  | none => s
  | some e => settleMoves e.waiters (issueWaiting (nextMove t row s))

/-- Whether a move may start or go on now: its command is issued, fewer than 8,192 rows are MOVING, and both places are reached
(R175). -/
def moveRuns (s : State) (e : PEntry) : Bool :=
  let n := (table s e.table).desc.stride
  let idle := !e.cmds.isEmpty && e.cmds.all fun i => (cmd? s i).any fun c => c.phase == .admitted
  e.moving && !e.copied && !(e.waiting && (idle || decide (movingCount s ≥ 8192)))
    && reach s (homeNow s e.table e.row) n == .ok && reach s (moveTo s e) n == .ok

/-- Whether an NVMe command of a row's move is outstanding. -/
def moveIoOut (s : State) (t row : Nat) : Bool := s.remote.ios.any fun io => io.move == some (t, row)

/-- The row goes to its new slot (R176 step 4): by NVMe where that lies in flash, once no other write of its blocks is out (R190). -/
def moveWrite (e : PEntry) (bs : List Byte) (s : State) : State :=
  let p := moveTo s e
  let keep := modEntry e.table e.row (fun x => { x with read := some bs }) s
  if p.tier = 4 then
    if canIssue s p bs.length then issueFlash p bs none (some (e.table, e.row)) keep else keep
  else modEntry e.table e.row (fun x => { x with copied := true, read := none }) (writeTier p bs s)

/-- A tile of a moving row failed: the row is read once more, then its move is cancelled with a record (R176). -/
def moveFail (e : PEntry) (s : State) : State :=
  if e.retried then
    cancelMove e.table e.row (bump Reg.PLACE_CANCEL_CNT_COUNT 0 1 (logErr 0x0014 0 none 0 (e.table + e.row * 2 ^ 24) s))
  else modEntry e.table e.row (fun x => { x with retried := true, read := none }) s

/-- Steps 2 to 4 of R176: the row is read, by NVMe where it lies in flash, checked, and written. -/
def moveRow (e : PEntry) (upset : List Nat) (ecc : List EccFinding) (s : State) : State :=
  let d := (table s e.table).desc
  let src := homeNow s e.table e.row
  if src.tier = 4 ∧ e.read.isNone then
    let span := lbaSpan s src.target src.addr d.stride
    startIo { id := 0, target := src.target, lba := span.1, blocks := span.2, write := false, fetch := none, back := none,
              move := some (e.table, e.row), tries := 0 } [] s
  else if src.tier ≠ 4 ∧ e.read.isSome then moveWrite e (e.read.getD []) s
  else
    let t := noteReads [] d src ecc s
    let bs := e.read.getD (readTier s src d.stride)
    let bad := d.spoilt (upset ++ eccFails ecc) ++ failingTiles s d e.row src bs
    if bad.isEmpty then moveWrite e bs t else moveFail e t

/-- MOVE_START (R176): the row becomes MOVING; once no write to its current home is out, it is read, checked and copied to its new
slot. A row whose move has begun goes on where it waits. -/
def execMoveStart (table : TableNo) (row : BitVec 40) (met : ReadMet) (s : State) : Host.Outcome State Fault Refusal :=
  done s (match pentry? s table.toNat row.toNat with
    | none => s
    | some e =>
      if !moveRuns s e || moveIoOut s e.table e.row then s
      else
        let t := modEntry e.table e.row (fun x => { x with waiting := false }) s
        if homeWriteOut s e.table e.row then t else moveRow { e with waiting := false } met.upset met.ecc t)

/-- Fetches out to a place. -/
def fetchesAt (s : State) (p : Place) : List Nat := (s.fetches.filter fun f => decide (f.place = p)).map (·.id)

/-- A pool slot left by a swap is kept while fetches issued to it are out (R180). -/
def leaveSlot (e : PEntry) (s : State) : State :=
  let fs := fetchesAt s e.cur
  if e.curTier = 0 ∨ fs.isEmpty then s
  else { s with place := { s.place with
    old := s.place.old ++ [{ place := e.cur, stride := (table s e.table).desc.stride, fetches := fs }] } }

/-- Swaps one row at an epoch (R179); the move that follows it waits to start (R174). -/
def swapRow (n : Nat) (s : State) (e : PEntry) : State :=
  nextMove e.table e.row (modEntry e.table e.row (fun x => { x with curTier := e.newTier, cur := e.new, epoch := n }) (leaveSlot e s))

/-- A migration epoch (R179): every MOVING row whose copy is complete is swapped, and the held writes of swapped rows are issued to
their new homes. -/
def migrationEpoch (s : State) : State :=
  let n := (rd Reg.PLACE_EPOCH_EPOCH 0 s + 1) % 2 ^ 32
  let es := s.place.entries.filter fun e => e.moving && e.copied
  settleMoves (es.flatMap PEntry.waiters) (issueWaiting (es.foldl (swapRow n) (wr Reg.PLACE_EPOCH_EPOCH 0 n s)))

/-- MIGRATION_EPOCH (R179). -/
def execMigrationEpoch (s : State) : Host.Outcome State Fault Refusal := done s (migrationEpoch s)

/-- Before a reset releases: a final epoch, and every other move is cancelled (R182). -/
def endMoves (s : State) : State :=
  let t := migrationEpoch s
  (t.place.entries.filter (·.moving)).foldl
    (fun u e => cancelMove e.table e.row (modEntry e.table e.row (fun x => { x with next := [] }) u)) t

/-- A table's last version is FREE: its moves are cancelled, its entries and slots freed (R173, R199). -/
def dropTablePlaces (t : Nat) (s : State) : State :=
  let es := s.place.entries.filter fun e => e.table == t
  settleMoves (es.flatMap PEntry.waiters)
    (leaveIos (fun m => m.1 == t) { s with place := { s.place with entries := s.place.entries.filter fun e => e.table != t } })

/-! ### Load and the skimmer -/

/-- Load record of a row's shard. -/
def loadRecord (s : State) (t row : Nat) : Nat :=
  rd Reg.SKIM_TABLE_CFG_RECORD_BASE t s + row / 2 ^ (table s t).desc.shardLog2

/-- Adds to a field of a load record of a tracked table: 0 USES, 1 FETCHES, 2 KIB, 3 REMOTE (R183). KIB is kept in bytes. -/
def addLoad (t row fld n : Nat) (s : State) : State :=
  if rdb Reg.SKIM_TABLE_CFG_TRACK t s then
    let k := loadRecord s t row * 4 + fld
    { s with place := { s.place with load := Sparse.set 0 s.place.load k (satAdd (if fld = 2 then 42 else 32) (Sparse.get 0 s.place.load k) n) } }
  else s

/-- Keys of the four sketch counters of a row (R184). -/
def sketchKeys (t row : Nat) : List Nat := (List.range 4).map fun d => d * 2 ^ 20 + basinSet (t + 4096 * d) row 1048576

/-- The estimate of a row. -/
def estimate (p : Placement) (t row : Nat) : Nat :=
  ((sketchKeys t row).map fun k => Sparse.get 0 p.sketch k).foldl min 65535

/-- Whether a row has a pin in any slice. -/
def isPinned (s : State) (t row : Nat) : Bool :=
  s.slices.any fun e => e.2.punty.any fun p => p.copy.table == t && p.copy.row == row

/-- The advice record of a candidate (R185). -/
def adviceBytes (t row est tier : Nat) (phase : Bool) : List Byte :=
  toLE 2 t ++ toLE 5 row ++ toLE 1 0 ++ toLE 2 est ++ toLE 1 tier ++ toLE 4 0 ++ toLE 1 (if phase then 128 else 0)

/-- Writes an advice record, or drops it where the ring is full. DESIGN CHOICE: it is dropped and counted too where the ring lies in
host memory and the sluice is not OPEN (log entry 77). -/
def advise (t row est : Nat) (s : State) : State :=
  let dep := 2 ^ rd Reg.SKIM_RING_CFG_DEPTH_LOG2 0 s
  let pi := rd Reg.SKIM_RING_PI_PI 0 s
  let nx := (pi + 1) % dep
  if nx = rd Reg.SKIM_RING_CI_CI 0 s ∨ !(isChip (rd Reg.SKIM_RING_BASE_BASE 0 s * 4096) || s.host.st == .opened) then bump Reg.SKIM_DROP_CNT_COUNT 0 1 s
  else
    let tier := ((pentry? s t row).map (·.curTier)).getD 0
    let u := writeMem 0 (rd Reg.SKIM_RING_BASE_BASE 0 s * 4096 + 16 * pi) (adviceBytes t row est tier s.place.phase) s
    wr Reg.SKIM_RING_PI_PI 0 nx { u with place := { u.place with phase := if nx = 0 then !u.place.phase else u.place.phase } }

/-- A move the skimmer starts: SRC 1, within BUDGET (R185). -/
def autoMove (t row : Nat) (s : State) : State :=
  let dest := rd Reg.SKIM_CFG_DEST 0 s
  let slot := poolSlot s (poolUsed s dest) dest (table s t).desc.stride row
  let room := (pentry? s t row).isSome || decide (rptCount s.place.entries (rptSet t row) < 8)
  let busy := ((pentry? s t row).map (·.moving)).getD false
  if !rdb Reg.SKIM_TABLE_CFG_PROMOTE t s || busy || ((pentry? s t row).any fun e => e.curTier != 0 && !e.src) then s
  else match slot with
    | some p =>
      if room && decide (s.place.started < rd Reg.SKIM_CFG_BUDGET 0 s) then
        let u := putMove t row true p [] s
        { u with place := { u.place with started := u.place.started + 1 } }
      else bump Reg.SKIM_SKIP_CNT_COUNT 0 1 s
    | none => bump Reg.SKIM_SKIP_CNT_COUNT 0 1 s

/-- What a candidate leads to (R185). -/
def candidate (t row est : Nat) (s : State) : State :=
  let dest := rd Reg.SKIM_CFG_DEST 0 s
  let placed := (pentry? s t row).any fun e => !e.moving && e.curTier == dest
  if isPinned s t row || placed then s
  else
    let u := { s with place := { s.place with candidates := s.place.candidates + 1 } }
    match rd Reg.SKIM_CFG_MODE 0 s with
    | 1 => advise t row est u
    | 2 => autoMove t row u
    | _ => u

/-- A fetch that missed every structure: the load record, the sketch, and the candidate rule (R183 to R185). -/
def noteFetch (t row : Nat) (s : State) : State :=
  if rdb Reg.SKIM_TABLE_CFG_TRACK t s then
    let a := addLoad t row 2 (table s t).desc.stride (addLoad t row 1 1 s)
    let before := estimate a.place t row
    let sk := (sketchKeys t row).foldl (fun m k => Sparse.set 0 m k (min (Sparse.get 0 m k + 1) 65535)) a.place.sketch
    let b := { a with place := { a.place with sketch := sk } }
    let est := estimate b.place t row
    if est ≠ before ∧ est = rd Reg.SKIM_THRESH_H 0 b then candidate t row est b else b
  else s

/-- The threshold for the next window (R186). -/
def nextThreshold (s : State) : Nat :=
  let dest := rd Reg.SKIM_CFG_DEST 0 s
  let u := 100 * poolUsedBytes s dest
  let n := poolBytes s dest
  let ft := rd Reg.SKIM_CFG_FILL_TARGET 0 s
  let b := rd Reg.SKIM_CFG_BUDGET 0 s
  let p := s.place.candidates
  let h := rd Reg.SKIM_THRESH_H 0 s
  if u > ft * n ∨ p > b then min (2 * h) (rd Reg.SKIM_CFG_H_MAX 0 s)
  else if u < (ft - 12) * n ∧ 2 * p < b then max (h / 2) (rd Reg.SKIM_CFG_H_MIN 0 s)
  else h

/-- Demotions of a window's end (R187): PLACED rows the skimmer placed whose estimate is below ⌈H ÷ 4⌉ go home. -/
def demote (h : Nat) (s : State) : State :=
  let es := s.place.entries.filter fun e => !e.moving && e.src && decide (estimate s.place e.table e.row < ceilDiv h 4)
  let u := es.foldl (fun t e => putMove e.table e.row true ⟨0, 0, 0⟩ [] t) s
  { u with place := { u.place with started := es.length } }

/-- SKIM_WINDOW_END (R172, R183, R184, R186, R187): the threshold, the demotions, then every sketch counter is halved and the
placement filter is rebuilt. DESIGN CHOICE: the demotions compare with H of the window that ends (log entry 78). -/
def execSkimWindowEnd (s : State) : Host.Outcome State Fault Refusal :=
  done s (
    let a : State := { s with place := { s.place with started := 0 } }
    let b := if rd Reg.SKIM_CFG_MODE 0 s = 2 then demote (rd Reg.SKIM_THRESH_H 0 s) a else a
    let c := wr Reg.SKIM_THRESH_H 0 (nextThreshold s) b
    { c with place := { c.place with
      sketch := Sparse.mapVals 0 (fun _ n => n / 2) c.place.sketch
      lastLoad := s.place.load
      load := []
      candidates := 0
      filter := dedup (c.place.entries.map fun e => basinSet e.table e.row 65536) } })

/-- A write of MODE (R185, R186): H returns to 256. MODE 3 names no action and is ignored (log entry 30). -/
def writeMode (m : Nat) (s : State) : State :=
  if m ≤ 2 then wr Reg.SKIM_THRESH_H 0 256 (wr Reg.SKIM_CFG_MODE 0 m s) else s

/-- SKIM_MODE_WRITE (R186). -/
def execSkimModeWrite (mode : BitVec 2) (s : State) : Host.Outcome State Fault Refusal :=
  done s (apWrite Reg.SKIM_CFG_MODE.off s (writeMode mode.toNat))

/-- A lookup of a row's placement (R398): UM_PLACE_ROW_STAT shows the row's state at the lookup. -/
def lookupPlace (table row : Nat) (s : State) : State :=
  let e := pentry? s table row
  let st := match e with
    | none => 0
    | some x => if x.moving && !x.waiting then 2 else if x.curTier = 0 then 0 else 1
  wr Reg.PLACE_ROW_SEL_ROW 0 row (wr Reg.PLACE_ROW_SEL_TABLE 0 table
    (wr Reg.PLACE_ROW_STAT_STATE 0 st (wr Reg.PLACE_ROW_STAT_SRC 0 (b2n (e.any (·.src)))
      (wr Reg.PLACE_ROW_STAT_VALID 0 1 (wr Reg.PLACE_ROW_STAT_CUR_TIER 0 ((e.map (·.curTier)).getD 0)
        (wr Reg.PLACE_ROW_STAT_NEW_TIER 0 (if st = 2 then (e.map (·.newTier)).getD 0 else 0) s))))))

/-- PLACE_ROW_LOOKUP (R398). -/
def execPlaceRowLookup (table : TableNo) (row : BitVec 40) (s : State) : Host.Outcome State Fault Refusal :=
  done s (apWrite Reg.PLACE_ROW_SEL_ROW.off s (lookupPlace table.toNat row.toNat))

end Sys2Proof.Machine
end

