-- ==== Sys2Proof/Machine/Pooling.lean ====
section
/-! DEFINITION. The arithmetic of pooling and of the lanes: exact partials, the leaf tree, max pooling, normalisation, lane products,
function tables and output formats (R88 to R99, R152, R153, R205, R232, R236, R238). -/

namespace Sys2Proof.Machine

/-! ### Exact terms -/

/-- An element of an exact partial: none of zero and special values, which the word spells. -/
abbrev Exact := Option (Int × Int) × Word

/-- The significand without its trailing zero bits, with the exponent raised to match. -/
def stripZeros : Nat → Nat → Int → Nat × Int
  | 0, m, e => (m, e)
  | f + 1, m, e => if m ≠ 0 ∧ m % 2 = 0 then stripZeros f (m / 2) (e + 1) else (m, e)

/-- A value as an exact element. -/
def toExact (x : Num) : Exact :=
  match x with
  | .nan _ => (none, F32.qnan)
  | .inf n => (none, round32 (.inf n))
  | .fin n m e =>
    if m = 0 then (none, round32 (.fin n 0 0))
    else
      let (k, f) := stripZeros (Nat.log2 m + 1) m e
      (some (if n then -(k : Int) else (k : Int), f), 0#32)

/-- The value of an exact element. -/
def ofExact (x : Exact) : Num :=
  match x.1 with
  | some (m, e) => .fin (decide (m < 0)) m.natAbs e
  | none => F32.num x.2

/-- Whether an exact element fits the 64-bit significand of Table 3 of 06 (R151 case 3). -/
def fitsWindow (x : Exact) : Bool :=
  match x.1 with
  | some (m, _) => decide (-(2 ^ 63 : Int) ≤ m) && decide (m < 2 ^ 63)
  | none => true

/-- Winner of two max candidates (R93): the greater value, the lower position on a tie. -/
def maxPick (a b : Option (Word × Nat)) : Option (Word × Nat) :=
  match a, b with
  | none, _ => b
  | _, none => a
  | some x, some y =>
    if Num.maxLt (F32.num x.1) (F32.num y.1) then some y
    else if Num.maxLt (F32.num y.1) (F32.num x.1) then some x
    else if y.2 < x.2 then some y else some x

/-- Terms of one use: its elements, times its weight under POOL 2, or candidates under POOL 3. -/
def useTerms (pool : Nat) (elems : List F32) (weight : Word) (pos : Nat) : Terms :=
  if pool = 3 then .max (elems.map fun v => some (v, pos))
  else if pool = 2 then .sum (elems.map fun v => toExact (v.num.mul (F32.num weight)))
  else .sum (elems.map fun v => toExact v.num)

/-- Joins two terms of one leaf, exactly (R152). -/
def joinTerms (a b : Terms) : Terms :=
  match a, b with
  | .sum x, .sum y => .sum (List.zipWith (fun p q => toExact ((ofExact p).add (ofExact q))) x y)
  | .max x, .max y => .max (List.zipWith maxPick x y)
  | _, _ => a

/-- Whether every element of a partial fits its window. -/
def termsFit : Terms → Bool
  | .sum x => x.all fitsWindow
  | .max _ => true

/-! ### Partials on the wire (R153, R196) -/

/-- Whether a value is a value of a floating format. -/
def isCode (f : Nat) (x : Num) : Bool :=
  if f > 4 then false
  else match x with
    | .nan _ => true
    | .inf _ => ((fmtOf f).infCode).isSome
    | .fin n m e =>
      match (fmtOf f).decode ((fmtOf f).round (.fin n m e)) with
      | .fin _ m2 e2 => decide (stripZeros (Nat.log2 m + 1) m e = stripZeros (Nat.log2 m2 + 1) m2 e2 ∨ (m = 0 ∧ m2 = 0))
      | _ => false

/-- Values of a partial's elements. -/
def termValues : Terms → List Num
  | .sum x => x.map ofExact
  | .max x => x.map fun e => match e with | some p => F32.num p.1 | none => Num.zero

/-- The first form of Table 3 of 06 that holds every element exactly: 0 NATIVE, 1 FP32, 2 EXACT. -/
def formOf (fmt : Nat) (t : Terms) : Nat :=
  if (termValues t).all (isCode fmt) then 0 else if (termValues t).all (isCode 0) then 1 else 2

/-- Bytes of an element of an EXACT partial: significand, exponent, flags NEG_ZERO, POS_INF, NEG_INF, NAN in bits 0 to 3 of the
flag byte. -/
def exactBytes (x : Exact) : List Byte :=
  match x.1 with
  | some (m, e) => toLE 8 (m % 2 ^ 64).toNat ++ toLE 2 (e % 2 ^ 16).toNat ++ [0#8, 0#8]
  | none =>
    let f := if x.2 = 0x80000000#32 then 1 else if x.2 = 0x7F800000#32 then 2 else if x.2 = 0xFF800000#32 then 4
      else if x.2 = 0#32 then 0 else 8
    toLE 8 0 ++ toLE 2 0 ++ toLE 1 f ++ [0#8]

/-- An element of an EXACT partial from its 12 bytes. -/
def exactOf (bs : List Byte) : Exact :=
  let m := signedOf 64 (fromLE (bs.take 8))
  let e := signedOf 16 (fromLE ((bs.drop 8).take 2))
  let f := fromLE ((bs.drop 10).take 1)
  if bit f 3 then (none, F32.qnan)
  else if bit f 1 then (none, 0x7F800000#32)
  else if bit f 2 then (none, 0xFF800000#32)
  else if bit f 0 then (none, 0x80000000#32)
  else if m = 0 then (none, 0#32) else toExact (.fin (decide (m < 0)) m.natAbs e)

/-- Payload of a partial in a form; under POOL 3 the positions of `w` bytes follow. -/
def partialBytes (fmt form w : Nat) (t : Terms) : List Byte :=
  let codes := fun (f : Nat) => (termValues t).flatMap fun v => toLE (fmtBytes f) ((fmtOf f).round v)
  let pos := match t with
    | .max x => x.flatMap fun e => toLE w (match e with | some p => p.2 | none => 2 ^ (8 * w) - 1)
    | .sum _ => []
  (match form with
    | 0 => codes fmt
    | 1 => codes 0
    | _ => match t with | .sum x => x.flatMap exactBytes | .max _ => codes 0) ++ pos

/-- Terms of a received payload of `n` elements. -/
def partialTerms (fmt form n w : Nat) (isMax : Bool) (bs : List Byte) : Terms :=
  let f := if form = 0 then fmt else 0
  let vals := (codesOf (fmtBytes f) n bs).map (toF32 f)
  if isMax then
    .max (vals.zipIdx.map fun e => some (e.1, codeAt (bs.drop (fmtBytes f * n)) w e.2))
  else if form = 2 then .sum ((List.range n).map fun j => exactOf (bs.drop (12 * j)))
  else .sum (vals.map fun v => toExact v.num)

/-! ### Leaves and tree -/

/-- The fixed pairwise tree (R89), over present and absent partials, for `f` levels. -/
def treeFrom : Nat → List (Option F32) → Option F32
  | 0, l => l.headD none
  | f + 1, l =>
    if l.length ≤ 1 then l.headD none
    else treeFrom f (pairUp l)
where
  /-- One level. -/
  pairUp : List (Option F32) → List (Option F32)
    | a :: b :: rest =>
      (match a, b with
        | none, y => y
        | x, none => x
        | some x, some y => some (F32.add x y)) :: pairUp rest
    | [a] => [a]
    | [] => []

/-- The value of the tree; +0 of none. -/
def tree (l : List (Option F32)) : F32 := (treeFrom (l.length + 1) l).getD 0#32

/-- Combined terms of a list; none of the empty list. -/
def foldTerms : List Terms → Option Terms
  | [] => none
  | t :: ts => some (ts.foldl joinTerms t)

/-- The pooled element values of a bag, and its argmax, from the terms of each leaf (R88 to R95): `n` elements, `kept` uses. -/
def poolLeaves (pool n kept : Nat) (leaves : List (Option Terms)) : List F32 × List (Option Nat) :=
  if pool = 3 then
    let all := foldTerms (leaves.filterMap id)
    let w := fun j => match all with
      | some (.max x) => (x.getD j none)
      | _ => none
    ((List.range n).map fun j => match w j with | some p => p.1 | none => 0#32,
      (List.range n).map fun j => (w j).map (·.2))
  else
    let at_ := fun j => leaves.map fun l => match l with
      | some (.sum x) => (x[j]?).map fun e => round32 (ofExact e)
      | _ => none
    ((List.range n).map fun j =>
      let s := tree (at_ j)
      if pool = 1 then (if kept = 0 then 0#32 else divNat s.num kept) else s, [])

/-! ### Normalisation (R98, R99, R205) -/

/-- The exact sum of products of two vectors. -/
def dotExact (x y : List F32) : Num := Num.sum (List.zipWith (fun a b => a.num.mul b.num) x y)

/-- The exact sum of a vector. -/
def sumExact (x : List F32) : Num := Num.sum (x.map F32.num)

/-- The normalised vector with its statistics mean and rstd. -/
def normalise (norm : Nat) (eps : F32) (x : List F32) : List F32 × F32 × F32 :=
  match norm with
  | 1 =>
    let v := F32.add (round32 (dotExact x x)) eps
    let r := rsqrt v
    (x.map fun a => F32.mul a r, 0#32, r)
  | 2 =>
    let mu := divNat (sumExact x) x.length
    let d := x.map fun a => F32.sub a mu
    let v := F32.add (divNat (dotExact d d) x.length) eps
    let r := rsqrt v
    (d.map fun a => F32.mul a r, mu, r)
  | _ => (x, 0#32, 0#32)

/-- The normaliser again with stored statistics (R205). -/
def renormalise (norm : Nat) (mean rstd : F32) (x : List F32) : List F32 :=
  match norm with
  | 1 => x.map fun a => F32.mul a rstd
  | 2 => x.map fun a => F32.mul (F32.sub a mean) rstd
  | _ => x

/-- The normaliser backward (R205). -/
def normBack (norm : Nat) (rstd : F32) (y dy : List F32) : List F32 :=
  let n := y.length
  match norm with
  | 1 =>
    let p := round32 (dotExact y dy)
    List.zipWith (fun a d => F32.mul rstd (round32 (d.num.add ((a.num.mul p.num).neg)))) y dy
  | 2 =>
    let a := divNat (sumExact dy) n
    let b := divNat (dotExact y dy) n
    List.zipWith (fun v d => F32.mul rstd (round32 ((d.num.add a.num.neg).add ((v.num.mul b.num).neg)))) y dy
  | _ => dy

/-! ### Lane products (R232) -/

/-- One step of a chain: its accumulator after term k. -/
def laneStep (a b : F32) (acc : Option F32) : Option F32 :=
  match acc with
  | none => some (F32.mul a b)
  | some x => some (F32.fma a b x)

/-- lane_product over terms, absent ones left out. -/
def laneProduct (terms : List (Option (F32 × F32))) : F32 :=
  let acc := terms.zipIdx.foldl (fun (acc : List (Option F32)) e =>
    match e.1 with
    | none => acc
    | some (a, b) => modAt acc (e.2 % 8) (laneStep a b)) (List.replicate 8 none)
  tree acc

/-- The lane product of two vectors. -/
def laneDot (x y : List F32) : F32 := laneProduct (List.zipWith (fun a b => some (a, b)) x y)

/-- Index of pair (a, b), a > b (R236). -/
def pairIdx (a b : Nat) : Nat := if a > b then a * (a - 1) / 2 + b else b * (b - 1) / 2 + a

/-- The pair values of the inputs of a sample (R236). -/
def interaction (u : List (List F32)) : List F32 :=
  (List.range u.length).flatMap fun a => (List.range a).map fun b => laneDot (u.getD a []) (u.getD b [])

/-- The gradient of input `a` (R243). -/
def interBack (u : List (List F32)) (dz : List F32) (a : Nat) : List F32 :=
  (List.range (u.getD a []).length).map fun j =>
    laneProduct ((List.range u.length).map fun b =>
      if b = a then none else some (dz.getD (pairIdx a b) 0#32, (u.getD b []).getD j 0#32))

/-! ### Function tables (R238, R239) -/

/-- Object of an entry of a function slot: slot, table, index, word. -/
def fnObj (slot tab index word : Nat) : Nat := ((slot * 2 + tab) * 256 + index) * 2 + word

/-- Word of a function slot. -/
def fnWord (s : State) (slot tab index word : Nat) : F32 := BitVec.ofNat 32 (rd Reg.FN_ENTRY_DATA_DATA (fnObj slot tab index word) s)

/-- Floor of (z − x) ÷ 2^l for exact finite values. -/
def segOf (z x : Num) (l : Int) : Int :=
  match z.add x.neg with
  | .fin n m e =>
    let k := e - l
    let v : Int := (m * 2 ^ k.toNat : Nat)
    let d : Int := (2 ^ (-k).toNat : Nat)
    (if n then -v else v).fdiv d
  | .inf n => if n then 0 else 255
  | .nan _ => 0

/-- The value of a table of a function slot at z (R238). -/
def fnEval (s : State) (slot tab : Nat) (z : F32) : F32 :=
  if z.num.isNan then F32.qnan
  else
    let x := F32.num (BitVec.ofNat 32 (rd Reg.FN_XMIN_X_MIN slot s))
    let l := signedOf 6 (rd Reg.FN_CFG_LOG2_STEP slot s)
    let g := (max 0 (min 255 (segOf z.num x l))).toNat
    let base := fnWord s slot tab g 0
    let slope := fnWord s slot tab g 1
    if slope.num.isZero then base
    else F32.fma slope (round32 (z.num.add ((x.add (.fin false g l)).neg))) base

/-! ### Output -/

/-- Bytes of FP32 values in OUT_FMT (R97). -/
def outBytes (fmt : Nat) (x : List F32) : List Byte := x.flatMap fun v => toLE (fmtBytes fmt) (ofF32 fmt v)

end Sys2Proof.Machine
end

