-- ==== Sys2Proof/Machine/BImage.lean ====
section
/-! DEFINITION. The matrix B of an adapter table in bytes, and its images at B_ADDR (R78, R222, R362). -/

namespace Sys2Proof.Machine

/-- Bytes of a matrix B with its state (R78, R222). -/
def Desc.bBytes (d : Desc) : Nat :=
  let n := d.rank * d.rowLen
  4 * n + (if d.hasState then n * wideBits d.stateFmt / 8 else 0) + (if d.opt = 2 ∨ d.opt = 3 then 8 * d.rank else 0)

/-- Per-element state, and scalars, of a matrix B in bytes after its elements. -/
def bMatOf (d : Desc) (bs : List Byte) : BMat :=
  let n := d.rank * d.rowLen
  let w := wideBits d.stateFmt / 8
  let st := bs.drop (4 * n)
  let sc := wordsOf (2 * d.rank) (st.drop (if d.hasState then n * w else 0))
  { b := wordsOf n bs
    st := if d.hasState then (codesOf w n st).map (BitVec.ofNat 32 ·) else []
    scal := if d.opt = 2 ∨ d.opt = 3 then (List.range d.rank).map fun k => (sc.getD (2 * k) 0#32, sc.getD (2 * k + 1) 0#32) else [] }

/-- The bytes of a matrix B with its state. -/
def bMatBytes (d : Desc) (m : BMat) : List Byte :=
  bytesOf m.b ++ m.st.flatMap (fun x => toLE (wideBits d.stateFmt / 8) x.toNat)
    ++ m.scal.flatMap fun p => wordBytes p.1 ++ wordBytes p.2

/-- Address of the image of a version (R362). -/
def Desc.imageAddr (d : Desc) (v : Nat) : Nat := d.bAddr + v % 3 * d.bBytes

/-- Whether the images of a table can be reached. -/
def imageReach (s : State) (d : Desc) : Bool := isChip d.bAddr || s.host.st == .opened

/-- Writes the images of a table's versions; one that cannot be written is recorded as lost (R131, R362). -/
def writeImages (t : Nat) (s : State) : State :=
  let tb := table s t
  if !(tb.defined && tb.desc.adapter) then s
  else if imageReach s tb.desc then
    tb.vers.foldl (fun x v => writeMem 0 (tb.desc.imageAddr v.num) (bMatBytes tb.desc v.b) x) s
  else logErr 0x0013 0 none (unitId 1 0) (t + tb.vers.length * 2 ^ 32) s

/-- Writes the images of every table, which are then read back before their next use. -/
def stageImages (s : State) : State :=
  let t := (Sparse.keys s.tables).foldl (fun x k => writeImages k x) s
  { t with tables := Sparse.mapVals {} (fun _ x => if x.defined && x.desc.adapter then { x with refill := true } else x) t.tables }

/-- Refills the matrix B of a table's versions from its images before the table's first use, once they can be reached. -/
def refillB (s : State) (t : Nat) : State :=
  let tb := table s t
  let d := tb.desc
  if !tb.refill || !imageReach s d then s
  else setTable t
    { tb with refill := false,
              vers := tb.vers.map fun v => { v with b := bMatOf d (readMem s 0 (d.imageAddr v.num) d.bBytes) } } s

end Sys2Proof.Machine
end

