-- ==== Sys2Proof/Machine/Issue.lean ====
section
/-! DEFINITION. The issue of a command (R36, R37, R45), its completion with its flushes (R39, R266, R268), NOP, and the valve operations
(R284 to R287). -/

namespace Sys2Proof.Machine

/-! ### Eligibility -/

/-- The next admitted command of a queue. -/
def headCmd (s : State) (q : Nat) : Option Cmd := s.cmds.find? fun c => c.queue == q && c.phase == .admitted

/-- Whether a forward command has the tag and step that a SCATTER_GRAD names (R35). -/
def isForwardOf (c d : Cmd) : Bool :=
  (d.op == 1 || d.op == 2) && d.ctx == c.ctx && Pkt.tag d.words == Pkt.fwdTag c.words && Pkt.step d.words == Pkt.step c.words

/-- Whether an earlier command of the queue has a reply that waits for the host path (R271). -/
def replyWaits (s : State) (c : Cmd) : Bool :=
  s.host.held.any fun r => r.queue == c.queue && (match r.cmd with | none => false | some i => decide (i < c.id))

/-- Whether an earlier command orders a command after itself (R35 to R37): under BARRIER every earlier command of the queue until
its reply is posted, a TABLE_DEFINE or VERSION_OPEN of one of its tables, and the forward command of a SCATTER_GRAD. DESIGN
CHOICE: a SCATTER_GRAD waits for a forward command of its own queue only if that one was admitted before it, and for one of
another queue in flight, whichever was admitted first (log entry 69). -/
def orderedAfter (s : State) (c : Cmd) : Bool :=
  let before := s.cmds.filter fun d => d.queue == c.queue && decide (d.id < c.id)
  (Pkt.barrier c.words && (!before.isEmpty || replyWaits s c))
  || before.any (fun d => (d.op == 0x10 || d.op == 0x11) && (tablesOf c).contains (Pkt.table d.words))
  || (c.op == 3 && s.cmds.any fun d => isForwardOf c d && (d.queue != c.queue || decide (d.id < c.id)))

/-- Whether a command is a wait in the valve unit (R285). -/
def isValveWait (c : Cmd) : Bool := c.op == 0x20 && (Pkt.destTier c.words == 2 || Pkt.destTier c.words == 3)

/-- Whether the valve unit is full. -/
def valveUnitFull (s : State) : Bool :=
  decide ((s.cmds.filter fun c => isValveWait c && (c.phase == .issued || c.phase == .running)).length ≥ 4096)

/-- Whether a queue's next command may be granted (R45). -/
def eligible (s : State) (q : Nat) : Bool :=
  let v := queue s q
  (v.st == .active || v.st == .draining) &&
  match headCmd s q with
  | none => false
  | some c =>
    !orderedAfter s c
    && (s.host.st == .opened || v.cfg.policy == 1 || !needsHost s c)
    && (!Pkt.waitEn c.words || c.waitOk || decide (valve s (Pkt.waitValve c.words) ≥ 1))
    && !(isValveWait c && valveUnitFull s)

/-- Whether a core position has a unit in service. -/
def coreInService (s : State) (i : Nat) : Bool :=
  match physOf s 2 i with
  | none => false
  | some p => (unit s (unitId 2 p)).st == .active

/-- The lowest free core: one in service that holds no command whose row has yet to start (log entry 11). -/
def freeCore (s : State) : Option Nat :=
  (List.range 8).find? fun i => coreInService s i && !s.cmds.any fun c => c.core == some i && c.phase == .issued

/-! ### Issue -/

/-- A MERGE_APPLY that issues closes its step to further SCATTER_GRADs, unless another of the table merges (R212). -/
def mergeBegins (c : Cmd) (s : State) : State :=
  let t := table s (Pkt.table c.words)
  if c.op == 4 && t.merging.isNone && Pkt.step c.words == t.step + 1 then setTable (Pkt.table c.words) { t with merging := some c.id } s else s

/-- Issues a command to a core: the checks made at issue end it at once (R270, R278). -/
def issueCmd (c : Cmd) (core : Nat) (s : State) : State :=
  if flagOutside s c then endCommand { c with noFlag := true } (.xlateFault, 0xFFFFFFFE, 4) s
  else if !(s.host.st == .opened) && (queue s c.queue).cfg.policy == 1 && needsHost s c then
    endCommand c (.hostPathLost, 0, 0) s
  else mergeBegins c (modCmd c.id (fun d => { d with phase := .issued, core := some core }) ((tablesOf c).foldl refillB s))

/-! ### Traffic and flushes -/

/-- FLUSH_READ_COMPLETE (R266, R268): the oldest zero-length read of the command is done, and the bytes it covers count. -/
def execFlushReadComplete (cmd : Nat) (s : State) : Host.Outcome State Fault Refusal :=
  done s (hostReadDone cmd (modCmd cmd (fun c =>
    match c.use.reads with
    | [] => c
    | r :: rest => { c with use := { c.use with reads := rest, hostKnown := max c.use.hostKnown r.covers } }) s))

/-- NOC_WRITE_ACKNOWLEDGEMENT (R266, R268): chip-address bytes of the command count as known delivered. -/
def execNocWriteAcknowledgement (cmd : Nat) (bytes : Nat) (s : State) : Host.Outcome State Fault Refusal :=
  done s (modCmd cmd (fun c =>
    let n := min bytes c.use.chipPending
    { c with use := { c.use with chipPending := c.use.chipPending - n, chipDone := c.use.chipDone + n } }) s)

/-! ### Accesses that wait for their translations -/

/-- Bytes a forward feature reads at its addresses: identifiers, offsets and weights, with the addresses. -/
def featRanges (ids offs weights n bags : Nat) (weighted : Bool) : List (Nat × Nat × Bool) :=
  [(ids, 8 * n, false), (offs, 4 * (bags + 1), false)] ++ (if weighted then [(weights, 4 * n, false)] else [])

/-- The accesses of a command's packet and feature records: address, bytes, and whether they write. A STREAM_ARM's are those of its
program; a COPY takes its translations transfer by transfer. -/
def rangesOf (s : State) (c : Cmd) : List (Nat × Nat × Bool) :=
  let ws := c.words
  let d := (table s (Pkt.table ws)).desc
  let rows := if Pkt.addrC ws = 0xFFFFFFFFFFFFFFFF then d.bBytes else wordAt ws 10 * d.stride
  match c.op with
  | 0x01 =>
    featRanges (Pkt.addrA ws) (Pkt.addrB ws) (Pkt.addrC ws) (Pkt.ids ws) (Pkt.bags ws) (Pkt.pool ws == 2)
    ++ (if Pkt.outSel ws = 1 then [(Pkt.outAddr ws, Pkt.bags ws * d.rowLen * Pkt.outBytes (Pkt.gOutFmt ws), true)] else [])
  | 0x02 =>
    (c.feats.flatMap fun r =>
      featRanges (addr64 r 2) (addr64 r 4) (addr64 r 6) (wordAt r 1) (Pkt.bags ws) (field (wordAt r 0) 15 12 == 2))
    ++ (if Pkt.interact ws then
          let n := (table s (field (wordAt (c.feats.headD []) 0) 11 0)).desc.rowLen
        [(Pkt.addrB ws, Pkt.bags ws * n * Pkt.outBytes (Pkt.cOutFmt ws), false)]
        else [])
  | 0x03 =>
    if Pkt.feature ws = 63 then [(Pkt.addrA ws, Pkt.bags ws * d.rowLen * 4, true)]
    else if Pkt.gradSel ws then [(Pkt.addrA ws, Pkt.bags ws * d.rowLen * 4, false)]
    else []
  | 0x05 => [(Pkt.addrA ws, 8 * Pkt.count ws, false)]
  | 0x06 => [(Pkt.addrA ws, 8 * Pkt.count ws, false)]
  | 0x07 => [(Pkt.addrA ws, 8 * Pkt.pinCount ws, false)]
  | 0x08 => [(Pkt.addrA ws, 8 * Pkt.count ws, false)]
  | 0x10 => [(Pkt.addrA ws, 128, false)]
  | 0x14 => [(Pkt.addrA ws, rows, false)]
  | 0x15 => [(Pkt.addrA ws, rows, true)]
  | 0x18 => [(Pkt.addrA ws, 256, false)]
  | 0x28 => [(Pkt.addrA ws, 128, false)]
  | _ => []

/-- Host pages that a command's accesses still lack (R262). -/
def lackingOf (s : State) (c : Cmd) : List Nat :=
  dedup ((rangesOf s c).flatMap fun r => lackingPages s (spaceOf s c.ctx) r.1 r.2.1 r.2.2)

/-- Runs `f` on an issued command of opcode `op` whose own row has not ended, that no translation fault stops and whose context
no rung has fenced (R311); any other number changes nothing (log entry 1). A command whose accesses lack translations asks for
them and waits (R262, log entry 64). -/
def onIssued (id op : Nat) (s : State) (f : Cmd → State → State) : State :=
  match cmd? s id with
  | none => s
  | some c =>
    if c.op == op && (c.phase == .issued || c.phase == .running) && c.use.fault.isNone && !((ctx s c.ctx).st == .resetting) then
      if (lackingOf s c).isEmpty then f c (modCmd id (fun d => { d with phase := .running }) s)
      else askPages (spaceOf s c.ctx) (lackingOf s c) s
    else s

/-! ### Completion -/

/-- Whether the END frame of a command still has to leave (R105). -/
def awaitsEnd (c : Cmd) : Bool :=
  match c.work with
  | .fwd f => usesTower c && !f.endSent
  | _ => false

/-- Host pages that a command's completion flag still lacks. -/
def flagLacks (s : State) (c : Cmd) : List Nat :=
  if Pkt.cflagEn c.words && !c.noFlag && !(c.status == .hostPathLost) then
    lackingPages s (spaceOf s c.ctx) (Pkt.cflagAddr c.words) 8 true
  else []

/-- COMMAND_COMPLETE (R39): the flushes, then flag, valve and reply. The first call issues the flush reads; the reply is
posted once they are done and the flag holds its translation (R262). `joins` tells that its valve post falls in the cycle of the
modification just before it (R286). -/
def execCommandComplete (cmd : Timed Nat) (s : State) : Host.Outcome State Fault Refusal :=
  done s (match cmd? s cmd.who with
    | none => s
    | some c =>
      if !(c.phase == .done) || awaitsEnd c || c.use.fault.isSome then s
      else if !mayPost s c then beginFlush c s
      else if !(flagLacks s c).isEmpty then askPages (spaceOf s c.ctx) (flagLacks s c) s
      else
        let t := endCommand c (c.status, c.d0, c.d1) s
        if Pkt.postEn c.words then inCycle cmd.joins (Pkt.postValve c.words) c.queue false 1 s t else t)

/-- NOP (R33): does nothing and completes with ST_OK. -/
def execNop (cmd : Nat) (s : State) : Host.Outcome State Fault Refusal :=
  done s (onIssued cmd 0x00 s fun c t => finish c.id okVerdict t)

/-! ### Valve operations -/

/-- Runs `f` on an issued VALVE_OP with operation `op`. -/
def onValveOp (id op : Nat) (s : State) (f : Cmd → State → State) : State :=
  onIssued id 0x20 s fun c t => if Pkt.destTier c.words = op then f c t else s

/-- VALVE_SET (R284, R286): the count becomes VALUE. -/
def execValveSet (cmd : Timed Nat) (s : State) : Host.Outcome State Fault Refusal :=
  done s (onValveOp cmd.who 0 s fun c t => inCycle cmd.joins (Pkt.valve c.words) c.queue true (Pkt.w9 c.words) t
    (finish c.id okVerdict (setValve (Pkt.valve c.words) (Pkt.w9 c.words) t)))

/-- VALVE_ADD (R284, R286): the count rises by VALUE, saturating. -/
def execValveAdd (cmd : Timed Nat) (s : State) : Host.Outcome State Fault Refusal :=
  done s (onValveOp cmd.who 1 s fun c t => inCycle cmd.joins (Pkt.valve c.words) c.queue false (Pkt.w9 c.words) t
    (finish c.id okVerdict (valveAdd c.ctx (Pkt.valve c.words) (Pkt.w9 c.words) t)))

/-- Holds a wait in the valve unit, off its core (R285). -/
def holdWait (c : Cmd) (s : State) : State := modCmd c.id (fun d => { d with core := none }) s

/-- VALVE_WAIT_GE (R285): held in the valve unit; VALVE_WAIT_SATISFIED ends it. -/
def execValveWaitGe (cmd : Nat) (s : State) : Host.Outcome State Fault Refusal :=
  done s (onValveOp cmd 2 s holdWait)

/-- VALVE_WAIT_EQ (R285, R286). -/
def execValveWaitEq (cmd : Nat) (s : State) : Host.Outcome State Fault Refusal :=
  done s (onValveOp cmd 3 s holdWait)

/-- VALVE_READ (R284): DETAIL0 holds the count. -/
def execValveRead (cmd : Nat) (s : State) : Host.Outcome State Fault Refusal :=
  done s (onValveOp cmd 4 s fun c t => finish c.id (.ok, valve t (Pkt.valve c.words), 0) t)

/-- Whether the condition of a held wait is true now (R284). -/
def waitTrue (s : State) (c : Cmd) : Bool :=
  let n := valve s (Pkt.valve c.words)
  if Pkt.destTier c.words = 2 then decide (n ≥ Pkt.w9 c.words) else n == Pkt.w9 c.words

end Sys2Proof.Machine
end

