-- ==== Sys2Proof/Machine/Streams.lean ====
section
/-! DEFINITION. Rill streams, COPY, translation faults and satisfied valve waits (R252 to R265, R286). -/

namespace Sys2Proof.Machine

/-! ### Programs -/

/-- Descriptor number of a STREAM_ARM or STREAM_CANCEL. -/
def descNo (c : Cmd) : Nat := Pkt.table c.words

/-- NINSTR. -/
def ninstr (p : List Word) : Nat := pf p 0 4 0
/-- ELEM. -/
def elemOf (p : List Word) : Nat := pf p 1 15 0
/-- Instruction slot i as 64 bits. -/
def slotAt (p : List Word) (i : Nat) : Nat := addr64 p (32 + 2 * i)
/-- OP of a slot. -/
def insOp (w : Nat) : Nat := field w 7 0
/-- D of a slot. -/
def insD (w : Nat) : Nat := field w 10 8
/-- COUNT of a LOOP. -/
def insCount (w : Nat) : Nat := field w 39 16
/-- VALVE of a POST or WAIT. -/
def insValve (w : Nat) : Nat := field w 31 16
/-- IDX_EN of a WAIT. -/
def insIdxEn (w : Nat) : Bool := bit w 11
/-- VALUE of a WAIT. -/
def insValue (w : Nat) : Nat := field w 63 32

/-- Signed stride of a side: header words from 6 for the source, from 12 for the destination. -/
def strideOf (p : List Word) (first d : Nat) : Int := signedOf 32 (wordAt p (first + d))

/-- Mask of the bits an instruction uses (R254). -/
def insMask (op : Nat) : Nat :=
  match op with
  | 0x01 => 0x000000FFFFFF07FF
  | 0x02 => 0x00000000000007FF
  | 0x04 => 0x00000000FFFF00FF
  | 0x05 => 0xFFFFFFFFFFFF0FFF
  | _ => 0x00000000000000FF

/-- Offences of one instruction: program word and bit. -/
def insOffences (s : State) (c i : Nat) (w : Nat) : List Offence :=
  let op := insOp w
  let base := 32 + 2 * i
  let r := (w ||| insMask op) ^^^ insMask op
  let low := ((List.range 64).find? fun k => bit r k).getD 0
  offend (decide (op > 6)) base 0
  ++ offend (decide (op ≤ 6) && r != 0) (base + low / 32) (low % 32)
  ++ offend ((op == 1 || op == 2 || op == 5) && decide (insD w > 5)) base 8
  ++ offend (op == 1 && insCount w == 0) base 16
  ++ offend ((op == 4 || op == 5) && !ownsValve s c (insValve w)) base 16

/-- Nesting of LOOP and NEXT: open dimensions, innermost first, those opened before, and offences so far. -/
def nestOffences : List Nat → Nat → List Nat → List Nat → List Offence
  | [], _, _, _ => []
  | w :: ws, i, stack, used =>
    let d := insD w
    match insOp w with
    | 1 => offend (used.contains d) (32 + 2 * i) 8 ++ nestOffences ws (i + 1) (d :: stack) (d :: used)
    | 2 =>
      if stack.head? = some d then nestOffences ws (i + 1) (stack.drop 1) used
      else (32 + 2 * i, 8) :: nestOffences ws (i + 1) stack used
    | _ => nestOffences ws (i + 1) stack used

/-- LOOPs never closed: the offence names the LOOP. -/
def openLoops : List Nat → Nat → List (Nat × Nat) → List Offence
  | [], _, stack => stack.map fun e => (32 + 2 * e.2, 8)
  | w :: ws, i, stack =>
    match insOp w with
    | 1 => openLoops ws (i + 1) ((insD w, i) :: stack)
    | 2 => openLoops ws (i + 1) (stack.drop 1)
    | _ => openLoops ws (i + 1) stack

/-- Extents of one side over every MOVE: least and greatest byte offset from the base (R256). -/
def extents (p : List Word) (first : Nat) : List Nat → List Nat → List (Int × Int)
  | [], _ => []
  | w :: ws, stack =>
    match insOp w with
    | 1 => extents p first ws (w :: stack)
    | 2 => extents p first ws (stack.drop 1)
    | 3 =>
      let spans := stack.map fun l => ((insCount l : Int) - 1) * strideOf p first (insD l)
      let lo := (spans.map fun x => min 0 x).foldl (· + ·) 0
      let hi := (spans.map fun x => max 0 x).foldl (· + ·) 0
      (lo, hi + elemOf p - 1) :: extents p first ws stack
    | _ => extents p first ws stack

/-- Whether a side leaves the half of the address space its base lies in (R256). -/
def sideLeaves (p : List Word) (baseWord first : Nat) (slots : List Nat) : Bool :=
  let b := addr64 p baseWord
  let lo : Int := if isChip b then 2 ^ 63 else 0
  (extents p first slots []).any fun e => decide ((b : Int) + e.1 < lo) || decide ((b : Int) + e.2 ≥ lo + 2 ^ 63)

/-- Offences of a program (R254, R256): position by program word, then bit. -/
def programOffences (s : State) (c : Nat) (p : List Word) : List Offence :=
  let n := ninstr p
  let slots := (List.range (min n 16)).map (slotAt p)
  let masks := [0x1F, 0xFFFF] ++ List.replicate 16 0xFFFFFFFF
  reservedOffences masks 0 (p.take 32)
  ++ offend (decide (n < 1) || decide (n > 16)) 0 0
  ++ offend (elemOf p == 0) 1 0
  ++ (slots.zipIdx.flatMap fun e => insOffences s c e.2 e.1)
  ++ ((reservedOffences [] 0 ((p.drop (32 + 2 * min n 16)).take 32)).map fun o => (o.1 + 32 + 2 * min n 16, o.2))
  ++ nestOffences slots 0 [] [] ++ openLoops slots 0 []
  ++ offend (!slots.any fun w => insOp w == 3) 0 0
  ++ offend (sideLeaves p 2 6 slots) 2 0 ++ offend (sideLeaves p 4 12 slots) 4 0

/-- The check of a program: DETAIL0 has bit 13 set and the program word (R256). -/
def programCheck (s : State) (c : Nat) (p : List Word) : Option Verdict :=
  (lowestOffence (programOffences s c p)).map fun o => (.badField, 2 ^ 13 + o.1, 0)

/-! ### Arms -/

/-- A descriptor whose generation starts with a program (R259, R260). -/
def SDesc.start (d : SDesc) (id : Nat) (p : List Word) (order : Nat) : SDesc :=
  { d with st := .active, prog := p, cmd := some id, promote := false, pc := 0, idx := [0, 0, 0, 0, 0, 0], byteOff := 0,
           delivered := 0, order := order, cancel := [], ended := false, waitOk := false, srcs := [], dsts := [],
           marks := [] }

/-- The program as part 3 of the digest (R299): its bases read as zero. -/
def programDigest (p : List Word) : List Byte := bytesOf ([2, 3, 4, 5].foldl (fun v i => setAt v i 0#32) p)

/-- Adds bytes to the inputs of a command's digest. -/
def addInputs (id : Nat) (bs : List Byte) (s : State) : State := modCmd id (fun c => { c with inputs := c.inputs ++ bs }) s

/-- Starts a generation on a descriptor that has no other (R259). -/
def startGeneration (c : Cmd) (p : List Word) (s : State) : State :=
  let k := descNo c
  addInputs c.id (programDigest p)
    (setDesc k ((desc s k).start c.id p s.host.order) { s with host := { s.host with order := s.host.order + 1 } })

/-- Whether a program is reached over the host path, or moves over it. -/
def programHost (c : Cmd) (p : List Word) : Bool :=
  !isChip (Pkt.addrA c.words) || !isChip (addr64 p 2) || !isChip (addr64 p 4)

/-- An issued STREAM_ARM (R256, R258, R259). -/
def armStream (c : Cmd) (s : State) : State :=
  let k := descNo c
  let d := desc s k
  let addr := Pkt.addrA c.words
  let loading := d.st == .loading && d.cmd == some c.id
  let t := if d.st == .idle && !d.promote then setDesc k { d with gen := (d.gen + 1) % 2 ^ 32 } s else s
  if rd Reg.STREAM_DESC_CFG_CTX k s != c.ctx then finish c.id (.badField, fieldPos 8 0 0, 0) s
  else if d.pend.isSome && !loading then finish c.id (.descBusy, k, d.gen) s
  else if addr % 64 != 0 then finish c.id (.badField, fieldPos 11 0 0, 0) s
  else if !windowAllows s c.ctx addr 256 false then finish c.id (.xlateFault, k, 0) t
  else
    let p := readWords s (spaceOf s c.ctx) addr 64
    let idle := (d.st == .idle && !d.promote) || loading
    match programCheck s c.ctx p with
    | some v =>
      finish c.id v
        (if loading then setDesc k { d with st := .idle, cmd := none, promote := d.pend.isSome } s else if idle then t else s)
    | none =>
      if programHost c p && !(s.host.st == .opened) then finish c.id (.hostPathLost, 0, 0) (if idle then t else s)
      else if idle then startGeneration c p (noteRead c.id addr t)
      else setDesc k { d with pend := some (c.id, p) } (noteRead c.id addr s)

/-- STREAM_ARM (R259): once its generation is started or pending, the arm waits for the generation's end. -/
def execStreamArm (cmd : Nat) (s : State) : Host.Outcome State Fault Refusal :=
  done s (onIssued cmd 0x18 s fun c t =>
    let d := desc s (descNo c)
    if (d.cmd = some cmd ∧ d.st ≠ .loading) ∨ d.pend.map (·.1) = some cmd then s else armStream c t)

/-- PENDING_ARM_PROMOTE (R260): the pending arm becomes the generation. -/
def execPendingArmPromote (desc : DescNo) (s : State) : Host.Outcome State Fault Refusal :=
  done s (
    let d := Sparse.get {} s.descs desc.toNat
    match d.promote, d.pend with
    | true, some (id, p) =>
      match cmd? s id with
      | none => s
      | some c => startGeneration c p (setDesc desc.toNat { d with gen := (d.gen + 1) % 2 ^ 32, pend := none } s)
    | _, _ => s)

/-- A fault of a command is dropped with its page request outstanding: the response, when it comes, is late (R261, R291). -/
def dropFault (id : Nat) (s : State) : State :=
  match cmd? s id with
  | none => s
  | some c => modCmd id (fun d => { d with use := { d.use with fault := none } }) (leaveTag c s)

/-- The STREAM_ARM of a cancelled generation ends with ST_ABORTED, reason 5, unless it has ended with another failure (R261). -/
def abortArm (id : Nat) (s : State) : State :=
  match cmd? s id with
  | none => s
  | some c => if c.phase == .done && !(c.status == .ok) then s else dropFault id (finish id (.aborted, 5, 0) s)

/-- An issued STREAM_CANCEL (R258, R261). -/
def cancelStream (c : Cmd) (s : State) : State :=
  let k := descNo c
  let d := desc s k
  if rd Reg.STREAM_DESC_CFG_CTX k s != c.ctx then finish c.id (.badField, fieldPos 8 0 0, 0) s
  else
    let t := endCommands (fun x => d.pend.map (·.1) == some x.id) (fun _ => (.aborted, 5, 0)) s
    let e := desc t k
    match e.cmd with
    | none => finish c.id okVerdict (setDesc k { e with promote := false } t)
    | some i => abortArm i (setDesc k { e with cancel := e.cancel ++ [c.id], ended := true, pend := none } t)

/-- STREAM_CANCEL (R261): it completes when the generation it stops has posted its reply. -/
def execStreamCancel (cmd : Nat) (s : State) : Host.Outcome State Fault Refusal :=
  done s (onIssued cmd 0x19 s fun c t => if cmd ∈ (desc s (descNo c)).cancel then s else cancelStream c t)

/-! ### Generations -/

/-- Whether a command is a COPY that became ACTIVE before a place in that order (R257, R261). -/
def copyBefore (n : Nat) (c : Cmd) : Bool :=
  match c.work with
  | .copy _ (some o) => decide (o < n) && !(c.phase == .done)
  | _ => false

/-- Generations, COPYs among them, that run and became ACTIVE before a place in their order: the number of the rill engine of the one at
that place (R257, log entry 89). -/
def engineNo (s : State) (n : Nat) : Nat :=
  (s.descs.filter fun e => (e.2.st == .active || e.2.st == .faulted) && decide (e.2.order < n)).length + (s.cmds.filter (copyBefore n)).length

/-- Whether a generation with a place in the order in which they became ACTIVE holds one of the 64 rill engines: fewer than 64
others became ACTIVE before it (R257). -/
def holdsEngine (s : State) (n : Nat) : Bool := decide (engineNo s n < 64)

/-- Whether a rung has fenced the context of a generation (R311). -/
def rillFenced (s : State) (d : SDesc) : Bool := d.cmd.any fun i => (cmd? s i).any fun c => (ctx s c.ctx).st == .resetting

/-- Runs `f` on the generation of a descriptor whose next instruction is `op`. -/
def onRill (k op : Nat) (s : State) (f : SDesc → Nat → State) : State :=
  let d := desc s k
  let w := slotAt d.prog d.pc
  if d.st == .active && !d.ended && !rillFenced s d && holdsEngine s d.order && decide (d.pc < ninstr d.prog) && insOp w == op then
    f d w
  else s

/-- Moves a generation's pc; past the last instruction the program ends and its STREAM_ARM is done. -/
def advancePc (k : Nat) (d : SDesc) (pc : Nat) (s : State) : State :=
  let past := decide (pc ≥ ninstr d.prog)
  let t := setDesc k { d with pc := pc, ended := past, waitOk := false } s
  match past, d.cmd with
  | true, some i => finish i okVerdict t
  | _, _ => t

/-- HALT (R255). -/
def execRillHalt (desc : DescNo) (s : State) : Host.Outcome State Fault Refusal :=
  done s (onRill desc.toNat 0 s fun d _ =>
    let t := setDesc desc.toNat { d with ended := true } s
    match d.cmd with
    | some i => finish i okVerdict t
    | none => t)

/-- LOOP (R255). -/
def execRillLoop (desc : DescNo) (s : State) : Host.Outcome State Fault Refusal :=
  done s (onRill desc.toNat 1 s fun d w =>
    advancePc desc.toNat { d with idx := setAt d.idx (insD w) 0 } (d.pc + 1) s)

/-- The slot of the LOOP of a dimension. -/
def loopSlot (p : List Word) (dim : Nat) : Nat :=
  ((List.range (ninstr p)).find? fun i => insOp (slotAt p i) == 1 && insD (slotAt p i) == dim).getD 0

/-- NEXT (R255). -/
def execRillNext (desc : DescNo) (s : State) : Host.Outcome State Fault Refusal :=
  done s (onRill desc.toNat 2 s fun d w =>
    let dim := insD w
    let l := loopSlot d.prog dim
    let n := d.idx.getD dim 0 + 1
    if n < insCount (slotAt d.prog l) then advancePc desc.toNat { d with idx := setAt d.idx dim n } (l + 1) s
    else advancePc desc.toNat { d with idx := setAt d.idx dim 0 } (d.pc + 1) s)

/-- Address of the current element on a side. -/
def elemAddr (d : SDesc) (baseWord first : Nat) : Nat :=
  ((addr64 d.prog baseWord : Int)
    + ((List.range 6).map fun i => (d.idx.getD i 0 : Int) * strideOf d.prog first i).foldl (· + ·) 0).toNat

/-- The part of [a, a + n) that lies in [b, b + m), as start and length. -/
def overlapOf (a n b m : Nat) : Nat × Nat := (max a b, min (a + n) (b + m) - max a b)

/-- Overlaps of [a, a + n) with several ranges, those not empty. -/
def overlaps (a n : Nat) (rs : List (Nat × Nat)) : List (Nat × Nat) :=
  (rs.map fun r => overlapOf a n r.1 r.2).filter fun r => decide (r.2 ≠ 0)

/-- Writes free bytes over ranges: bytes whose content the manual leaves undefined (R256, R261). -/
def freeRanges (space : Nat) (rs : List (Nat × Nat)) (s : State) : State :=
  rs.foldl (fun t r => writeFree space r.1 r.2 t) s

/-! ### Transfers (R257) -/

/-- Transfers of `n` bytes: offset and bytes of each. None holds more than 4,096 bytes or crosses a 4 KiB boundary on either
side. -/
def transfers : Nat → Nat → Nat → Nat → Nat → List (Nat × Nat)
  | 0, _, _, _, _ => []
  | k + 1, src, dst, off, n =>
    if off ≥ n then []
    else
      let m := min (min (4096 - (src + off) % 4096) (4096 - (dst + off) % 4096)) (n - off)
      (off, m) :: transfers k src dst (off + m) n

/-- The transfers of bytes `off` to `n` of an element or a COPY. -/
def transfersOf (src dst off n : Nat) : List (Nat × Nat) := transfers (2 * (n / 4096 + 2)) src dst off n

/-- Why a run of transfers stops. -/
inductive XStop
  /-- an access lies outside the context's windows (R278) -/
  | window
  /-- an access lacks its translation (R262): its pages -/
  | lacking (pages : List Nat)
  deriving DecidableEq, Repr

/-- What stops a transfer of `m` bytes for a context. -/
def transferStop (s : State) (k src dst m : Nat) : Option XStop :=
  let sp := spaceOf s k
  let l := lackingPages s sp src m false ++ lackingPages s sp dst m true
  if !(windowAllows s k src m false && windowAllows s k dst m true) then some .window
  else if l.isEmpty then none else some (.lacking l)

/-- Runs transfers in order, each by `move`, up to the first that may not be issued: the state, the bytes delivered, and what
stopped it. -/
def runTransfers (k src dst : Nat) (move : Nat → Nat → State → State) : List (Nat × Nat) → State → Nat → State × Nat × Option XStop
  | [], s, n => (s, n, none)
  | (off, m) :: rest, s, n =>
    match transferStop s k (src + off) (dst + off) m with
    | some x => (s, n, some x)
    | none => runTransfers k src dst move rest (move off m s) (off + m)

/-- Moves bytes for a command: they join its digest's inputs and its traffic. -/
def moveBytes (id sp src dst m : Nat) (s : State) : State :=
  let bs := readMem s sp src m
  noteWrite id dst m (noteRead id src (addInputs id bs (writeMem sp dst bs s)))

/-- One transfer of an element of `n` bytes: the bytes move, then what the generation both wrote twice, or read and wrote,
holds free bytes (R256). -/
def moveElement (id sp src dst n : Nat) (d : SDesc) (off m : Nat) (s : State) : State :=
  let t := freeRanges sp (overlaps (src + off) m ((dst, off) :: d.dsts)) s
  freeRanges sp (overlaps (dst + off) m (d.dsts ++ (src, n) :: d.srcs)) (moveBytes id sp (src + off) (dst + off) m t)

/-- Delivers the current element of a generation from its BYTE_OFF on, in those transfers that `p` takes. -/
def deliver (id k : Nat) (d : SDesc) (p : Nat × Nat → Bool) (s : State) : State × Nat × Option XStop :=
  let src := elemAddr d 2 6
  let dst := elemAddr d 4 12
  let n := elemOf d.prog
  runTransfers k src dst (moveElement id (spaceOf s k) src dst n d) ((transfersOf src dst d.byteOff n).filter p) s d.byteOff

/-- A generation ends at an access outside its context's windows, BYTE_OFF telling what of its element was delivered (R264, R278). -/
def outsideWindow (k id off : Nat) (d : SDesc) (s : State) : State :=
  finish id (.xlateFault, k, min d.delivered 0xFFFFFFFF) (setDesc k { d with ended := true, byteOff := off } s)

/-- MOVE (R255, R257, R262, R278): delivers the current element in its transfers. An access outside the context's windows ends the
generation there; one without its translation is asked for and waits. -/
def execRillMove (desc : DescNo) (s : State) : Host.Outcome State Fault Refusal :=
  done s (onRill desc.toNat 3 s fun d _ =>
    let k := desc.toNat
    match d.cmd with
    | none => s
    | some id =>
      let c := rd Reg.STREAM_DESC_CFG_CTX k s
      let n := elemOf d.prog
      match deliver id c d (fun _ => true) s with
      | (t, _, none) =>
        advancePc k
          { d with delivered := d.delivered + 1, byteOff := 0, srcs := (elemAddr d 2 6, n) :: d.srcs,
                   dsts := (elemAddr d 4 12, n) :: d.dsts, marks := (d.pc, d.idx) :: d.marks }
          (d.pc + 1) (progress id t)
      | (t, off, some .window) => outsideWindow k id off d t
      | (t, off, some (.lacking l)) => askPages (spaceOf s c) l (setDesc k { d with byteOff := off } t))

/-- POST (R255, R266): once every earlier element is delivered and flushed, the valve rises by 1. The first call issues the
flush reads. `joins` tells that it falls in the cycle of the modification just before it (R286). -/
def execRillPost (desc : Timed DescNo) (s : State) : Host.Outcome State Fault Refusal :=
  done s (onRill desc.who.toNat 4 s fun d w =>
    match d.cmd.bind (cmd? s) with
    | none => s
    | some c =>
      if flushed c.use then
        inCycle desc.joins (insValve w) (1024 + engineNo s d.order) false 1 s
          (advancePc desc.who.toNat d (d.pc + 1) (valveAdd c.ctx (insValve w) 1 (progress c.id s)))
      else beginFlush c s)

/-- Whether the condition of a WAIT holds (R255). -/
def rillWaitTrue (s : State) (d : SDesc) (w : Nat) : Bool :=
  decide (valve s (insValve w) ≥ insValue w + (if insIdxEn w then d.idx.getD (insD w) 0 else 0))

/-- WAIT (R255): passes once its condition was found true. -/
def execRillWait (desc : DescNo) (s : State) : Host.Outcome State Fault Refusal :=
  done s (onRill desc.toNat 5 s fun d w =>
    if d.waitOk || rillWaitTrue s d w then advancePc desc.toNat d (d.pc + 1) s else s)

/-- FENCE (R255): every element issued is delivered, so it passes. -/
def execRillFence (desc : DescNo) (s : State) : Host.Outcome State Fault Refusal :=
  done s (onRill desc.toNat 6 s fun d _ => advancePc desc.toNat d (d.pc + 1) s)

/-! ### Satisfied waits -/

/-- VALVE_WAIT_SATISFIED (R285, R286): a wait whose condition holds proceeds; it sees the modifications of earlier cycles. -/
def execValveWaitSatisfied (src : WaitSrc) (s : State) : Host.Outcome State Fault Refusal :=
  done s (match src with
    | .held id =>
      match cmd? s id with
      | none => s
      | some c => if isValveWait c && c.phase == .running && waitTrue s c then endCycle (finish id okVerdict s) else s
    | .header id =>
      match cmd? s id with
      | none => s
      | some c =>
        if Pkt.waitEn c.words && c.phase == .admitted && decide (valve s (Pkt.waitValve c.words) ≥ 1) then
          endCycle (progress id (modCmd id (fun d => { d with waitOk := true }) s))
        else s
    | .rill k =>
      onRill k.toNat 5 s fun d w =>
        if rillWaitTrue s d w then endCycle (progress (d.cmd.getD s.nextId) (setDesc k.toNat { d with waitOk := true } s)) else s)

/-! ### COPY -/

/-- Bytes a COPY has delivered, and its place among the generations. -/
def copyState (c : Cmd) : Nat × Option Nat := match c.work with | .copy n o => (n, o) | _ => (0, none)

/-- A COPY takes its place in the order in which generations become ACTIVE (R257, R261). -/
def copyActive (c : Cmd) (s : State) : Nat × State :=
  match (copyState c).2 with
  | some o => (o, s)
  | none =>
    (s.host.order, modCmd c.id (fun d => { d with work := .copy (copyState c).1 (some s.host.order) })
      { s with host := { s.host with order := s.host.order + 1 } })

/-- Runs a COPY from where it stands, in those transfers that `p` takes. -/
def copyRun (c : Cmd) (p : Nat × Nat → Bool) (s : State) : State × Nat × Option XStop :=
  let src := Pkt.addrA c.words
  let dst := Pkt.addrB c.words
  let sp := spaceOf s c.ctx
  let at_ := (copyState c).1
  let r := runTransfers c.ctx src dst (fun off m t => moveBytes c.id sp (src + off) (dst + off) m t)
    ((transfersOf src dst at_ (Pkt.w9 c.words)).filter p) s at_
  (modCmd c.id (fun d => { d with work := .copy r.2.1 (copyState d).2 }) r.1, r.2)

/-- COPY (R261): a one-element generation with no descriptor, on a rill engine of its own. Bytes that are both source and
destination end free. -/
def execCopy (cmd : Nat) (s : State) : Host.Outcome State Fault Refusal :=
  done s (onIssued cmd 0x1A s fun c t =>
    let n := Pkt.w9 c.words
    let sp := spaceOf s c.ctx
    let (o, u) := copyActive c t
    if !holdsEngine u o then u
    else match copyRun c (fun _ => true) u with
      | (x, _, none) => finish cmd okVerdict (freeRanges sp (overlaps (Pkt.addrB c.words) n [(Pkt.addrA c.words, n)]) x)
      | (x, off, some .window) => finish cmd (.xlateFault, 0xFFFFFFFF, off) x
      | (x, _, some (.lacking l)) => askPages sp l x)

/-! ### Translation faults (R262 to R265) -/

/-- The command that makes a mover's accesses. -/
def moverCmd (s : State) : Mover → Option Cmd
  | .cmd id => cmd? s id
  | .desc k => (desc s k.toNat).cmd.bind (cmd? s)

/-- DETAIL1 of ST_XLATE_FAULT for a command other than STREAM_ARM and COPY (R264). -/
def siteDetail : FaultSite → Nat
  | .packet w => w.toNat
  | .record f w => w.toNat + 2 ^ 10 + f.toNat * 2 ^ 16
  | .descriptor w => w.toNat + 2 ^ 11
  | .program => 11
  | .transfer n => n

/-- The verdict of an unresolved fault (R264). -/
def faultVerdict (s : State) (c : Cmd) (f : XFault) : Verdict :=
  match c.op with
  | 0x18 => (.xlateFault, descNo c, if f.site = .program then 0 else min (desc s (descNo c)).delivered 0xFFFFFFFF)
  | 0x1A => (.xlateFault, 0xFFFFFFFF, (copyState c).1)
  | _ => (.xlateFault, 0xFFFFFFFE, siteDetail f.site)

/-- A completion flag that stays unresolved is not written: a record of the context and its count stand in its place (R273). The
record names the queue and the SEQ of the reply to come. -/
def flagLost (c : Cmd) (s : State) : State :=
  modCmd c.id (fun d => { d with noFlag := true })
    (bump Reg.HOSTPATH_UNWRITTEN_CNT_COUNT 0 1
      (logErr 0x0004 0 (some c.ctx) 0 (c.queue + (queue s c.queue).seq * 2 ^ 32) s))

/-- An unresolved fault ends the command (R264, R35): during admission with its reply alone. One at the completion flag leaves the
status as it is (R273). A status that an earlier condition has decided stands (R107). -/
def unresolved (c : Cmd) (f : XFault) (s : State) : State :=
  let v := faultVerdict s c f
  let t := modCmd c.id (fun d => { d with use := { d.use with fault := none } }) s
  if c.phase == .reading then rejectCmd c v t
  else if c.phase == .done then (if f.site = .packet 4#5 then flagLost c t else t)
  else
    let k := descNo c
    let u := if c.op = 0x18 ∧ (desc s k).cmd = some c.id then setDesc k { desc s k with ended := true } t else t
    finish c.id v u

/-- Whether one more page request may be outstanding: the smaller of 512 and the host's allocation bounds them (R263). -/
def prgRoom (s : State) : Bool :=
  decide ((s.cmds.filter fun c => c.use.fault.any (·.sent)).length < min 512 s.host.alloc)

/-- Sets the fault that a command waits for. -/
def putFault (id : Nat) (f : XFault) (s : State) : State :=
  modCmd id (fun d => { d with use := { d.use with fault := some f } }) s

/-- Sends the page request of a fault (R263). -/
def sendPage (c : Cmd) (f : XFault) (s : State) : State :=
  send (.pageRequest (spaceOf s c.ctx) (f.addr / 4096 * 4096) f.write) (putFault c.id { f with sent := true } s)

/-- A fault sends its page request, or waits while the limit is reached; with ATS not enabled or PRI stopped it is unresolved at
once (R263). -/
def raiseFault (c : Cmd) (f : XFault) (s : State) : State :=
  if !s.host.ats || rdb Reg.PRI_STAT_STOPPED 0 s then unresolved c f s
  else if prgRoom s then sendPage c f s
  else putFault c.id f s

/-- The waiting fault of a command goes on: its request is sent once the limit allows it, and it is unresolved once PRI is
stopped. DESIGN CHOICE: waiting faults go on in the order in which their commands were admitted (log entry 72). -/
def serveFault (s : State) (id : Nat) : State :=
  match cmd? s id with
  | none => s
  | some c =>
    match c.use.fault with
    | none => s
    | some f => if f.sent || (!rdb Reg.PRI_STAT_STOPPED 0 s && !prgRoom s) then s else raiseFault c f s

/-- Every waiting fault goes on that can. -/
def serveFaults (s : State) : State := (s.cmds.map (·.id)).foldl serveFault s

/-- A fault of a generation at an offset of its element (R262): the transfers before it are delivered, and it is FAULTED with its
cursor at the element and BYTE_OFF at the bytes delivered. An access outside the windows that lies lower ends it instead (R300). -/
def faultGeneration (k off : Nat) (c : Cmd) (s : State) : State :=
  let d := desc s k
  if d.st == .active && insOp (slotAt d.prog d.pc) == 3 then
    match deliver c.id c.ctx d (fun t => decide (t.1 + t.2 ≤ off)) s with
    | (t, n, some .window) => outsideWindow k c.id n d t
    | (t, n, _) => setDesc k { d with st := .faulted, byteOff := n } t
  else s

/-- What a command has done when its access faults: a COPY has moved the transfers before it, a generation stands at its element,
an arm that reads its program is LOADING. -/
def stopAtFault (c : Cmd) (site : FaultSite) (s : State) : State :=
  match c.op, site with
  | 0x1A, .transfer off =>
    match copyRun c (fun t => decide (t.1 + t.2 ≤ off)) s with
    | (t, n, some .window) => finish c.id (.xlateFault, 0xFFFFFFFF, n) t
    | (t, _, _) => t
  | 0x18, .transfer off => faultGeneration (descNo c) off c s
  | 0x18, .program =>
    let d := desc s (descNo c)
    if d.st == .idle && !d.promote then
      setDesc (descNo c) { d with st := .loading, gen := (d.gen + 1) % 2 ^ 32, cmd := some c.id } s
    else s
  | _, _ => s

/-- Whether an access of a command can fault at a host address: it is issued, and its work has not ended; once it has, its
completion flag alone is left (R39, R262). -/
def mayFault (s : State) (c : Cmd) (addr : Nat) (write : Bool) (site : FaultSite) : Bool :=
  c.use.fault.isNone && !isChip addr && !(c.phase == .admitted)
  && (!(c.phase == .done) || (site == .packet 4#5 && Pkt.cflagEn c.words && !c.noFlag))
  && !(s.host.ats && translated s (spaceOf s c.ctx) addr 1 write)

/-- TRANSLATION_FAULT (R262, R263): an access that lacks its translation or permission stops the command's accesses, and a page
request is sent. -/
def execTranslationFault (who : Mover) (addr : Dword) (write : Bool) (site : FaultSite) (s : State) :
    Host.Outcome State Fault Refusal :=
  done s (match moverCmd s who with
    | none => s
    | some c =>
      if mayFault s c addr.toNat write site then
        let t := stopAtFault c site s
        match cmd? t c.id with
        | none => t
        | some d =>
          if d.phase == .done && !(c.phase == .done) then t
          else raiseFault d { addr := addr.toNat, write := write, site := site, retries := 0, sent := false } t
      else s)

/-- A fault is served: the command goes on from its cursor (R263). -/
def resume (c : Cmd) (s : State) : State :=
  let k := descNo c
  let t := modCmd c.id (fun d => { d with use := { d.use with fault := none } }) s
  if c.op = 0x18 ∧ (desc s k).cmd = some c.id ∧ (desc s k).st = .faulted then setDesc k { desc s k with st := .active } t else t

/-- The context that holds the tag of an ended command. -/
def tagCtx (s : State) (id : Nat) : Option Nat :=
  (s.ctxs.find? fun e => e.2.tags.any fun t => decide (t.2 = .cmd id)).map (·.1)

/-- A page response for a command or generation that has ended is dropped, counted, and retires its tag (R261, R291, R292). -/
def latePage (who : Mover) (s : State) : State :=
  match who with
  | .cmd id => ((tagCtx s id).map fun c => retireTag c (.cmd id) (lateResponse c s)).getD s
  | .desc k =>
    let c := rd Reg.STREAM_DESC_CFG_CTX k.toNat s
    match (ctx s c).tags.findSome? fun t => match t.2 with | .cmd i => some i | .req _ => none with
    | none => s
    | some i => retireTag c (.cmd i) (lateResponse c s)

/-- PRG_RESPONSE (R263): a response to no outstanding request is late. -/
def execPrgResponse (who : Mover) (code : PrgCode) (s : State) : Host.Outcome State Fault Refusal :=
  done s (serveFaults (match moverCmd s who with
    | none => latePage who s
    | some c =>
      match c.use.fault with
      | none => latePage who s
      | some f =>
        if !f.sent then s
        else match code with
        | .success => resume c s
        | .stillLacking =>
          if f.retries < rd Reg.PRI_CFG_RETRY 0 s then sendPage c { f with retries := f.retries + 1 } s else unresolved c f s
        | .invalid => unresolved c f s
        | .failure => unresolved c f (wr Reg.PRI_STAT_STOPPED 0 1 s)))

/-- PRI_TIMEOUT (R263): no response within TMO_MS, waiting included, leaves the fault unresolved; a later response is late. -/
def execPriTimeout (who : Mover) (s : State) : Host.Outcome State Fault Refusal :=
  done s (match moverCmd s who with
    | none => s
    | some c =>
      match c.use.fault with
      | none => s
      | some f => serveFaults (unresolved c f (leaveTag c s)))

/-- HOST_ENABLES_PRI (R263, R272): the host enables ATS and PRI for the engine's function. -/
def execHostEnablesPri (s : State) : Host.Outcome State Fault Refusal :=
  done s (serveFaults (wr Reg.PRI_STAT_STOPPED 0 0 { s with host := { s.host with ats := true } }))

/-- ATS_TRANSLATION_COMPLETION (R262): fills the cache of 8,192 entries; the oldest entry makes room. -/
def execAtsTranslationCompletion (entry : AtcEntry) (s : State) : Host.Outcome State Fault Refusal :=
  done s { s with host := { s.host with
    atc := (entry :: s.host.atc.filter fun e => !(e.space == entry.space && e.page == entry.page)).take 8192
    asked := s.host.asked.filter fun a =>
      !(a.1 == entry.space && decide (entry.page.toNat ≤ a.2) && decide (a.2 < entry.page.toNat + entry.size)) } }

/-- Whether an entry translates any byte of a range. -/
def entryIn (e : AtcEntry) (space page size : Nat) : Bool :=
  e.space == space && decide (e.page.toNat < page + size) && decide (page < e.page.toNat + e.size)

/-- Reads of a command, issued before, whose completion an invalidation waits for (R265): the feature records of a CASCADE, and the
zero-length reads up to the last one within the range. -/
def readsIn (c : Cmd) (page size : Nat) : Nat :=
  let hits := fun (a n : Nat) => !isChip a && decide (a < page + size) && decide (page < a + n)
  if c.phase == .reading then (if hits (Pkt.addrA c.words) (32 * Pkt.features c.words) then 1 else 0)
  else ((List.range c.use.reads.length).filter fun i => (c.use.reads[i]?).any fun r => hits r.addr 1).foldl (fun m i => max m (i + 1)) 0

/-- ATS_INVALIDATE (R265): the entries go and it is counted; its completion is sent once the reads issued with them have completed.
Nothing faults by it. -/
def execAtsInvalidate (space : Nat) (page : Dword) (size : Nat) (s : State) : Host.Outcome State Fault Refusal :=
  done s (
    let ws := (s.cmds.filter fun c => spaceOf s c.ctx == space).map fun c => (c.id, readsIn c page.toNat size)
    answerInvals (bump Reg.ATC_INVAL_CNT_COUNT 0 1
      { s with host := { s.host with
        atc := s.host.atc.filter fun e => !entryIn e space page.toNat size
        invals := s.host.invals
          ++ [{ space := space, page := page.toNat, size := size, waits := ws.filter fun w => w.2 != 0 }] } }))

end Sys2Proof.Machine
end

