-- ==== Sys2Proof/Machine/Gather.lean ====
section
/-! DEFINITION. GATHER_POOL and CASCADE (R82 to R106): intake, unique rows, fetches, weir and remote requests, pooling,
normalisation, records and results. -/

namespace Sys2Proof.Machine

/-! ### The arrays of a forward command -/

/-- The arrays of one feature, with the address fields that name them. -/
structure Arrays where
  /-- feature -/
  idx : Nat
  /-- IDS -/
  ids : Nat
  /-- IDS_ADDR -/
  idsAddr : Nat
  /-- OFFS_ADDR -/
  offsAddr : Nat
  /-- WEIGHTS_ADDR -/
  wAddr : Nat
  /-- sites of the three -/
  sites : FaultSite × FaultSite × FaultSite

/-- The arrays of a command, by feature. -/
def arraysOf (c : Cmd) : List Arrays :=
  if c.op = 1 then
    [⟨0, Pkt.ids c.words, Pkt.addrA c.words, Pkt.addrB c.words, Pkt.addrC c.words, (.packet 11, .packet 13, .packet 16)⟩]
  else c.feats.zipIdx.map fun e =>
    let f := BitVec.ofNat 6 e.2
    ⟨e.2, wordAt e.1 1, addr64 e.1 2, addr64 e.1 4, addr64 e.1 6, (.record f 2, .record f 4, .record f 6)⟩

/-- ST_BAD_FIELD at a field of a feature: packet words of a GATHER_POOL, record words of a CASCADE (R83). -/
def featBad (c : Cmd) (f packetWord recordWord : Nat) : Verdict :=
  if c.op = 1 then (.badField, fieldPos packetWord 0 0, 0) else (.badField, fieldPos recordWord 0 10, f)

/-- Reads an array of a command; outside its windows the access is an unresolved fault (R278). -/
def readArray (s : State) (c : Cmd) (addr n : Nat) (site : FaultSite) : Except Verdict (List Byte) :=
  if n = 0 ∨ windowAllows s c.ctx addr n false then .ok (readMem s (spaceOf s c.ctx) addr n)
  else .error (.xlateFault, 0xFFFFFFFE, siteDetail site)

/-- Reads an array that no packet address names, such as a shard map: its bytes, or what the command does instead while the host path
does not let it be read (R262, R269). -/
def readLate (c : Cmd) (s : State) (addr n : Nat) (site : FaultSite) : Except State (List Byte) :=
  match readArray s c addr n site with
  | .error v => .error (finish c.id v s)
  | .ok bs =>
    if n = 0 ∨ isChip addr then .ok bs
    else if s.host.st != .opened then .error (finish c.id (lostVerdict c) s)
    else match lackingPages s (spaceOf s c.ctx) addr n false with
      | [] => .ok bs
      | l => .error (askPages (spaceOf s c.ctx) l s)

/-- Whether an offset array breaks R83. -/
def offsBad (ids : Nat) (offs : List Nat) : Bool :=
  offs.headD 0 != 0 || offs.getLastD 0 != ids
  || (List.zip offs (offs.drop 1)).any fun e => decide (e.2 < e.1) || decide (e.2 - e.1 > 65535)

/-- One use from its identifier. -/
def useOf (tb : Table) (id : Nat) : Use :=
  match lookupId tb id with
  | .dropped r => { reason := some r, row := 0, slice := 0, uniq := 0 }
  | .here row => { reason := none, row := row, slice := homeOf row, uniq := 0 }
  | .remote row _ => { reason := none, row := row, slice := homeOf row, uniq := 0 }

/-- Intake of one feature: its offsets, uses and weights, with what it adds to the digest (R83, R84, R299); `total` counts the
identifiers of the features before it. -/
def intakeFeat (s : State) (c : Cmd) (f : Feat) (a : Arrays) (total : Nat) : Except Verdict (Feat × List Byte) :=
  if total + a.ids > 2 ^ 24 then .error (featBad c a.idx 10 1)
  else
    match readArray s c a.offsAddr (4 * (Pkt.bags c.words + 1)) a.sites.2.1 with
    | .error v => .error v
    | .ok ob =>
      let offs := codesOf 4 (Pkt.bags c.words + 1) ob
      if offsBad a.ids offs then .error (featBad c a.idx 13 4)
      else
        match readArray s c a.idsAddr (8 * a.ids) a.sites.1,
          (if f.pool = 2 then readArray s c a.wAddr (4 * a.ids) a.sites.2.2 else .ok []) with
        | .error v, _ => .error v
        | _, .error v => .error v
        | .ok ib, .ok wb =>
          let uses := (codesOf 8 a.ids ib).map (useOf (table s f.table))
          .ok ({ f with offs := offs, uses := uses, weights := wordsOf (wb.length / 4) wb }, ib ++ ob ++ wb)

/-- Intake of every feature in order. -/
def intakeFeats (s : State) (c : Cmd) : List (Feat × Arrays) → Nat → Except Verdict (List (Feat × List Byte))
  | [], _ => .ok []
  | (f, a) :: rest, total =>
    match intakeFeat s c f a total with
    | .error v => .error v
    | .ok e => match intakeFeats s c rest (total + a.ids) with
      | .error v => .error v
      | .ok es => .ok (e :: es)

/-- Bytes of a code of OUT_FMT. -/
def outFmtBytes (c : Cmd) : Nat := fmtBytes (Pkt.outFmt c.words)

/-- The dense vectors of a CASCADE with INTERACT 1 (R235). -/
def readDense (s : State) (c : Cmd) (n : Nat) : Except Verdict (List Byte) :=
  if c.op = 2 ∧ Pkt.interact c.words then
    readArray s c (Pkt.addrB c.words) (Pkt.bags c.words * n * outFmtBytes c) (.packet 13)
  else .ok []

/-! ### Unique rows (R84) -/

/-- A kept use as R84 sorts it: slice, table, row, feature, use. -/
structure Key where
  /-- slice of the partition -/
  slice : Nat
  /-- table -/
  tab : Nat
  /-- row -/
  row : Nat
  /-- feature -/
  feat : Nat
  /-- use -/
  use : Nat
  deriving DecidableEq, Repr

/-- The order of R84. -/
def Key.lt (a b : Key) : Bool :=
  decide (a.slice < b.slice) || (a.slice == b.slice && (decide (a.tab < b.tab) || (a.tab == b.tab &&
    (decide (a.row < b.row) || (a.row == b.row && (decide (a.feat < b.feat) || (a.feat == b.feat && decide (a.use < b.use))))))))

/-- The kept uses of the features in the order of R84, for `n` slices. -/
def sortedUses (n : Nat) (fs : List Feat) : List Key :=
  sortBy Key.lt (fs.zipIdx.flatMap fun e => e.1.uses.zipIdx.filterMap fun u =>
    if u.1.reason.isNone then some ⟨u.1.slice % n, e.1.table, u.1.row, e.2, u.2⟩ else none)

/-- The unique rows in order: slice, table, row. -/
def uniqueRows (ks : List Key) : List (Nat × Nat × Nat) := dedup (ks.map fun k => (k.slice, k.tab, k.row))

/-- The uses with the numbers of their unique rows. -/
def numberUses (n : Nat) (us : List (Nat × Nat × Nat)) (f : Feat) : Feat :=
  { f with uses := f.uses.map fun u =>
    if u.reason.isNone then
      let g := us.filter fun e => e.1 == u.slice % n
      { u with uniq := (idxOf (fun e => e.2.1 == f.table && e.2.2 == u.row) g).getD 0 }
    else u }

/-- Whether a row is homed on another chip, and which. -/
def remoteChip (s : State) (t row : Nat) : Option Nat :=
  match (table s t).shard? row with
  | some h => if h.tier = 5 then some h.chip else none
  | none => none

/-! ### Lehr space (R224, R225) -/

/-- Lehr bytes free on a logical slice. -/
def lehrFree (s : State) (sl : Nat) : Nat :=
  4194304 - sumOf (s.lehr.flatMap fun r => (r.held.filter fun h => h.2.1 == sl).map fun h => h.2.2)

/-- Tiles of a context's spill region. -/
def spillTiles (s : State) (c : Nat) : Nat := rd Reg.LEHR_SPILL_LEN_LEN c s * 1024

/-- Address of a tile of a spill region. -/
def spillAddr (s : State) (c tile : Nat) : Nat := rd Reg.LEHR_SPILL_BASE_BASE c s * 65536 + 64 * tile

/-- Tiles of a spill region in use. -/
def spillUsed (s : State) (c : Nat) : List Nat := (s.lehr.filter fun r => r.ctx == c).flatMap fun r => r.spill.map (·.tile)

/-- Modifies the record of a forward command. -/
def modLehr (id : Nat) (f : LehrRec → LehrRec) (s : State) : State :=
  { s with lehr := s.lehr.map fun r => if r.cmd == id then f r else r }

/-- Writes one record's bytes to free tiles of the spill region, each with its check (R224). -/
def spillWrite (id c sl feat : Nat) (bs : List Byte) (s : State) : State :=
  let n := ceilDiv bs.length 64
  let tiles := lowestFree (spillUsed s c) n 0 []
  let parts := tiles.zipIdx.map fun e => (e.1, padTo 64 ((bs.drop (64 * e.2)).take 64))
  let t := parts.foldl (fun t e => writeTier ⟨1, 0, spillAddr t c e.1⟩ e.2 t) s
  modLehr id (fun r => { r with spill := r.spill ++ parts.map fun e =>
    { feature := feat, slice := sl, tile := e.1, crc := tileCheck e.2 e.1 0 } }) t

/-- A record to place: feature and bytes. -/
abbrev Item := Nat × List Byte

/-- Bytes of items. -/
def itemBytes (l : List Item) : Nat := sumOf (l.map fun e => e.2.length)

/-- Places records of one slice in its lehr, else in the spill region; none where neither takes them. -/
def placeItems (id c sl : Nat) (l : List Item) (s : State) : Option State :=
  if itemBytes l = 0 then some s
  else if itemBytes l ≤ lehrFree s sl then
    some (modLehr id (fun r => { r with held := r.held ++ (l.map fun e => (e.1, sl, e.2.length)).filter fun h => h.2.2 != 0 }) s)
  else
    let need := sumOf (l.map fun e => ceilDiv e.2.length 64)
    if (spillUsed s c).length + need ≤ spillTiles s c then some (l.foldl (fun t e => spillWrite id c sl e.1 e.2 t) s) else none

/-- Index-list entry of a use in a partition (R86). -/
def useWord (part : Nat × Nat) (u : Use) : Nat :=
  match u.reason with
  | some r => 2 ^ 31 + r * 2 ^ 29
  | none => (part.1 + u.slice % part.2) * 2 ^ 27 + u.uniq

/-- Index list and weights of one bag. -/
def listBytes (part : Nat × Nat) (f : Feat) (b : Nat) : List Byte :=
  let lo := f.offs.getD b 0
  let n := f.offs.getD (b + 1) 0 - lo
  (((f.uses.drop lo).take n).flatMap fun u => toLE 4 (useWord part u)) ++
    (if f.pool = 2 then bytesOf ((f.weights.drop lo).take n) else [])

/-- Slice that assembles a bag or sample (R281). -/
def asmSlice (s : State) (c b : Nat) : Nat := (partOf s c).1 + b % leavesOf s c

/-- Whether a command keeps lehr records. -/
def hasRecord (s : State) (id : Nat) : Bool := s.lehr.any fun r => r.cmd == id

/-- Reserves the space of the index lists on every slice (R224); none where a slice cannot. -/
def reserveLists (c : Cmd) (fs : List Feat) (s : State) : Option State :=
  if !hasRecord s c.id then some s
  else
    let n := Pkt.bags c.words
    (List.range (leavesOf s c.ctx)).foldl (fun (acc : Option State) k =>
      acc.bind fun t =>
        let bags := (List.range n).filter fun b => b % leavesOf s c.ctx == k
        placeItems c.id c.ctx ((partOf s c.ctx).1 + k)
          (fs.zipIdx.filterMap fun e => if e.1.trained then some (e.2, bags.flatMap (listBytes (partOf s c.ctx) e.1)) else none) t) (some s)

/-! ### Intake -/

/-- The rows of a command, each to be pooled in the lanes or on its home chip. -/
def rowVals (s : State) (us : List (Nat × Nat × Nat)) : List RowVal :=
  us.map fun e => { table := e.2.1, row := e.2.2, via := if (remoteChip s e.2.1 e.2.2).isSome then .remote else .lane }

/-- The work with its forward part replaced: that of a forward command, or the rows a SCATTER_GRAD gathers again. -/
def Work.withFwd (f : Fwd) : Work → Work
  | .scatter g => .scatter { g with again := f }
  | _ => .fwd f

/-- Sets the forward part of what a command keeps. -/
def setFwd (id : Nat) (f : Fwd) (s : State) : State := modCmd id (fun c => { c with work := c.work.withFwd f }) s

/-- The forward part of what a command keeps. -/
def fwdOf (c : Cmd) : Fwd :=
  match c.work with
  | .fwd f => f
  | .scatter g => g.again
  | _ => {}

/-- The digest inputs of a forward command (R299). -/
def fwdInputs (c : Cmd) (l : List (List Byte)) (dense : List Byte) : List Byte :=
  if c.op = 1 then l.flatten
  else (l.zipIdx.flatMap fun e => bytesOf ((c.feats.getD e.2 []).take 2 ++ List.replicate 6 0#32) ++ e.1) ++ dense

/-- Reads the arrays, counts and drops, numbers the unique rows, and reserves the index lists. -/
def doIntake (c : Cmd) (s : State) : State :=
  let f := fwdOf c
  if Pkt.bags c.words = 0 then finish c.id (.badField, fieldPos 9 0 0, 0) s
  else
    match intakeFeats s c (List.zip f.feats (arraysOf c)) 0 with
    | .error v => finish c.id v s
    | .ok es =>
      let n := leavesOf s c.ctx
      let fs0 := es.map (·.1)
      let us := uniqueRows (sortedUses n fs0)
      let fs := fs0.map (numberUses n us)
      let len := (fs.head?.map (·.rowLen)).getD 0
      match readDense s c len with
      | .error v => finish c.id v s
      | .ok db =>
        match reserveLists c fs s with
        | none =>
          if f.lehrWait then s else bump Reg.LEHR_WAIT_CNT_COUNT 0 1 (setFwd c.id { f with lehrWait := true } s)
        | some t =>
          let reasons := fun (g : Feat) => g.uses.filterMap (·.reason)
          let bad := sumOf (fs.map fun g => ((reasons g).filter (· != 0)).length)
          let w := outFmtBytes c
          let g : Fwd :=
            { f with feats := fs, rows := rowVals s us, intake := true, invalid := bad,
                     dense := if db.isEmpty then [] else
                       (List.range (Pkt.bags c.words)).map fun b => codesOf w len (db.drop (b * len * w)) }
          let u := setFwd c.id g (addInputs c.id (fwdInputs c (es.map (·.2)) db) t)
          let v := fs.foldl (fun x h => countDrops h.table (reasons h) x) u
          let y := fs.foldl (fun x h => (h.uses.filter (·.reason.isNone)).foldl (fun z q => addLoad h.table q.row 0 1 z) x) v
          let z := modLehr c.id (fun r => { r with feats := fs }) y
          let adr := (arraysOf c).flatMap fun a => [a.idsAddr, a.offsAddr] ++ (if a.wAddr = 0 then [] else [a.wAddr])
          adr.foldl (fun x a => noteRead c.id a x) z

/-! ### Fetching a row -/

/-- Features of a command that use a row. -/
def usersOf (f : Fwd) (t row : Nat) : List Feat :=
  f.feats.filter fun g => g.table == t && g.uses.any fun u => u.reason.isNone && u.row == row

/-- Version a command reads of a table. -/
def verOf (f : Fwd) (t : Nat) : Nat := ((f.feats.find? fun g => g.table == t).map (·.version)).getD 0

/-- Marks a row of a command. -/
def modRow (id t row : Nat) (g : RowVal → RowVal) (s : State) : State :=
  modCmd id (fun c => { c with work := c.work.withFwd { fwdOf c with
    rows := (fwdOf c).rows.map fun r => if r.table == t && r.row == row then g r else r } }) s

/-- Gives a command the values of a row. -/
def giveRow (id t row ver : Nat) (bs : List Byte) (s : State) : State :=
  progress id (modRow id t row (fun r =>
    { r with elems := some (rowElems (table s t).desc (matB s t ver) bs), asked := true, done := true }) s)

/-- No feature. -/
def noFeat : Feat := { table := 0, version := 0, pool := 0, rowLen := 0, trained := false }

/-- Whether a weir pools uses of a row at a place (R150): those under POOL 0, 1 and 3. -/
def weirTakes (s : State) (f : Fwd) (t row : Nat) (p : Place) : Bool :=
  p.tier == 1 && !(table s t).desc.adapter && !straddles p (table s t).desc.stride
    && (usersOf f t row).any fun g => g.pool != 2

/-- Whether a use of a row is pooled in the lanes whatever a weir does, so that the row climbs whole (R149, R150). -/
def wholeUse (f : Fwd) (t row : Nat) : Bool := (usersOf f t row).any fun g => g.pool == 2

/-- Whether a fetch brings the whole row to its home slice. -/
def Fetch.whole (f : Fetch) : Bool := !f.weir || decide (f.dest ≠ .none)

/-- Whether a fetch covers a version. -/
def Fetch.covers (f : Fetch) (ver : Nat) : Bool :=
  decide (f.lo ≤ ver) && (match f.hi with | none => true | some h => decide (ver ≤ h))

/-- A version that the content of a fetch belongs to: the one it was read for, else a live one of its range. -/
def Fetch.now (s : State) (f : Fetch) : Nat :=
  let tb := Machine.table s f.table
  if (tb.version? f.version).isSome then f.version
  else ((tb.vers.find? fun v => f.covers v.num).map (·.num)).getD f.version

/-- The stored row that a fetch reads and its failing tiles; a vault that has left service serves what was issued to it (R324). -/
def fetchTiles (s : State) (f : Fetch) : Except Reach (List Byte × List Nat) :=
  match f.kept with
  | some k => .ok k.2
  | none => rowTiles s f.table (f.now s) f.row

/-- A fill in flight that a read may join (R126). -/
def joinable (s : State) (sl t row ver : Nat) : Option Fetch :=
  s.fetches.find? fun f => f.whole && f.slice == sl && f.table == t && f.row == row && f.covers ver

/-- Adds a command to the waiters of a fetch; a PREFETCH that joins a read served without caching sends its row to the gob buffer
(R139). -/
def joinFetch (fid id : Nat) (gob : Bool) (s : State) : State :=
  { s with fetches := s.fetches.map fun f =>
    if f.id == fid then { f with waiters := f.waiters ++ [id], dest := if gob && decide (f.dest = .none) then .gob else f.dest } else f }

/-- The tiles of a stored row in critical order (R124): the check tiles, the metadata tile, the data tiles, the adapter tiles, the
state tiles. -/
def Desc.critical (d : Desc) : List Nat :=
  let from_ := fun (a n : Nat) => (List.range n).map (a + ·)
  from_ d.tiles d.tc ++ from_ (d.td + d.ta + d.ts) d.tm ++ from_ 0 d.td ++ from_ d.td d.ta ++ from_ (d.td + d.ta) d.ts

/-- Requests the tiles of a fetch in its order, each as two sectors, the lower first (R124). A weir reads in its vault, and flash is
read by NVMe. -/
def requestTiles (f : Fetch) (s : State) : State :=
  if f.place.tier = 4 ∨ !f.whole then s
  else send (.sectors f.place.tier f.place.target (f.order.flatMap fun k =>
    [f.place.addr + 64 * k, f.place.addr + 64 * k + 32])) s

/-- Requests the row of a fetch: its tiles, or an NVMe read where it lies in flash (R124, R190). -/
def requestFetch (f : Fetch) (s : State) : State :=
  if f.place.tier = 4 then
    let span := lbaSpan s f.place.target f.place.addr (table s f.table).desc.stride
    startIo { id := 0, target := f.place.target, lba := span.1, blocks := span.2, write := false, fetch := some f.id, back := none, tries := 0 }
      [] s
  else requestTiles f s

/-- Starts a fetch of a row (R124). -/
def startFetch (c : Cmd) (sl t row ver : Nat) (p : Place) (dest : FillTo) (weir : Bool) (s : State) : State :=
  let r := rowRange s t ver row
  let f : Fetch :=
    { id := s.nextFetch, table := t, row := row, version := ver, lo := r.1, hi := r.2, slice := sl, place := p, dest := dest,
      weir := weir, waiters := [c.id], gen := c.gen, ctx := c.ctx, order := (table s t).desc.critical }
  requestFetch f { s with fetches := s.fetches ++ [f], nextFetch := s.nextFetch + 1 }

/-- Starts a fetch of a whole row into a basin way, or into nothing where the table bypasses or no way is free (R111, R121, R123). -/
def startFill (c : Cmd) (sl t row ver : Nat) (p : Place) (weir : Bool) (s : State) : State :=
  let k := rowSet s t row
  let r := rowRange s t ver row
  let new : Way :=
    { st := .filling, copy := { table := t, row := row, lo := r.1, hi := r.2 }, freq := 1, owner := s.nextFetch }
  match if bypasses s t then none else allocWay sl k new s with
  | none => startFetch c sl t row ver p .none weir s
  | some (u, w) => startFetch c sl t row ver p (.way (keyClass k) (k % 2 ^ 24) w) weir u

/-- What a read of a row by some command finds: its bytes in its slice, or nothing yet. -/
inductive Served1
  /-- a copy of the slice serves it -/
  | hit (bytes : List Byte)
  /-- it misses every structure -/
  | miss
  /-- a copy of it fails, and nothing stands for it -/
  | corrupt
  deriving DecidableEq, Repr

/-- Looks a row up in a slice for a read that uses some of its tiles: the copies that fail are handled, a hit is counted, a miss is not
yet (R55, R108, R120, R140, R141). -/
def lookRow (uses : Nat → Bool) (c : Cmd) (sl t row ver : Nat) (s : State) : State × Served1 :=
  match checkCopies uses (some c.ctx) sl t row ver 8 s with
  | (u, true) => (u, .corrupt)
  | (u, false) =>
    match findSpot u (slice u sl) t row ver with
    | none => (u, .miss)
    | some sp =>
      match copyAt (slice u sl) sp with
      | some cp => (countHit sl (table u t).desc.cls true (hitSpot sl sp u), .hit cp.bytes)
      | none => (u, .miss)

/-- Counts a read that missed every structure of its slice; one that joins a fill in flight misses too (R126). -/
def noteMiss (sl t : Nat) (s : State) : State := countHit sl (table s t).desc.cls false s

/-- Fetches one row of a forward command that missed: by joining a fill, from a weir, or by a fill of its own (R126, R149). -/
def missRow (c : Cmd) (sl t row ver : Nat) (s : State) : State :=
  let f := fwdOf c
  let ask := fun (via : Via) (u : State) => modRow c.id t row (fun x => { x with asked := true, via := via }) u
  match joinable s sl t row ver with
  | some g => noteMiss sl t (joinFetch g.id c.id false (ask .lane s))
  | none =>
    let p := rowPlace s t ver row
    match reach s p (table s t).desc.stride with
    | .ok =>
      noteMiss sl t (noteFetch t row (
        if c.op != 3 && weirTakes s f t row p then
          ask .weir (if wholeUse f t row then startFill c sl t row ver p true s else startFetch c sl t row ver p .none true s)
        else ask .lane (startFill c sl t row ver p false s)))
    | bad => reachCmd c bad s

/-- Serves one row of a forward command, or of a SCATTER_GRAD that gathers it again, from its slice or by a fetch. -/
def serveNow (c : Cmd) (r : RowVal) (s : State) : State :=
  let sl := homeSlice s c.ctx (homeOf r.row)
  let ver := verOf (fwdOf c) r.table
  match lookRow (table s r.table).desc.pools c sl r.table r.row ver s with
  | (t, .corrupt) => corruptCmd c sl r.table r.row t
  | (t, .hit bs) => giveRow c.id r.table r.row ver bs t
  | (t, .miss) => missRow c sl r.table r.row ver t

/-- Serves one row; false where it waits for room in a cullet buffer (R128). -/
def serveRow (id : Nat) (r : RowVal) (s : State) : State × Bool :=
  match cmd? s id with
  | none => (s, true)
  | some c => if c.phase == .done then (s, true) else orStall (id, r.table, r.row) s (serveNow c r s)

/-! ### Remote rows (R193, R194) -/

/-- REQ_ID of sequence 0 in a context's generation (R290). -/
def reqBase (c : Nat) (x : Ctx) : Nat := c * 2 ^ 24 + x.gen % 2 ^ 12 * 2 ^ 12

/-- Sequences of a context's generation that no tag uses which is not retired, from the next one on (R290). -/
def freeSeqs (c : Nat) (s : State) : List Nat :=
  let x := ctx s c
  ((List.range 4096).map fun i => (x.seq + i) % 4096).filter fun n => !(x.tags.any fun e => decide (e.2 = .req (reqBase c x + n)))

/-- Takes a REQ_ID of a context; none while all 4,096 sequences are in use (R290). -/
def takeReq (c : Nat) (s : State) : Option (Nat × State) :=
  let x := ctx s c
  (freeSeqs c s).head?.map fun n =>
    (reqBase c x + n, setCtx c { x with seq := (n + 1) % 4096, tags := x.tags ++ [(x.gen, .req (reqBase c x + n))] } s)

/-- Records a peer that a LOOKUP_REQ or GRAD_PUSH of a context goes to (R289). -/
def contactPeer (c chip : Nat) (s : State) : State :=
  let x := ctx s c
  setCtx c { x with peers := if chip ∈ x.peers then x.peers else x.peers ++ [chip] } s

/-- One entry of a LOOKUP_REQ: a use (07 Table 6). DESIGN CHOICE: the header carries the POOL of the first entry, and byte 5, bits 7
and 6, what the use's own POOL differs in from it (log entry 49). -/
def lookupEntry (f : Fwd) (pool : Nat) (k : Key) : List Byte :=
  let g := f.feats.getD k.feat noFeat
  let bag := (idxOf (fun o => decide (o > k.use)) (g.offs.drop 1)).getD 0
  toLE 5 k.row ++ toLE 1 (k.feat + (g.pool ^^^ pool) % 4 * 2 ^ 6) ++ toLE 2 (k.use - g.offs.getD bag 0) ++ toLE 4 bag
    ++ toLE 4 (if g.pool = 2 then (g.weights.getD k.use 0#32).toNat else 0)

/-- Splits entries grouped by row into requests, each closed at the first row boundary at or beyond 4,096 bytes, its header of 32 bytes
included; what is left over is a request too once the last row of the slice has been issued. -/
def splitReq (last : Bool) : List (List Key) → List Key → Nat → List (List Key)
  | [], acc, _ => if acc.isEmpty || !last then [] else [acc]
  | g :: gs, acc, n =>
    let m := n + 16 * g.length
    if m ≥ 4096 then (acc ++ g) :: splitReq last gs [] 32 else splitReq last gs (acc ++ g) m

/-- Header of a LOOKUP_REQ. -/
def lookupHeader (s : State) (c : Cmd) (pool train req t n ver step sl : Nat) : List Byte :=
  toLE 4 (1 + pool * 2 ^ 8 + train * 2 ^ 12)
  ++ toLE 4 (rd Reg.CHIP_ID_CHIP 0 s + c.ctx * 2 ^ 12 + c.gen % 2 ^ 12 * 2 ^ 20)
  ++ toLE 4 req ++ toLE 4 (t + n * 2 ^ 12) ++ toLE 4 ver ++ toLE 4 step ++ toLE 4 sl ++ toLE 4 0

/-- Sends one LOOKUP_REQ of a logical slice; it waits while no REQ_ID is free. -/
def sendLookup (id sl chip port t : Nat) (ks : List Key) (s : State) : State :=
  match cmd? s id with
  | none => s
  | some c =>
    let f := fwdOf c
    match takeReq c.ctx s with
    | none => s
    | some (req, u0) =>
    let u := contactPeer c.ctx chip u0
    let pool := ((ks.head?.bind fun k => f.feats[k.feat]?).map (·.pool)).getD 0
    let tr := trains s t c.ctx
    let h := lookupHeader s c pool (b2n tr) req t ks.length (verOf f t) (if tr then Pkt.step c.words else 0) sl
    let rows := dedup (ks.map (·.row))
    let v := rows.foldl (fun x r => modRow id t r (fun y => { y with asked := true }) x) u
    progress id (send (.message chip port (h ++ ks.flatMap (lookupEntry f pool)))
      { v with remote := { v.remote with lookups := v.remote.lookups ++
        [{ req := req, cmd := id, table := t, pool := pool, chip := chip, port := port, slice := sl, rows := rows }] } })

/-- Ends a command whose remote row cannot be had: ST_REMOTE_LOST with the rim port and the peer chip, or for a SCATTER_GRAD
that gathers again ST_HW_ERROR with a PEER_REGATHER record (R193, R197, R245). -/
def peerFail (c : Cmd) (port chip : Nat) (s : State) : State :=
  if c.op = 3 then
    finish c.id (.hwError, s.errs.head, 0) (logErr 0x0031 0 (some c.ctx) 0 (port % 4 + chip % 2 ^ 12 * 2 ^ 16) s)
  else finish c.id (.remoteLost, port, chip) s

/-! ### The fetches of a command, in the order of R84 -/

/-- A stall: the slice of the partition, and the table and row that wait. -/
abbrev Stall := Nat × Nat × Nat

/-- Whether a row may be issued while some slices are stalled: it comes before the row its slice waits for. -/
def beforeStalls (l : List Stall) (k t row : Nat) : Bool :=
  l.all fun w => w.1 != k || decide (t < w.2.1) || (t == w.2.1 && decide (row < w.2.2))

/-- Serves the next row of this chip, unless its slice is stalled at an earlier one. -/
def askRow (id n : Nat) (acc : State × List Stall) (r : RowVal) : State × List Stall :=
  let k := homeOf r.row % n
  if r.asked || r.via == .remote || !beforeStalls acc.2 k r.table r.row then acc
  else
    let x := serveRow id r acc.1
    (x.1, if x.2 then acc.2 else acc.2 ++ [(k, r.table, r.row)])

/-- Sends the requests of one slice, table and peer for the remote rows that have come up (R194). -/
def askPeer (id first : Nat) (ks : List Key) (stalls : List Stall) (s : State) (g : Nat × Nat × Nat) : State :=
  let mine := ks.filter fun k => k.slice == g.1 && k.tab == g.2.1 && (remoteChip s k.tab k.row).getD 0 == g.2.2
    && beforeStalls stalls k.slice k.tab k.row
  let rows := (dedup (mine.map (·.row))).map fun r => mine.filter fun k => k.row == r
  match cmd? s id, rimPort s g.2.2 with
  | some c, none => if c.phase == .done || mine.isEmpty then s else peerFail c 0xFFFFFFFF g.2.2 s
  | _, some p => (splitReq (!stalls.any fun w => w.1 == g.1) rows [] 32).foldl (fun u q => sendLookup id (first + g.1) g.2.2 p g.2.1 q u) s
  | none, _ => s

/-- Issues the fetches of a command in ascending unique number on each slice, as far as none waits for room (R84, R194). -/
def askRows (id : Nat) (s : State) : State :=
  match cmd? s id with
  | none => s
  | some c =>
    let n := leavesOf s c.ctx
    let x := (fwdOf c).rows.foldl (askRow id n) (s, [])
    let pend := fun t row => (fwdOf c).rows.any fun r => r.table == t && r.row == row && !r.asked
    let ks := (sortedUses n (fwdOf c).feats).filter fun k => (remoteChip s k.tab k.row).isSome && pend k.tab k.row
    (dedup (ks.map fun k => (k.slice, k.tab, (remoteChip s k.tab k.row).getD 0))).foldl
      (askPeer id (partOf s c.ctx).1 ks x.2) x.1

/-! ### Pooling a command -/

/-- Lane terms of the uses of a bag that fall in a leaf: those of rows that the lanes have, under POOL 2 beside a weir's (R150). -/
def laneTerms (f : Fwd) (g : Feat) (n leaf b : Nat) : List Terms :=
  let lo := g.offs.getD b 0
  let us := ((g.uses.drop lo).take (g.offs.getD (b + 1) 0 - lo)).zipIdx
  us.filterMap fun e =>
    if e.1.reason.isNone && e.1.slice % n == leaf then
      match f.rows.find? fun r => r.table == g.table && r.row == e.1.row && (r.via == .lane || (r.via == .weir && g.pool == 2)) with
      | some r => r.elems.map fun x => useTerms g.pool x (g.weights.getD (lo + e.2) 0#32) e.2
      | none => none
    else none

/-- Kept uses of a bag. -/
def keptOf (g : Feat) (b : Nat) : Nat :=
  let lo := g.offs.getD b 0
  (((g.uses.drop lo).take (g.offs.getD (b + 1) 0 - lo)).filter (·.reason.isNone)).length

/-- The pooled vector and argmax of bag `b` of feature `i`, for `n` leaves. -/
def poolBag (f : Fwd) (n i b : Nat) (g : Feat) : List F32 × List (Option Nat) :=
  let leaves := (List.range n).map fun l =>
    foldTerms (laneTerms f g n l b ++ (f.terms.filter fun x => x.feature == i && x.bag == b && x.slice % n == l).map (·.terms))
  poolLeaves g.pool g.rowLen (keptOf g b) leaves

/-- UM_NORM_EPS. -/
def normEps (s : State) : F32 := BitVec.ofNat 32 (rd Reg.NORM_EPS_EPS 0 s)

/-- NORM of a command: 0 of a GATHER_POOL. -/
def normOf (c : Cmd) : Nat := if c.op = 2 then Pkt.norm c.words else 0

/-- Bytes of an argmax entry (R94). -/
def argmaxBytes (f : Fwd) : Nat :=
  if f.feats.all fun g => (List.zip g.offs (g.offs.drop 1)).all fun e => decide (e.2 - e.1 ≤ 255) then 1 else 2

/-- Whether a command's output goes to memory (R97, R105). -/
def toMemory (c : Cmd) : Bool := c.op == 1 && Pkt.outSel c.words == 1

/-- Interaction records of one sample (R240), padded to 64 bytes. -/
def interBytes (c : Cmd) (ys : List (List F32)) (dense : List Nat) (z : List F32) : List Byte :=
  pad64 (ys.flatMap bytesOf ++ dense.flatMap (toLE (outFmtBytes c)) ++ (if Pkt.fn c.words then bytesOf z else []))

/-- Whether a command interacts. -/
def interacts (c : Cmd) : Bool := c.op == 2 && Pkt.interact c.words

/-- The vector of a bag of a feature, once it is pooled. -/
def vecOf (f : Fwd) (i b : Nat) : Option BagVec := f.vecs.find? fun v => v.feature == i && v.bag == b

/-- The vectors of a sample, by feature. -/
def sampleVecs (f : Fwd) (b : Nat) : List (List Word) :=
  (List.range f.feats.length).map fun i => ((vecOf f i b).map (·.y)).getD []

/-- Records of one bag or sample, by feature, beyond its index list (04 Table 2, R240). -/
def bagItems (c : Cmd) (f : Fwd) (b : Nat) : List Item :=
  let w := argmaxBytes f
  let per := f.feats.zipIdx.filterMap fun e =>
    if e.1.trained then
      let v := vecOf f e.2 b
      let am := if e.1.pool = 3 then ((v.map (·.argmax)).getD []).flatMap fun p => toLE w (p.getD (2 ^ (8 * w) - 1)) else []
      let st := if normOf c = 0 then [] else wordBytes ((v.map (·.mean)).getD 0#32) ++ wordBytes ((v.map (·.rstd)).getD 0#32)
      some (e.2, am ++ st)
    else none
  if interacts c then
    per ++ [(63, interBytes c (sampleVecs f b) (f.dense.getD b []) ((f.z.find? fun e => e.1 == b).map (·.2) |>.getD []))]
  else per

/-- The record of one bag or sample, whole or marked RECOMPUTE. Of the dense vector of a sample marked RECOMPUTE the model keeps
a copy, to tell whether the memory it is read from again has changed (R245). -/
def bagRec (c : Cmd) (f : Fwd) (b : Nat) (keep : Bool) : BagRec :=
  let vs := (List.range f.feats.length).map fun i => vecOf f i b
  if keep then
    { stats := if normOf c = 0 then [] else vs.map fun v => ((v.map (·.mean)).getD 0#32, (v.map (·.rstd)).getD 0#32)
      argmax := vs.map fun v => (v.map (·.argmax)).getD []
      y := if interacts c then sampleVecs f b else [], g := []
      dense := if interacts c then f.dense.getD b [] else []
      z := ((f.z.find? fun e => e.1 == b).map (·.2)).getD [] }
  else { recompute := true, dense := if interacts c then f.dense.getD b [] else [] }

/-- Places the records of every bag in ascending order; the slices that ran out of room mark the rest RECOMPUTE (R225). -/
def placeBags (c : Cmd) (f : Fwd) : List Nat → List Nat → List BagRec → State → List BagRec × State
  | [], _, acc, s => (acc, s)
  | b :: bs, full, acc, s =>
    let sl := asmSlice s c.ctx b
    let items := bagItems c f b
    if itemBytes items = 0 then placeBags c f bs full (acc ++ [bagRec c f b true]) s
    else if sl ∈ full then placeBags c f bs full (acc ++ [bagRec c f b false]) s
    else match placeItems c.id c.ctx sl items s with
      | some t => placeBags c f bs full (acc ++ [bagRec c f b true]) t
      | none => placeBags c f bs (sl :: full) (acc ++ [bagRec c f b false]) s

/-- Keeps the backward records of a command (R101, R224, R225); the bags marked RECOMPUTE are counted. -/
def keepRecords (c : Cmd) (f : Fwd) (s : State) : State × Nat :=
  if hasRecord s c.id then
    let r := placeBags c f (List.range (Pkt.bags c.words)) [] [] s
    let n := (r.1.filter (·.recompute)).length
    (bump Reg.LEHR_RECOMPUTE_CNT_COUNT 0 n (modLehr c.id (fun x => { x with bags := r.1, feats := f.feats }) r.2), n)
  else (s, 0)

/-- Writes the bags of a GATHER_POOL to OUT_ADDR (R97); false where a bag lies outside the windows. -/
def writeOut (c : Cmd) : List (List F32) → Nat → State → State × Bool
  | [], _, s => (s, true)
  | y :: ys, a, s =>
    let bs := outBytes (Pkt.outFmt c.words) y
    if windowAllows s c.ctx a bs.length true then
      writeOut c ys (a + bs.length) (noteWrite c.id a bs.length (writeMem (spaceOf s c.ctx) a bs s))
    else (s, false)

/-- The result of a forward command whose vectors, and interaction outputs, are complete: its records are kept and its output is
written. -/
def closeFwd (c : Cmd) (f : Fwd) (s : State) : State :=
  let (t, n) := keepRecords c f s
  let v : Verdict := (.ok, f.invalid, n)
  let w := setFwd c.id { f with recomputed := n } t
  if toMemory c then
    let u := writeOut c ((List.range (Pkt.bags c.words)).map fun b => ((vecOf f 0 b).map (·.y)).getD []) (Pkt.outAddr c.words) w
    finish c.id (if u.2 then v else (.xlateFault, 0xFFFFFFFE, siteDetail (.packet 18))) u.1
  else finish c.id v w

/-- Host pages that the output of a command still lacks (R107, R262). -/
def outLacks (s : State) (c : Cmd) (f : Fwd) : List Nat :=
  if toMemory c then lackingPages s (spaceOf s c.ctx) (Pkt.outAddr c.words) (outLen f c) true else []

/-- Whether everything that a bag of a feature pools has come: its rows are served, and no partial of it is on its way. -/
def bagReady (s : State) (id : Nat) (f : Fwd) (i b : Nat) : Bool :=
  let g := f.feats.getD i noFeat
  let lo := g.offs.getD b 0
  ((g.uses.drop lo).take (g.offs.getD (b + 1) 0 - lo)).all
      (fun u => u.reason.isSome || f.rows.any fun r => r.table == g.table && r.row == u.row && r.done)
    && !s.partials.any fun p => p.cmd == id && p.feature == i && p.bag == b

/-- A bag pooled and normalised. -/
def poolVec (s : State) (c : Cmd) (f : Fwd) (i b : Nat) : BagVec :=
  let p := poolBag f (leavesOf s c.ctx) i b (f.feats.getD i noFeat)
  let x := normalise (normOf c) (normEps s) p.1
  { feature := i, bag := b, y := x.1, argmax := p.2, mean := x.2.1, rstd := x.2.2 }

/-- The frame of a vector, where a vector is what the command delivers (R103 to R105). -/
def vectorFrame (c : Cmd) (v : BagVec) : List TFrame :=
  if toMemory c || interacts c then []
  else [{ kind := 0, feature := v.feature, index := v.bag, payload := outBytes (Pkt.outFmt c.words) v.y }]

/-- Entries of the side memory of a slice's row engine (R100). -/
def sideSize : Nat := 32768

/-- Pools and normalises one bag that is ready: its statistics take an entry of the side memory of its assembling slice, and the bag
waits where none is free (R100, R103). -/
def poolOne (id : Nat) (s : State) (e : Nat × Nat) : State :=
  match cmd? s id with
  | none => s
  | some c =>
    let f := fwdOf c
    let sl := physSlice s (asmSlice s c.ctx e.2)
    let v := slice s sl
    if (vecOf f e.1 e.2).isSome || !bagReady s id f e.1 e.2 then s
    else if normOf c ≠ 0 ∧ v.side.length ≥ sideSize then s
    else
      let x := poolVec s c f e.1 e.2
      let t := if normOf c = 0 then s
        else setSlice sl { v with side := v.side ++ [{ cmd := id, feature := e.1, bag := e.2, mean := x.mean, rstd := x.rstd }] } s
      setFwd id { f with vecs := f.vecs ++ [x], frames := f.frames ++ vectorFrame c x } t

/-- The lehr writes of a command's statistics are done: its entries of the side memory are free (log entry 73). -/
def freeSide (id : Nat) (s : State) : State := mapSlices (fun v => { v with side := v.side.filter fun e => e.cmd != id }) s

/-- Samples whose vectors have all come and that no block has taken yet, ascending (R103, R237). -/
def readySamples (c : Cmd) (f : Fwd) : List Nat :=
  (List.range (Pkt.bags c.words)).filter fun b =>
    (List.range f.feats.length).all (fun i => (vecOf f i b).isSome) && !f.z.any fun e => e.1 == b

/-- Whether the result of a forward command is complete. -/
def resultDone (c : Cmd) (f : Fwd) : Bool :=
  f.vecs.length == f.feats.length * Pkt.bags c.words && (!interacts c || f.z.length == Pkt.bags c.words)

/-- Ends the own work of a forward command whose result is complete, once its output can be written (R107). -/
def closeDone (id : Nat) (s : State) : State :=
  match cmd? s id with
  | none => s
  | some c =>
    let f := fwdOf c
    if !resultDone c f || c.phase != .running || c.use.fault.isSome then s
    else if !(outLacks s c f).isEmpty then askPages (spaceOf s c.ctx) (outLacks s c f) s
    else closeFwd c f s

/-- Goes on with a forward command after something of it was served: the bags that have become ready are pooled, each by itself, and
the samples that are complete are ready for a block. -/
def advanceFwd (id : Nat) (s : State) : State :=
  match cmd? s id with
  | none => s
  | some c =>
    let f := fwdOf c
    if c.phase == .running && (c.op == 1 || c.op == 2) && f.intake && f.reading then
      let bags := (List.range f.feats.length).flatMap fun i => (List.range (Pkt.bags c.words)).map fun b => (i, b)
      let t := bags.foldl (poolOne id) (freeSide id s)
      closeDone id (match cmd? t id with
        | some d => if interacts d then setFwd id { fwdOf d with todo := readySamples d (fwdOf d) } t else t
        | none => t)
    else s

/-! ### The commands -/

/-- Whether the step rule lets a command read its rows now (R18). -/
def mayRead (s : State) (c : Cmd) (f : Fwd) : Bool :=
  f.feats.all fun g => !g.trained || (table s g.table).step + 1 == Pkt.step c.words

/-- Issues what is not issued yet, and pools what is served. -/
def fetchRows (id : Nat) (s : State) : State :=
  match cmd? s id with
  | none => s
  | some c => advanceFwd id (askRows id (setFwd id { fwdOf c with reading := true } s))

/-- Runs a forward command as far as it goes: the intake once, then its reads once the step rule allows them. -/
def runFwd (id : Nat) (s : State) : State :=
  match cmd? s id with
  | none => s
  | some c =>
    let t := if (fwdOf c).intake then s else doIntake c s
    match cmd? t id with
    | none => t
    | some d => if (fwdOf d).intake && !(d.phase == .done) && mayRead t d (fwdOf d) then fetchRows id t else t

/-- GATHER_POOL (R82 to R97, R105). A call given again goes on where the command waits. -/
def execGatherPool (cmd : Nat) (s : State) : Host.Outcome State Fault Refusal :=
  done s (onIssued cmd 0x01 s fun c t => runFwd c.id t)

/-- CASCADE (R102, R103). -/
def execCascade (cmd : Nat) (s : State) : Host.Outcome State Fault Refusal :=
  done s (onIssued cmd 0x02 s fun c t => runFwd c.id t)

end Sys2Proof.Machine
end

