-- ==== Sys2Proof/Machine/Reads.lean ====
section
/-! DEFINITION. The whole rows that commands other than gathers read: a MERGE_APPLY through the basin, a ZERO_ROWS, PIN_ROWS or TABLE_SAVE
without caching (R69, R134, R136, R149, R214). A row that has to be fetched waits in the command until it is used. -/

namespace Sys2Proof.Machine

/-- A command has a row, or its tiles failed. -/
def gotRow (id row : Nat) (bs : Option (List Byte)) (s : State) : State :=
  progress id (modCmd id (fun c =>
    { c with got := c.got ++ [{ row := row, bytes := bs }], asked := if row ∈ c.asked then c.asked else c.asked ++ [row] }) s)

/-- A row that a command has, or that failed for it. -/
def gotOf (c : Cmd) (row : Nat) : Option Got := c.got.find? fun g => g.row == row

/-- A command has asked for a row. -/
def askedRow (id row : Nat) (s : State) : State :=
  modCmd id (fun c => { c with asked := if row ∈ c.asked then c.asked else c.asked ++ [row] }) s

/-- Fetches a row that missed for a command: by joining a fill, by a fill of its own, or past the cache. -/
def fetchFor (c : Cmd) (fill : Bool) (sl t row ver : Nat) (s : State) : State :=
  match joinable s sl t row ver with
  | some g => joinFetch g.id c.id false (askedRow c.id row s)
  | none =>
    let p := rowPlace s t ver row
    match reach s p (table s t).desc.stride with
    | .ok =>
      noteFetch t row
        (askedRow c.id row (if fill then startFill c sl t row ver p false s else startFetch c sl t row ver p .none false s))
    | bad => reachCmd c bad s

/-- Reads one row for a command that uses some of its tiles: from its slice, or by a fetch. -/
def wantNow (c : Cmd) (uses : Nat → Bool) (fill : Bool) (sl t row ver : Nat) (s : State) : State :=
  match lookRow uses c sl t row ver s with
  | (u, .corrupt) => gotRow c.id row none u
  | (u, .hit bs) => gotRow c.id row (some bs) u
  | (u, .miss) => fetchFor c fill sl t row ver (noteMiss sl t u)

/-- How a command reads its rows: the tiles it uses, whether it fills the basin, the table, the version, the slice of each row. -/
structure Reading where
  /-- tiles used -/
  uses : Nat → Bool
  /-- the basin takes the row -/
  fill : Bool
  /-- table -/
  table : Nat
  /-- version -/
  ver : Nat
  /-- physical slice of a row -/
  sliceOf : Nat → Nat

/-- Reads the rows of a command that it has not asked for yet, in order, until one waits for room in a cullet buffer. -/
def wantRows (id : Nat) (r : Reading) : List Nat → State → State
  | [], s => s
  | row :: rest, s =>
    match cmd? s id with
    | none => s
    | some c =>
      if c.phase == .done then s
      else if row ∈ c.asked then wantRows id r rest s
      else
        let x := orStall (id, r.table, row) s (wantNow c r.uses r.fill (r.sliceOf row) r.table row r.ver s)
        if x.2 then wantRows id r rest x.1 else x.1

end Sys2Proof.Machine
end

