-- ==== Sys2Proof/Machine/CacheOps.lean ====
section
/-! DEFINITION. The commands of the row cache: ZERO_ROWS, PREFETCH, PIN_ROWS and UNPIN, ROW_MIGRATE, the completion of
write-backs, and the basin's APPLY and FLUSH (R110, R112, R128, R131, R132 to R139, R174, R175). -/

namespace Sys2Proof.Machine

/-! ### Identifier batches (R133, R135, R139, R174) -/

/-- Identifiers a command names. -/
def idCount (c : Cmd) : Nat := if c.op = 7 then Pkt.pinCount c.words else Pkt.count c.words

/-- Reads and translates the identifiers of a command. -/
def readIds (s : State) (c : Cmd) : Except Verdict (List Xlat) :=
  match readArray s c (Pkt.addrA c.words) (8 * idCount c) (.packet 11) with
  | .error v => .error v
  | .ok bs => .ok ((codesOf 8 (idCount c) bs).map (lookupId (table s (Pkt.table c.words))))

/-- The rows of this chip among translations, without repeats. -/
def hereRows (xs : List Xlat) : List Nat := dedup (xs.filterMap fun x => match x with | .here r => some r | _ => none)

/-- The remote rows among translations, with their chips, without repeats. -/
def remoteRows (xs : List Xlat) : List (Nat × Nat) :=
  dedup (xs.filterMap fun x => match x with | .remote r p => some (r, p) | _ => none)

/-- Reasons of the dropped identifiers. -/
def dropReasons (xs : List Xlat) : List Nat := xs.filterMap fun x => match x with | .dropped r => some r | _ => none

/-- What a batch command keeps. -/
def rowsOf (c : Cmd) : RowsWork := match c.work with | .rows r => r | _ => {}

/-- Sets what a batch command keeps. -/
def setRows (id : Nat) (r : RowsWork) (s : State) : State := modCmd id (fun c => { c with work := .rows r }) s

/-- Reads the identifiers of a command once, counts the dropped, and goes on with the rest. -/
def withIds (c : Cmd) (s : State) (f : List Xlat → State → State) : State :=
  match readIds s c with
  | .error v => finish c.id v s
  | .ok xs => f xs (noteRead c.id (Pkt.addrA c.words) (countDrops (Pkt.table c.words) (dropReasons xs) s))

/-! ### Content not yet committed (R132, R137, R214) -/

/-- Keeps new content of a row with the command it belongs to, where no way holds it (R214). -/
def addSpare (id row : Nat) (bs : List Byte) (s : State) : State :=
  modCmd id (fun c => match c.work with
    | .merge m => { c with work := .merge { m with spare := m.spare ++ [(row, bs)] } }
    | .rows r => { c with work := .rows { r with spare := r.spare ++ [(row, bs)] } }
    | _ => c) s

/-- New content that a command keeps itself. -/
def spareOf (c : Cmd) (row : Nat) : Option (List Byte) :=
  let l : List (Nat × List Byte) := match c.work with
    | .merge m => m.spare
    | .rows r => r.spare
    | _ => []
  (l.find? fun e => e.1 == row).map (·.2)

/-- Index of the pin of a kind on a row. -/
def pinIdx (v : Slice) (train : Bool) (t row : Nat) : Option Nat :=
  idxOf (fun (p : Punty) => p.train == train && p.copy.table == t && p.copy.row == row) v.punty

/-- The pin that takes the content of a commit: the TRAIN pin of the row; on a table with VERSIONED 0 any pin of it (R137). -/
def commitPin (s : State) (v : Slice) (t row : Nat) : Option Nat :=
  match pinIdx v true t row with
  | some i => some i
  | none => if (table s t).desc.versioned then none else pinIdx v false t row

/-- Places new content of a row until the commit: in its pin, in a PENDING way, or with the command (R132, R137, R214). -/
def placePending (id sl t row : Nat) (bs : List Byte) (s : State) : State :=
  let v := slice s sl
  match commitPin s v t row with
  | some i =>
    setSlice sl { v with punty := modAt v.punty i fun p => { p with pend := (p.pend.filter fun e => e.1 != id) ++ [(id, bs)] } } s
  | none =>
    let cp : Copy := { table := t, row := row, bytes := bs }
    if bypasses s t then addSpare id row bs s
    else match allocWay sl (rowSet s t row) { st := .pending, copy := cp, freq := 0, owner := id } s with
    | some u => u.1
    | none => addSpare id row bs s

/-- The PENDING way of a command for a row. -/
def pendingWay (v : Slice) (id t row : Nat) : Option (Nat × Nat) :=
  v.sets.findSome? fun e => (e.2.ways.zipIdx.find? fun w =>
    w.1.st == .pending && w.1.owner == id && w.1.copy.table == t && w.1.copy.row == row).map fun w => (e.1, w.2)

/-- New content of a row that a command holds: in a pin, in its PENDING way, or with the command. -/
def newContent (s : State) (c : Cmd) (sl t row : Nat) : Option (List Byte) :=
  let v := slice s sl
  let inPin := v.punty.findSome? fun p =>
    if p.copy.table == t && p.copy.row == row then (p.pend.find? fun e => e.1 == c.id).map (·.2) else none
  let inWay := (pendingWay v c.id t row).bind fun e => ((Sparse.get {} v.sets e.1).ways[e.2]?).map fun w => w.copy.bytes
  inPin <|> inWay <|> spareOf c row

/-- Contents not committed that leave a punty entry stay with their commands. -/
def savePend (p : Punty) (s : State) : State := p.pend.foldl (fun t e => addSpare e.1 p.copy.row e.2 t) s

/-! ### ZERO_ROWS -/

/-- A part of zero tiles. -/
def zeroTiles (n : Nat) : List Byte := List.replicate (64 * n) 0#8

/-- A zeroed row (R134): of an adapter row the base data, SCALE and BIAS stay. -/
def zeroRow (d : Desc) (row : Nat) (bs : List Byte) : List Byte :=
  let m := if d.tm = 0 then []
    else if d.adapter then padTo 64 ((bs.drop d.offM).take 8 ++ List.replicate 8 0#8 ++ ((bs.drop d.offM).take 64).drop 16) else zeroTiles 1
  let body := (if d.adapter then bs.take (64 * d.td) else zeroTiles d.td) ++ zeroTiles d.ta ++ zeroTiles d.ts ++ m
  body ++ checkTiles d row body

/-- The tiles that a ZERO_ROWS reads of an adapter row: base data and metadata (R134). -/
def Desc.kept (d : Desc) (k : Nat) : Bool := decide (k < d.td) || decide (d.td + d.ta + d.ts ≤ k)

/-- Slice of a row of a table for its commits: in the partition of its TRAIN_CTX. -/
def trainSlice (s : State) (t row : Nat) : Nat := homeSlice s (table s t).desc.trainCtx (homeOf row)

/-- Places the PENDING content of one row of a ZERO_ROWS once what it keeps of the row has been read. -/
def zeroPending (c : Cmd) (bs : List Byte) (s : State) (row : Nat) : State × Bool :=
  let t := Pkt.table c.words
  orStall (c.id, t, row) s (placePending c.id (trainSlice s t row) t row (zeroRow (table s t).desc row bs) s)

/-- Rows of a ZERO_ROWS whose PENDING content is not placed yet. -/
def zeroLeft (s : State) (c : Cmd) : List Nat :=
  let t := Pkt.table c.words
  (rowsOf c).rows.filter fun row => (newContent s c (trainSlice s t row) t row).isNone

/-- Places the PENDING rows of a ZERO_ROWS, in order, until one waits for its data or for room. An adapter row that cannot be read ends the
command. -/
def zeroPlace (id : Nat) : List Nat → State → State
  | [], s => s
  | row :: rest, s =>
    match cmd? s id with
    | none => s
    | some c =>
      let t := Pkt.table c.words
      if c.phase == .done then s
      else if !(table s t).desc.adapter then
        let x := zeroPending c [] s row
        if x.2 then zeroPlace id rest x.1 else x.1
      else match gotOf c row with
        | some ⟨_, some bs⟩ =>
          let x := zeroPending c bs s row
          if x.2 then zeroPlace id rest x.1 else x.1
        | some ⟨_, none⟩ => corruptCmd c (trainSlice s t row) t row s
        | none => zeroPlace id rest s

/-- How a ZERO_ROWS reads adapter rows. -/
def zeroReading (s : State) (c : Cmd) : Reading :=
  let t := Pkt.table c.words
  { uses := (table s t).desc.kept, fill := false, table := t, ver := (c.snaps.head?.map (·.version)).getD 0, sliceOf := trainSlice s t }

/-- Goes on with a ZERO_ROWS whose identifiers were read. -/
def zeroRun (id : Nat) (s : State) : State :=
  match cmd? s id with
  | none => s
  | some c =>
    let a := if (table s (Pkt.table c.words)).desc.adapter then wantRows id (zeroReading s c) (zeroLeft s c) s else s
    zeroPlace id (zeroLeft s c) a

/-- ZERO_ROWS (R133): its identifiers are read once; its rows are placed PENDING, for the next commit of the table. -/
def zeroIntake (c : Cmd) (s : State) : State :=
  let r := rowsOf c
  if r.intake then zeroRun c.id s
  else withIds c s fun xs t =>
    let n := Pkt.table c.words
    let tb := table t n
    zeroRun c.id (setTable n { tb with zero := tb.zero ++ [{ cmd := c.id, rows := hereRows xs }] }
      (setRows c.id { r with rows := hereRows xs, intake := true, dropped := (dropReasons xs).length } t))

/-- ZERO_ROWS (R132 to R134). -/
def execZeroRows (cmd : Nat) (s : State) : Host.Outcome State Fault Refusal :=
  done s (onIssued cmd 0x05 s zeroIntake)

/-! ### PREFETCH -/

/-- Version a batch command reads of its table. -/
def batchVer (c : Cmd) : Nat := (c.snaps.head?.map (·.version)).getD 0

/-- Fetches one row of a PREFETCH into the gob buffer; true where its data has still to come. -/
def prefetchRow (c : Cmd) (s : State) (row : Nat) : State × Bool :=
  let t := Pkt.table c.words
  let ver := batchVer c
  let sl := homeSlice s c.ctx (homeOf row)
  if ((cmd? s c.id).map (·.phase)) = some .done then (s, false)
  else if (findSpot s (slice s sl) t row ver).isSome then (s, false)
  else match joinable s sl t row ver with
  | some g => (joinFetch g.id c.id true s, true)
  | none =>
    let p := rowPlace s t ver row
    match reach s p (table s t).desc.stride with
    | .ok => (noteFetch t row (startFetch c sl t row ver p .gob false s), true)
    | bad => (reachCmd c bad s, false)

/-- Starts the fetches of a PREFETCH in order, keeping the rows that wait. -/
def prefetchAll (c : Cmd) : List Nat → List Nat → State → List Nat × State
  | [], acc, s => (acc, s)
  | r :: rs, acc, s =>
    let u := prefetchRow c s r
    prefetchAll c rs (if u.2 then acc ++ [r] else acc) u.1

/-- PREFETCH: the rows of a bypassing table are skipped (R111, R139). -/
def prefetch (c : Cmd) (s : State) : State :=
  let r := rowsOf c
  if r.intake then s
  else withIds c s fun xs t =>
    let rows := if bypasses t (Pkt.table c.words) then [] else hereRows xs
    let u := prefetchAll c rows [] t
    let v := setRows c.id { r with rows := u.1, intake := true, dropped := (dropReasons xs).length } u.2
    if u.1.isEmpty && !(((cmd? v c.id).map (·.phase)) == some .done) then finish c.id okVerdict v else v

/-- PREFETCH (R139): its reply waits for every row it fetches. -/
def execPrefetch (cmd : Nat) (s : State) : Host.Outcome State Fault Refusal := done s (onIssued cmd 0x06 s prefetch)

/-! ### Pins (R135 to R138) -/

/-- Takes the copy at a spot for a pin; the flag tells whether it was dirty. A copy on its way to its tier is not snooped any more, and
its write goes on; the pin is newer than the tier until then. -/
def takeSpot (sl : Nat) (sp : Spot) (s : State) : State × Bool :=
  let v := slice s sl
  match sp with
  | .way k w =>
    let b := setOf s v k
    (setSlice sl (putSet k { b with ways := setAt b.ways w {} } v) s, (b.ways.getD w {}).st == .dirty)
  | .gob i => (setSlice sl { v with gob := v.gob.eraseIdx i } s, false)
  | .cull i => (setSlice sl { v with cullet := modAt v.cullet i fun e => { e with snooped := false } } s, true)
  | .hold i => (setSlice sl { v with hold := modAt v.hold i fun e => { e with snooped := false } } s, true)
  | .kept i => (setSlice sl { v with kept := v.kept.eraseIdx i } s, true)
  | .punty i => (s, ((v.punty[i]?).map (·.dirty)).getD false)

/-- Entries of 4 KiB a row of `n` bytes takes. -/
def puntyEntries (n : Nat) : Nat := ceilDiv n 4096

/-- Punty entries of a slice in use (R136). -/
def puntyUsed (v : Slice) : Nat := sumOf (v.punty.map fun p => puntyEntries p.copy.bytes.length)

/-- Slice of a row for a command. -/
def cmdSlice (s : State) (c : Cmd) (row : Nat) : Nat := homeSlice s c.ctx (homeOf row)

/-- Entries each slice lacks for the new pins of rows. -/
def pinShort (c : Cmd) (train : Bool) (rows : List Nat) (s : State) : List Nat :=
  let t := Pkt.table c.words
  let n := puntyEntries (table s t).desc.stride
  (List.range 32).map fun sl =>
    let v := slice s sl
    let new := rows.filter fun r => cmdSlice s c r == sl && (pinIdx v train t r).isNone
    if new.isEmpty then 0 else new.length * n + puntyUsed v - 48

/-- Makes the content of a row that is to be pinned available: a copy of its slice that passes its checks, or a fetch. -/
def wantPin (c : Cmd) (train : Bool) (row : Nat) (s : State) : State :=
  let t := Pkt.table c.words
  let sl := cmdSlice s c row
  if (pinIdx (slice s sl) train t row).isSome then s
  else match checkCopies everyTile (some c.ctx) sl t row (batchVer c) 8 s with
    | (u, true) => gotRow c.id row none u
    | (u, false) =>
      if (findSpot u (slice u sl) t row (batchVer c)).isSome || row ∈ c.asked then u
      else fetchFor c false sl t row (batchVer c) u

/-- Makes the rows of a PIN_ROWS available in order, until one waits for room in a cullet buffer. -/
def wantPins (id : Nat) (train : Bool) : List Nat → State → State
  | [], s => s
  | row :: rest, s =>
    match cmd? s id with
    | none => s
    | some c =>
      if c.phase == .done then s
      else
        let x := orStall (id, Pkt.table c.words, row) s (wantPin c train row s)
        if x.2 then wantPins id train rest x.1 else x.1

/-- What a pin of a row has to take: nothing more, a copy of its slice, a fetched row, a failed row, or not yet anything. -/
def pinState (s : State) (c : Cmd) (train : Bool) (row : Nat) : Option (Option Got) :=
  let t := Pkt.table c.words
  let v := slice s (cmdSlice s c row)
  match gotOf c row with
  | some ⟨_, none⟩ => some (some ⟨row, none⟩)
  | g =>
    if (pinIdx v train t row).isSome || (findSpot s v t row (batchVer c)).isSome then some none
    else match g with
      | some x => some (some x)
      | none => none

/-- Pins one row, or adds the context to the owners of the pin it has. -/
def pinRow (c : Cmd) (train : Bool) (s : State) (row : Nat) : State :=
  let t := Pkt.table c.words
  let sl := cmdSlice s c row
  let v := slice s sl
  let add := fun (cp : Copy) (d : Bool) (u : State) =>
    setSlice sl { slice u sl with punty := (slice u sl).punty ++ [{ copy := cp, train := train, dirty := d, owners := [c.ctx] }] } u
  match pinIdx v train t row with
  | some i =>
    let own := fun (p : Punty) => { p with owners := if c.ctx ∈ p.owners then p.owners else p.owners ++ [c.ctx] }
    setSlice sl { v with punty := modAt v.punty i own } s
  | none =>
    match (findSpot s v t row (batchVer c)).bind fun sp => (copyAt v sp).map fun cp => (sp, cp) with
    | some (sp, cp) =>
      let u := takeSpot sl sp s
      add cp u.2 u.1
    | none =>
      match gotOf c row with
      | some ⟨_, some bs⟩ =>
        let r := rowRange s t (batchVer c) row
        add { table := t, row := row, lo := r.1, hi := r.2, bytes := bs } false s
      | _ => s

/-- Pins every row of a PIN_ROWS, or none: once each can be had. -/
def pinAll (id : Nat) (train : Bool) (s : State) : State :=
  match cmd? s id with
  | none => s
  | some c =>
    let rows := (rowsOf c).rows
    let st := rows.map (pinState s c train)
    let bad := rows.filter fun r => decide (pinState s c train r = some (some ⟨r, none⟩))
    if c.phase == .done || st.any Option.isNone then s
    else match bad with
      | [] => finish id okVerdict (rows.foldl (pinRow c train) s)
      | r :: rs => corruptCmd c (cmdSlice s c (rs.foldl min r)) (Pkt.table c.words) (rs.foldl min r) s

/-- PIN_ROWS: its identifiers once; then its rows are made available, and all of them are pinned or none (R135, R136). -/
def pinRows (c : Cmd) (s : State) : State :=
  let train := trains s (Pkt.table c.words) c.ctx
  let run := fun (rows : List Nat) (t : State) =>
    let short := maxOf (pinShort c train rows t)
    if short > 0 then finish c.id (.noSpace, 0x20, 4 * short) t
    else pinAll c.id train (wantPins c.id train rows t)
  if (rowsOf c).intake then run (rowsOf c).rows s
  else withIds c s fun xs t =>
    run (hereRows xs) (setRows c.id { rowsOf c with rows := hereRows xs, intake := true, dropped := (dropReasons xs).length } t)

/-- PIN_ROWS with UNPIN 0 (R135, R136). -/
def execPinRows (cmd : Nat) (s : State) : Host.Outcome State Fault Refusal :=
  done s (onIssued cmd 0x07 s fun c t => if Pkt.unpin c.words then s else pinRows c t)

/-- Releases a pin: its row goes to the basin, or is written back (R138). -/
def dropPin (sl i : Nat) (s : State) : State :=
  let v := slice s sl
  match v.punty[i]? with
  | none => s
  | some p => placeOrWrite sl p.copy p.dirty (savePend p (setSlice sl { v with punty := v.punty.eraseIdx i } s))

/-- Releases the pins of rows in order, until one waits for room in a cullet buffer; the rows that are left. -/
def unpinRows (c : Cmd) (train : Bool) : List Nat → State → State × List Nat
  | [], s => (s, [])
  | row :: rest, s =>
    let sl := cmdSlice s c row
    match pinIdx (slice s sl) train (Pkt.table c.words) row with
    | none => unpinRows c train rest s
    | some i =>
      let x := orStall (c.id, Pkt.table c.words, row) s (dropPin sl i s)
      if x.2 then unpinRows c train rest x.1 else (x.1, row :: rest)

/-- UNPIN: its identifiers once; then its pins are released one by one. -/
def unpin (c : Cmd) (s : State) : State :=
  let run := fun (r : RowsWork) (t : State) =>
    let x := unpinRows c (trains t (Pkt.table c.words) c.ctx) r.rows t
    let u := setRows c.id { r with rows := x.2 } x.1
    if x.2.isEmpty then finish c.id okVerdict u else u
  if (rowsOf c).intake then run (rowsOf c) s
  else withIds c s fun xs t => run { rowsOf c with rows := hereRows xs, intake := true, dropped := (dropReasons xs).length } t

/-- UNPIN (R138): releases the pins of the context's kind. -/
def execUnpin (cmd : Nat) (s : State) : Host.Outcome State Fault Refusal :=
  done s (onIssued cmd 0x07 s fun c t => if Pkt.unpin c.words then unpin c t else s)

/-! ### SERVE pins at a publish (R137) -/

/-- Number by which the fetches of pins to be refilled name their reader. -/
def refillId : Nat := engineWork 3

/-- What reads the row of a pin that is to be refilled: none of the commands. -/
def refiller (p : Punty) : Cmd := { id := refillId, ctx := p.owners.headD 0, gen := 2 ^ 64 }

/-- Gives a SERVE pin the row of the version just published; the copy it held goes to the basin, or is written back. -/
def refillWith (sl i : Nat) (p : Punty) (cp : Copy) (dirty : Bool) (s : State) : State :=
  placeOrWrite sl p.copy p.dirty
    (setSlice sl { slice s sl with punty := modAt (slice s sl).punty i fun q => { q with copy := cp, dirty := dirty } } s)

/-- One refill: table, version and row. -/
abbrev Refill := Nat × Nat × Nat

/-- The pin that a refill is for on a slice: none where it is gone or holds that version. -/
def refillPin (v : Slice) (r : Refill) : Option (Nat × Punty) :=
  (pinIdx v false r.1 r.2.2).bind fun i => (v.punty[i]?).bind fun p => if p.copy.covers r.1 r.2.2 r.2.1 then none else some (i, p)

/-- Refills the pin of a row on a slice from a copy of the slice, or fetches the row. A pin whose row fails stays as it is. -/
def refillOn (r : Refill) (s : State) (sl : Nat) : State :=
  match refillPin (slice s sl) r with
  | none => s
  | some (i, p) =>
    match checkCopies everyTile none sl r.1 r.2.2 r.2.1 8 s with
    | (u, true) => u
    | (u, false) =>
      match (findSpot u (slice u sl) r.1 r.2.2 r.2.1).bind fun sp => (copyAt (slice u sl) sp).map fun cp => (sp, cp) with
      | some (sp, cp) =>
        let x := takeSpot sl sp u
        refillWith sl i p cp x.2 x.1
      | none =>
        let place := rowPlace u r.1 r.2.1 r.2.2
        let out := u.fetches.any fun f => f.slice == sl && f.table == r.1 && f.row == r.2.2 && f.waiters.contains refillId
        if out || reach u place (table u r.1).desc.stride != .ok then u
        else match joinable u sl r.1 r.2.2 r.2.1 with
          | some f => joinFetch f.id refillId false u
          | none => startFetch (refiller p) sl r.1 r.2.2 r.2.1 place .none false u

/-- Whether a pin still waits for a refill. -/
def refillDue (s : State) (r : Refill) : Bool := s.slices.any fun e => (refillPin e.2 r).isSome

/-- Goes on with the refills of pins, each as far as it goes. -/
def runRefills (s : State) : State :=
  let step := fun (t : State) (r : Refill) =>
    ((Sparse.keys t.slices).foldl (fun u sl => (orStall (refillId, r.1, r.2.2) u (refillOn r u sl)).1) t)
  let t := s.refills.foldl step s
  { t with refills := t.refills.filter (refillDue t) }

/-- Each SERVE pin of a table is to take the row of the version just published. -/
def refillPins (t ver : Nat) (s : State) : State :=
  let rows := dedup (s.slices.flatMap fun e => (e.2.punty.filter fun p => !p.train && p.copy.table == t).map fun p => p.copy.row)
  runRefills { s with refills := (s.refills.filter fun r => r.1 != t) ++ rows.map fun row => (t, ver, row) }

/-- A fetched row reaches the pin that is to be refilled with it. -/
def refillArrived (f : Fetch) (bs : List Byte) (s : State) : State :=
  s.refills.foldl (fun u r =>
    if r.1 = f.table ∧ r.2.2 = f.row ∧ f.covers r.2.1 then
      match refillPin (slice u f.slice) r with
      | none => u
      | some (i, p) =>
        let g := rowRange u r.1 r.2.1 r.2.2
        let cp : Copy := { table := r.1, row := r.2.2, lo := g.1, hi := g.2, bytes := bs }
        (orStall (refillId, r.1, r.2.2) u (refillWith f.slice i p cp false u)).1
    else u) s

/-! ### ROW_MIGRATE -/

/-- A MIGRATE_REQ (R193: as Table 6 of 07, with DEST_TIER in word 4 and 8-byte entries). -/
def migrateReqBytes (s : State) (c : Cmd) (req dest : Nat) (rows : List Nat) : List Byte :=
  toLE 4 5 ++ toLE 4 (rd Reg.CHIP_ID_CHIP 0 s + c.ctx * 2 ^ 12 + c.gen % 2 ^ 12 * 2 ^ 20) ++ toLE 4 req
  ++ toLE 4 (Pkt.table c.words + rows.length * 2 ^ 12) ++ toLE 4 dest ++ toLE 12 0 ++ rows.flatMap (toLE 8)

/-- Forwards the rows of one peer (R174). -/
def forwardRows (c : Cmd) (rem : List (Nat × Nat)) (s : State) (chip : Nat) : State :=
  match rimPort s chip with
  | none => if ((cmd? s c.id).map (·.phase)) = some .done then s else finish c.id (.remoteLost, 0xFFFFFFFF, chip) s
  | some k =>
    match takeReq c.ctx s with
    | none => s
    | some (req, u) =>
    let rows := (rem.filter fun e => e.2 == chip).map (·.1)
    send (.message chip k (migrateReqBytes u c req (Pkt.destTier c.words) rows))
      { u with remote := { u.remote with migs := u.remote.migs ++ [{ req := req, cmd := c.id, chip := chip, port := k }] } }

/-- The reservation of a ROW_MIGRATE for its rows of this chip: all of them or none, with its verdict in the command (R175). -/
def reserveMigrate (c : Cmd) (rows : List Nat) (s : State) : State :=
  match reserveAll c.id (Pkt.table c.words) (Pkt.destTier c.words) rows s with
  | .error v => modCmd c.id (fun d =>
      { d with status := v.1, d0 := v.2.1, d1 := v.2.2, work := .rows { rowsOf d with reserved := true } }) s
  | .ok u => setRows c.id { rowsOf c with rows := rows, reserved := true } u

/-- Whether the identifiers of an admitted command can be read at once. -/
def idsReadable (s : State) (c : Cmd) : Bool :=
  let a := Pkt.addrA c.words
  (isChip a || s.host.st == .opened) && translated s (spaceOf s c.ctx) a (8 * idCount c) false

/-- A ROW_MIGRATE reserves at its admission (R175); where its identifiers cannot be read then, at its issue (log entry 62). -/
def migrateAdmitted (id : Nat) (s : State) : State :=
  match cmd? s id with
  | none => s
  | some c =>
    if c.op == 8 && c.phase == .admitted && idsReadable s c then
      match readIds s c with
      | .error _ => s
      | .ok xs => reserveMigrate c (hereRows xs) s
    else s

/-- ROW_MIGRATE once its reservations stand: its remote rows are forwarded. -/
def migrateRun (id : Nat) (rem : List (Nat × Nat)) (dropped : Nat) (s : State) : State :=
  match cmd? s id with
  | none => s
  | some c =>
    if c.status == .noSpace then finish id (c.status, c.d0, c.d1) s
    else settleMigrate id ((dedup (rem.map (·.2))).foldl (forwardRows c rem)
      (setRows id { rowsOf c with intake := true, dropped := dropped } s))

/-- ROW_MIGRATE: the rows of this chip all reserve or none moves; the remote rows are forwarded. -/
def rowMigrate (c : Cmd) (s : State) : State :=
  if (rowsOf c).intake then settleMigrate c.id s
  else withIds c s fun xs t =>
    if (freeSeqs c.ctx s).length < (dedup ((remoteRows xs).map (·.2))).length then s
    else migrateRun c.id (remoteRows xs) (dropReasons xs).length (if (rowsOf c).reserved then t else reserveMigrate c (hereRows xs) t)

/-- ROW_MIGRATE (R174, R175, R181). -/
def execRowMigrate (cmd : Nat) (s : State) : Host.Outcome State Fault Refusal := done s (onIssued cmd 0x08 s rowMigrate)

/-! ### Write-backs reported complete (R128, R179) -/

/-- The first entry of a row that is issued and does not lie in flash. -/
def doneCull (l : List Cull) (t row : Nat) : Option Nat :=
  idxOf (fun (e : Cull) => e.issued && e.place.tier != 4 && e.copy.table == t && e.copy.row == row) l

/-- An entry on its way to its tier where its content is discarded: it goes, or it completes into nothing once its write is issued. -/
def Cull.discard (p : Copy → Bool) (e : Cull) : Option Cull :=
  if !p e.copy then some e else if e.issued then some { e with snooped := false, dropped := true } else none

/-- Removes an overlay entry and frees its slot: writes of the slot that wait or are in flight go nowhere (R66). -/
def dropDelta (t : Nat) (d : Delta) (s : State) : State :=
  let off := fun (e : Cull) => if e.home then some e else e.discard fun c => c.isId t d.row d.version
  setTable t { table s t with delta := (table s t).delta.filter fun e => decide (e ≠ d) }
    (mapSlices (fun v => { v with cullet := v.cullet.filterMap off, hold := v.hold.filterMap off }) s)

/-- Overlay entries that the write of a row's home has folded are gone (R66). -/
def homeWritten (e : Cull) (s : State) : State :=
  let tb := table s e.copy.table
  let mine := fun (d : Delta) => d.row == e.copy.row && d.version == e.copy.lo && decide (d.version ≤ tb.baseNum)
  if e.home then (tb.delta.filter mine).foldl (fun t d => dropDelta e.copy.table d t) s else s

/-- The write of an entry is complete: the tier holds its row, copies that hold the same are clean, and the flush has it (R119, R128,
R131). -/
def entryWritten (sl : Nat) (e : Cull) (s : State) : State :=
  if e.dropped then s
  else
    let t := homeWritten e (writeTier e.place e.copy.bytes s)
    { setSlice sl (cleaned e (slice t sl)) t with
      flushing := t.flushing.filter fun d => decide (d ≠ (sl, e.copy.table, e.copy.row, e.copy.lo)) }

/-- The write of cullet entry `i` of a slice is complete, and the entry is freed. -/
def cullDone (sl i : Nat) (s : State) : State :=
  let v := slice s sl
  match v.cullet[i]? with
  | none => s
  | some e => runRefills (issueWaiting (entryWritten sl e (setSlice sl { v with cullet := v.cullet.eraseIdx i } s)))

/-- The write of hold entry `i` of a slice is complete, and the entry is freed (R179). -/
def holdDone (sl i : Nat) (s : State) : State :=
  let v := slice s sl
  match v.hold[i]? with
  | none => s
  | some e => runRefills (issueWaiting (entryWritten sl e (setSlice sl { v with hold := v.hold.eraseIdx i } s)))

/-- WRITEBACK_COMPLETE (R128, R129, R179): the target tier holds the row, and its entry of the cullet buffer or hold area is freed. -/
def execWritebackComplete (slice : BitVec 5) (table : TableNo) (row : BitVec 40) (s : State) :
    Host.Outcome State Fault Refusal :=
  done s (
    let sl := slice.toNat
    let v := Machine.slice s sl
    let reached := fun (e : Cull) => reach s e.place e.copy.bytes.length == .ok
    match doneCull v.cullet table.toNat row.toNat, doneCull v.hold table.toNat row.toNat with
    | some i, _ => if (v.cullet[i]?).any reached then cullDone sl i s else s
    | none, some i => if (v.hold[i]?).any reached then holdDone sl i s else s
    | none, none => s)

/-! ### Granules and geometry (R110, R112) -/

/-- Granules of each slice that a table's matrix B takes. -/
def Desc.granules (d : Desc) : Nat := if d.adapter then ceilDiv d.bBytes 65536 else 0

/-- Granules pinned by adapter tables. -/
def pinnedGranules (s : State) : Nat := sumOf (s.tables.map fun e => if e.2.defined then e.2.desc.granules else 0)

/-- Granules of the installed classes. -/
def classGranules (s : State) : Nat := sumOf (s.geom.map fun e => e.2.granules)

/-- Free granules (R112). -/
def freeGranules (s : State) : Nat := 384 - classGranules s - pinnedGranules s - s.place.granules

/-- Empties one way of a set: a dirty row goes to write-back, content not committed stays with its command, a DISABLED way stays. -/
def clearWay (sl k w : Nat) (s : State) : State :=
  let v := slice s sl
  let b := setOf s v k
  let x := b.ways.getD w {}
  let t := setSlice sl (putSet k { b with ways := if x.st == .disabled then b.ways else setAt b.ways w {} } v) s
  if x.st == .dirty && !x.copy.dead s then writeBack sl x.copy t
  else if x.st == .pending then addSpare x.owner x.copy.row x.copy.bytes t else t

/-- Steps 1 and 2 of R110 for a class in a slice, way by way; a way whose row finds no room in the cullet buffer stays. -/
def clearClass (cls : Nat) (s : State) (sl : Nat) : State :=
  let ws := (slice s sl).sets.flatMap fun e =>
    if keyClass e.1 = cls then e.2.ways.zipIdx.filterMap fun w => if w.1.st == .invalid then none else some (e.1, w.2, w.1.copy) else []
  let t := ws.foldl (fun u e => (orStall (engineWork 0, e.2.2.table, e.2.2.row) u (clearWay sl e.1 e.2.1 u)).1) s
  let v := slice t sl
  setSlice sl { v with gob := v.gob.filter fun c => (table t c.table).desc.cls != cls } t

/-- Whether a class has no row left in any slice. -/
def classClear (s : State) (cls : Nat) : Bool :=
  s.slices.all fun e => e.2.sets.all fun b => keyClass b.1 != cls || b.2.ways.all fun w => w.st == .invalid || w.st == .disabled

/-- Classes whose geometry changed. -/
def changedClasses (s : State) : List Nat := (List.range 16).filter fun c => decide (cfgGeom s c ≠ geomOf s c)

/-- Steps 1 to 3 of R110 for every changed class, as far as there is room. -/
def clearChanged (s : State) : State :=
  (changedClasses s).foldl (fun t c => (Sparse.keys t.slices).foldl (clearClass c) t) s

/-- The sets of changed classes start empty under the new geometry, but for the ways the repair map disables. -/
def resetSets (cs : List Nat) (s : State) : State :=
  let t := mapSlices (fun v => { v with sets := v.sets.filter fun e => !cs.contains (keyClass e.1) }) s
  (t.repair.ways.filter fun e => cs.contains e.2.1 && decide (e.2.2.1 < (geomOf t e.2.1).sets)).foldl disableWay t

/-- Installs the written geometry (R110, R172). -/
def installGeom (s : State) : State :=
  let cs := changedClasses s
  resetSets cs
    { s with geom := cs.foldl (fun g c => Sparse.set {} g c (cfgGeom s c)) s.geom
             place := { s.place with granules := rd Reg.PLACE_CFG_CACHE_GRANULES 0 s } }

/-- The sum that an APPLY must keep within 384 (R110, R172). -/
def applySum (s : State) : Nat :=
  sumOf ((List.range 16).map fun c => (cfgGeom s c).granules) + pinnedGranules s + rd Reg.PLACE_CFG_CACHE_GRANULES 0 s

/-- A write of APPLY (R110): refused with CFG_ERR where the granules do not fit. -/
def startApply (s : State) : State :=
  if applySum s > 384 then wr Reg.BASIN_STAT_CFG_ERR 0 1 s
  else
    clearChanged (wr Reg.BASIN_STAT_APPLY_BUSY 0 1 s)

/-- BASIN_APPLY (R110). -/
def execBasinApply (s : State) : Host.Outcome State Fault Refusal := done s (apWrite Reg.BASIN_CTRL_APPLY.off s startApply)

/-- BASIN_APPLY_DONE (R110): what is left of the changed classes goes, the geometry is installed, APPLY_BUSY clears. -/
def execBasinApplyDone (s : State) : Host.Outcome State Fault Refusal :=
  done s (if rdb Reg.BASIN_STAT_APPLY_BUSY 0 s then
    let u := clearChanged s
    if (changedClasses u).all (classClear u) then wr Reg.BASIN_STAT_APPLY_BUSY 0 0 (installGeom u) else u
  else s)

/-! ### Flush (R131) -/

/-- A dirty copy by place: slice, table, row, LO. -/
abbrev DirtyId := Nat × Nat × Nat × Nat

/-- The dirty ways and punty entries of every slice. -/
def dirtyIds (s : State) : List DirtyId :=
  s.slices.flatMap fun e =>
    ((e.2.sets.flatMap fun b => b.2.ways.filter fun w => w.st == .dirty && !w.copy.dead s).map fun w =>
      (e.1, w.copy.table, w.copy.row, w.copy.lo))
    ++ (e.2.punty.filter (·.dirty)).map fun p => (e.1, p.copy.table, p.copy.row, p.copy.lo)

/-- The dirty way or punty entry that holds a copy. -/
def dirtyAt (s : State) (d : DirtyId) : Option Copy :=
  let v := slice s d.1
  let mine := fun (c : Copy) => c.isId d.2.1 d.2.2.1 d.2.2.2
  (((v.punty.find? fun p => p.dirty && mine p.copy).map (·.copy))
    <|> (((v.sets.flatMap fun b => b.2.ways).find? fun w => w.st == .dirty && mine w.copy).map (·.copy)))

/-- The write of a dirty copy of a slice that stays cached: nothing reads the entry, as the copy is there (R108). -/
def copyDown (c : Copy) : Cull := { copy := c, snooped := false }

/-- Whether a write of the row waits in the slice. -/
def writeWaits (s : State) (d : DirtyId) : Bool :=
  let v := slice s d.1
  (v.cullet ++ v.hold).any (fun e => e.copy.table == d.2.1 && e.copy.row == d.2.2.1) || v.kept.any fun c => c.table == d.2.1 && c.row == d.2.2.1

/-- Writes one dirty copy toward its target: to DRAM at once, else through the cullet buffer or the hold area. It becomes CLEAN as that
write completes (R119). -/
def flushOne (s : State) (d : DirtyId) : State :=
  match dirtyAt s d with
  | none => s
  | some c =>
    if writeWaits s d then s
    else match writeTarget s c with
      | .place p =>
        if (p.tier = 1 ∨ p.tier = 2) ∧ reach s p c.bytes.length = .ok then
          entryWritten d.1 { copyDown c with issued := true, place := p } s
        else (orStall (engineWork 1, c.table, c.row) s (sendDown d.1 (copyDown c) s)).1
      | .hold => (orStall (engineWork 1, c.table, c.row) s (sendDown d.1 (copyDown c) s)).1

/-- Whether a copy of the flush is still to be written. -/
def unflushed (s : State) (d : DirtyId) : Bool :=
  let v := slice s d.1
  let mine := fun (c : Copy) => c.isId d.2.1 d.2.2.1 d.2.2.2
  (dirtyAt s d).isSome || (v.cullet ++ v.hold).any (fun e => !e.dropped && mine e.copy) || v.kept.any mine

/-- A write of FLUSH (R131): what is dirty now is to be written. -/
def startFlush (s : State) : State :=
  wr Reg.BASIN_STAT_FLUSH_BUSY 0 1 { s with flushing := dedup (s.flushing ++ dirtyIds s) }

/-- BASIN_FLUSH (R131). -/
def execBasinFlush (s : State) : Host.Outcome State Fault Refusal := done s (apWrite Reg.BASIN_CTRL_FLUSH.off s startFlush)

/-- BASIN_FLUSH_DONE (R131): FLUSH_BUSY clears when every copy that was dirty at the write has been written. -/
def execBasinFlushDone (s : State) : Host.Outcome State Fault Refusal :=
  done s (if rdb Reg.BASIN_STAT_FLUSH_BUSY 0 s then
    let t := s.flushing.foldl flushOne s
    let u := { t with flushing := t.flushing.filter (unflushed t) }
    if u.flushing.isEmpty then wr Reg.BASIN_STAT_FLUSH_BUSY 0 0 u else u
  else s)

/-! ### The write-backs before a reset or U3 (R131) -/

/-- Every copy of a slice that its tier does not hold, oldest first, with the place it goes to. -/
def unwritten (s : State) (sl : Nat) : List (Copy × Place) :=
  let v := slice s sl
  let at_ := fun (e : Cull) => match e.target s with
    | .place p => p
    | .hold => homeNow s e.copy.table e.copy.row
  let ways := ((v.sets.flatMap fun b => b.2.ways.filter fun w => w.st == .dirty && !w.copy.dead s).map (·.copy))
  let pins := (v.punty.filter (·.dirty)).map (·.copy)
  (((v.cullet ++ v.hold).filter fun e => !e.dropped) ++ (v.kept ++ ways ++ pins).map fun c => ({ copy := c } : Cull)).map
    fun e => (e.copy, at_ e)

/-- Writes one copy, or notes the table whose row is lost. -/
def writeNow (acc : State × List Nat) (e : Copy × Place) : State × List Nat :=
  if reach acc.1 e.2 e.1.bytes.length == Reach.ok then (writeTier e.2 e.1.bytes acc.1, acc.2) else (acc.1, acc.2 ++ [e.1.table])

/-- A DIRTY_LOST record of a slice for each table with lost rows (R131, R304). -/
def logLost (sl : Nat) (ts : List Nat) (s : State) : State :=
  (dedup ts).foldl (fun t n => logErr 0x0013 0 none (unitId 1 sl) (n + (ts.filter (· == n)).length * 2 ^ 32) t) s

/-- Writes back every dirty copy of a slice, in the order in which its writes would reach their targets. What cannot be
written is recorded and lost. -/
def writeBackSlice (s : State) (sl : Nat) : State :=
  let r := (unwritten s sl).foldl writeNow (s, [])
  let v := slice r.1 sl
  let way := fun (w : Way) => if w.st == .dirty then { w with st := .clean } else w
  logLost sl r.2 (setSlice sl
    { v with
      cullet := []
      hold := []
      kept := []
      sets := Sparse.mapVals {} (fun _ b => { b with ways := b.ways.map way }) v.sets
      punty := v.punty.map fun p => { p with dirty := false } } r.1)

end Sys2Proof.Machine
end

