-- ==== Sys2Proof/Machine/Tables.lean ====
section
/-! DEFINITION. The table commands: TABLE_DEFINE, VERSION_OPEN, TABLE_PUBLISH, TABLE_RETIRE, TABLE_LOAD and TABLE_SAVE, and
what follows them: the publish point, a version becoming FREE, the fold (R48 to R50, R58, R61 to R69, R75, R117, R118, R145,
R170). -/

namespace Sys2Proof.Machine

/-! ### Descriptors (R48, R49) -/

/-- Whether a descriptor asks for a training line kept in versions. -/
def descPooled (ws : List Word) : Bool := bit (wordAt ws 0) 4 && bit (wordAt ws 0) 20

/-- ROWS of a descriptor. -/
def descRows (ws : List Word) : Nat := field (addr64 ws 2) 40 0

/-- The descriptor in its words. -/
def descOf (ws : List Word) : Desc :=
  let w0 := wordAt ws 0
  { format := field w0 3 0, versioned := bit w0 4, adapter := bit w0 5, xlate := field w0 7 6, cls := field w0 11 8,
    opt := field w0 15 12, stateFmt := field w0 16 16, actFmt := field w0 19 17, trainEn := bit w0 20,
    deltaTier := field w0 23 21, rowLen := pf ws 1 12 0, shardLog2 := pf ws 1 20 16, trainCtx := pf ws 1 31 24,
    rows := descRows ws, seed := addr64 ws 4, deltaRows := wordAt ws 8, deltaPool := addr64 ws 9,
    gradExp := signedOf 8 (pf ws 11 7 0), amaxHist := pf ws 11 12 8, rank := pf ws 12 4 0, aFmt := pf ws 12 5 5,
    bAddr := addr64 ws 13, optP := (List.range 4).map fun i => ws.getD (15 + i) 0#32 }

/-- Masks of the words of a descriptor in use; a field reserved under a condition stands among `descRanges`. -/
def descMasks : List Nat :=
  let a := 0xFFFFFFFF
  [0x00FFFFFF, 0xFF1F1FFF, a, 0x1FF, a, a, a, a, a, a, a, 0x1FFF, 0x3F, a, a, a, a, a, a]

/-- First and last address past the end of the tier ranges (R144). -/
def tierRanges (tier : Nat) : List (Nat × Nat) :=
  if tier = 1 then [(cisternBase, cisternBase + 48 * 2 ^ 30)]
  else [(hbmBase, hbmBase + 2 ^ 39), (hbmLocalBase, hbmLocalBase + 2 ^ 39)]

/-- Whether `n` bytes at an address lie within one range of a DRAM tier. -/
def inTier (tier a n : Nat) : Bool := (tierRanges tier).any fun r => decide (r.1 ≤ a) && decide (a + n ≤ r.2)

/-- Whether `n` bytes of the cistern overlap the placement region. -/
def overRegion (s : State) (a n : Nat) : Bool :=
  decide (n ≠ 0) && decide (a < regionBase s + 2 ^ 26) && decide (regionBase s < a + n)

/-- Offences of values and conditions of a descriptor (R48, R49). -/
def descRanges (ws : List Word) : List Offence :=
  let d := descOf ws
  let tv := descPooled ws
  offend (decide (d.format > 6) || (d.adapter && d.format != 5 && d.format != 6)
    || (!d.adapter && d.trainEn && decide (d.format > 2))) 0 0
  ++ offend (d.xlate == 3) 0 6 ++ offend (decide (d.opt > 3)) 0 12 ++ offend (decide (d.actFmt > 4)) 0 17
  ++ offend (if tv then d.deltaTier != 1 && d.deltaTier != 2 else d.deltaTier != 0) 0 21
  ++ offend (decide (d.rowLen < 16) || decide (d.rowLen > 4096) || d.rowLen % 16 != 0) 1 0
  ++ offend (decide (d.shardLog2 < 10) || decide (d.shardLog2 > 30) || decide (d.rows > 2 ^ (d.shardLog2 + 20))) 1 16
  ++ offend (if d.trainEn then d.trainCtx == 0 else d.trainCtx != 0) 1 24
  ++ offend (d.rows == 0 || decide (d.rows > 2 ^ 40)) 2 0
  ++ offend (addr64 ws 6 % 64 != 0) 6 0
  ++ offend (!tv && d.deltaRows != 0) 8 0
  ++ offend (if tv then d.deltaPool % 4096 != 0 else d.deltaPool != 0) 9 0
  ++ offend (decide (d.amaxHist < 1) || decide (d.amaxHist > 16)) 11 8
  ++ offend (if d.adapter then decide (d.rank < 1) || decide (d.rank > 16) else d.rank != 0) 12 0
  ++ offend (!d.adapter && d.bAddr != 0) 13 0

/-- Whether a delta pool leaves its tier or overlaps the placement region (R145, R170). -/
def poolLeaves? (s : State) (ws : List Word) : Bool :=
  let d := descOf ws
  let n := d.deltaRows * d.stride
  descPooled ws && (!inTier d.deltaTier d.deltaPool n || (d.deltaTier == 1 && overRegion s d.deltaPool n))

/-- The lowest offending field of a descriptor. -/
def descOffence (s : State) (ws : List Word) : Option Offence :=
  lowestOffence (reservedOffences descMasks 0 ws ++ descRanges ws ++ offend (poolLeaves? s ws) 9 0)

/-! ### Shard maps (R58, R145, R170, R188) -/

/-- Shards of a table. -/
def Desc.shards (d : Desc) : Nat := ceilDiv d.rows (2 ^ d.shardLog2)

/-- Bytes of shard `k`; the last may be partial. -/
def Desc.shardBytes (d : Desc) (k : Nat) : Nat := min (2 ^ d.shardLog2) (d.rows - k * 2 ^ d.shardLog2) * d.stride

/-- The entry in its words. -/
def shardOf (ws : List Word) : Shard :=
  { tier := pf ws 0 3 0, chip := pf ws 0 15 4, target := pf ws 0 23 16, base := addr64 ws 2 }

/-- Whether a tier-3 range runs past its region (R188). -/
def pastRegion (s : State) (r a n : Nat) : Bool := decide (a + n > rd Reg.CXL_REGION_SIZE_SIZE r s * 4096)

/-- Whether a CXL region stands. -/
def regionOn (s : State) (r : Nat) : Bool := decide (r < 16) && rdb Reg.CXL_REGION_CTRL_EN r s

/-- Whether the storage of a shard runs past its tier or region, or overlaps the placement region. -/
def shardLeaves (s : State) (h : Shard) (n : Nat) : Bool :=
  match h.tier with
  | 1 => !inTier 1 h.base n || overRegion s h.base n
  | 2 => !inTier 2 h.base n
  | 3 => regionOn s h.target && pastRegion s h.target h.base n
  | _ => false

/-- The lowest offending field of an entry whose shard takes `n` bytes. -/
def shardOffence (s : State) (n : Nat) (ws : List Word) : Option Offence :=
  let h := shardOf ws
  lowestOffence (reservedOffences [0x00FFFFFF, 0, 0xFFFFFFFF, 0xFFFFFFFF] 0 ws
    ++ offend (decide (h.tier > 5) || (h.tier == 3 && !s.host.cxl)) 0 0
    ++ offend (h.tier != 5 && h.chip != 0) 0 4
    ++ offend (match h.tier with
      | 3 => !regionOn s h.target
      | 4 => !rdb Reg.NVMF_TGT_CTRL_CONNECT h.target s
      | _ => h.target != 0) 0 16
    ++ offend (match h.tier with
      | 0 => h.base != 0
      | 5 => h.base != 0
      | 4 => h.base % 4096 != 0
      | _ => h.base % 64 != 0 || shardLeaves s h n) 2 0)

/-- Whether a placement pool overlaps the placement region or leaves its region (R170, R188). -/
def poolBad (s : State) : Bool :=
  let base := fun t => rd Reg.PLACE_POOL_BASE_BASE t s
  let len := fun t => rd Reg.PLACE_POOL_LEN_LEN t s
  let r := rd Reg.PLACE_POOL_TARGET_TARGET 3 s
  overRegion s (base 1) (len 1) || (decide (len 3 ≠ 0) && (!regionOn s r || pastRegion s r (base 3) (len 3)))

/-- The verdict on a shard map: its lowest faulty shard. -/
def mapCheck (s : State) (d : Desc) (es : List (List Word)) : Option Verdict :=
  let bad := es.zipIdx.findSome? fun e =>
    (shardOffence s (d.shardBytes e.2) e.1).map fun o => (St.badField, fieldPos o.1 o.2 15, e.2)
  match bad with
  | some v => some v
  | none => if poolBad s then some (.badField, fieldPos 2 0 15, 0) else none

/-! ### TABLE_DEFINE -/

/-- Counters of a table, shown while it is defined (R81). -/
def tableCounters : List Fld :=
  [Reg.TBL_PAD_CNT_COUNT, Reg.TBL_INVALID_CNT_COUNT, Reg.TBL_MISSING_CNT_COUNT, Reg.TBL_GRAD_NONFINITE_CNT_COUNT,
   Reg.TBL_MERGE_CORRUPT_CNT_COUNT]

/-- A table as TABLE_DEFINE leaves it (R50, R201, R220). -/
def freshTable (d : Desc) (hs : List Shard) (b : BMat) : Table :=
  { desc := d, shards := hs, vers := [{ num := 0, st := .loading, b := b }], created := 1,
    gradExp := if d.actFmt ≤ 1 then 0 else d.gradExp }

/-- Installs a table whose descriptor and shard map passed, where its space can be had (R50, R112). -/
def installTable (c : Cmd) (d : Desc) (hs : List Shard) (b : BMat) (s : State) : State :=
  let short := Config.overlayShort s.freeCtr
  let pooled := d.trainEn && d.versioned
  if d.granules > freeGranules s then finish c.id (.noSpace, 0x21, 64 * (d.granules - freeGranules s)) s
  else if pooled && short != 0 then finish c.id (.noSpace, 0x11, short) (useFree 1 s)
  else finish c.id okVerdict (setTable (Pkt.table c.words) (freshTable d hs b) (if pooled then useFree 1 s else s))

/-- TABLE_DEFINE: state, descriptor, shard map, space. -/
def tableDefine (c : Cmd) (s : State) : State :=
  let t := Pkt.table c.words
  if (table s t).defined then finish c.id (.versionState, t, 8) s
  else match readArray s c (Pkt.addrA c.words) 128 (.packet 11) with
  | .error v => finish c.id v s
  | .ok db =>
    let ws := wordsOf 32 db
    let d := descOf ws
    match descOffence s ws with
    | some o => finish c.id (.badField, fieldPos o.1 o.2 11, 0) s
    | none =>
      match readLate c s (addr64 ws 6) (16 * d.shards) (.descriptor 6) with
      | .error t => t
      | .ok mb =>
        let t := noteRead c.id (addr64 ws 6) (noteRead c.id (Pkt.addrA c.words) s)
        let es := (List.range d.shards).map fun k => wordsOf 4 (mb.drop (16 * k))
        match mapCheck t d es with
        | some v => finish c.id v t
        | none =>
          if !d.adapter then installTable c d (es.map shardOf) {} t
          else match readLate c t d.bAddr d.bBytes (.descriptor 13) with
            | .error u => u
            | .ok bb => installTable c d (es.map shardOf) (bMatOf d bb) (noteRead c.id d.bAddr t)

/-- TABLE_DEFINE (R49, R50, R58). -/
def execTableDefine (cmd : Nat) (s : State) : Host.Outcome State Fault Refusal := done s (onIssued cmd 0x10 s tableDefine)

/-! ### VERSION_OPEN (R61, R62) -/

/-- The largest version number. -/
def maxVersion : Nat := 0xFFFFFFFE

/-- DETAIL1 of a VERSION_OPEN that is refused. DESIGN CHOICE: a table whose only version is RETIRING has nothing PUBLISHED, and no case of
R62 covers it; it answers 1 like a table that is still LOADING (log entry 80). -/
def openRefusal (s : State) (c t : Nat) : Option Nat :=
  let tb := table s t
  if !(trains s t c && tb.desc.versioned) then some 9
  else match tb.published with
  | none => some 1
  | some p =>
    if tb.working.isSome then some 2
    else match tb.version? (p.num + 1) with
      | some v => some v.st.code
      | none => if tb.vers.length ≥ 3 ∨ p.num + 1 > maxVersion then some 7 else none

/-- Adds a WORKING version after the published one, with its matrix B (R62, R78). -/
def Table.openVersion (tb : Table) (n : Nat) (b : BMat) : Table :=
  { tb with vers := tb.vers ++ [{ num := n, st := .working, b := b }], created := max tb.created (n + 1) }

/-- VERSION_OPEN. -/
def versionOpen (c : Cmd) (s : State) : State :=
  let t := Pkt.table c.words
  match openRefusal s c.ctx t with
  | some k => finish c.id (.versionState, t, k) s
  | none =>
    let short := Config.overlayShort s.freeCtr
    if short != 0 then finish c.id (.noSpace, 0x11, short) (useFree 1 s)
    else match (table s t).published with
      | some p => finish c.id okVerdict (setTable t ((table s t).openVersion (p.num + 1) p.b) (useFree 1 s))
      | none => s

/-- VERSION_OPEN (R62). -/
def execVersionOpen (cmd : Nat) (s : State) : Host.Outcome State Fault Refusal := done s (onIssued cmd 0x11 s versionOpen)

/-! ### TABLE_PUBLISH (R63, R64, R70, R75) -/

/-- DETAIL1 of a publish that can never take effect as the table stands. -/
def publishRefusal (tb : Table) (v : Nat) : Option Nat :=
  match tb.version? v with
  | none => some (tb.stateCode v)
  | some x =>
    match x.st with
    | .loading => none
    | .working =>
      if !tb.desc.versioned then some 2 else if tb.vers.length ≥ 3 ∨ v + 1 > maxVersion then some 7 else none
    | st => some st.code

/-- Whether the version of a publish is one that it may move, whatever the count of versions. -/
def publishWaits (tb : Table) (v : Nat) : Bool :=
  match tb.version? v with
  | some x => x.st == .loading || (x.st == .working && tb.desc.versioned)
  | none => false

/-- TABLE_PUBLISH (R63): a request; it is refused at once where its version is in another state. -/
def execTablePublish (cmd : Nat) (s : State) : Host.Outcome State Fault Refusal :=
  done s (onIssued cmd 0x12 s fun c t =>
    let n := Pkt.table c.words
    let v := Pkt.w9 c.words
    if publishWaits (table t n) v then t else finish c.id (.versionState, n, ((publishRefusal (table t n) v).getD 0)) t)

/-- Whether a publish waits for earlier commands: TABLE_LOADs of its version, MERGE_APPLYs of its queue (R37, R63). -/
def publishHeld (s : State) (c : Cmd) : Bool :=
  let same := fun (d : Cmd) => decide (d.id < c.id) && Pkt.table d.words == Pkt.table c.words
  s.cmds.any fun d => same d && ((d.op == 0x14 && Pkt.w9 d.words == Pkt.w9 c.words)
    || (d.op == 4 && d.queue == c.queue && !(d.phase == .done)))

/-- Whether a command of the training line has rows of a table still to read (R70). -/
def stillReads (c : Cmd) : Bool :=
  !(c.phase == .done) && match c.work with
    | .fwd f => !(f.intake && f.rows.all (·.done))
    | .none => false
    | .copy _ _ => false
    | _ => true

/-- The features of a forward command after its snapshot of a table moved. -/
def moveFeats (t v w : Nat) (f : Fwd) : Fwd :=
  { f with feats := f.feats.map fun g => if g.table == t && g.version == v && g.trained then { g with version := w } else g }

/-- A command whose snapshot follows the training line from a version to the next (R70). -/
def followLine (s : State) (t v w : Nat) (c : Cmd) : Cmd :=
  if trains s t c.ctx && stillReads c && c.op != 0x15 && c.snaps.any (fun n => n.table == t && n.version == v) then
    { c with snaps := c.snaps.map fun n => if n.table == t && n.version == v then { n with version := w } else n
             work := match c.work with
               | .fwd f => .fwd (moveFeats t v w f)
               | .scatter g => .scatter { g with again := moveFeats t v w g.again }
               | x => x }
  else c

/-- Commands whose snapshot of a version moves. -/
def followers (s : State) (t v w : Nat) : Nat := (s.cmds.filter fun c => decide (followLine s t v w c ≠ c)).length

/-- The publish point of a WORKING version: it is PUBLISHED, the former published version SUPERSEDED, the next number
WORKING. -/
def publishWorking (t v : Nat) (s : State) : State :=
  let tb := table s t
  let n := followers s t v (v + 1)
  let b := ((tb.version? v).map (·.b)).getD {}
  let vers := tb.vers.map fun x =>
    if x.num = v then { x with st := .published, inflight := x.inflight - n }
    else if x.st = .published then { x with st := .superseded } else x
  setTable t
    { tb with vers := vers ++ [{ num := v + 1, st := .working, inflight := n, b := b }], created := max tb.created (v + 2) }
    { s with cmds := s.cmds.map (followLine s t v (v + 1)) }

/-- The publish point (R63, R75, R137). -/
def publishPoint (t v : Nat) (s : State) : State :=
  let tb := table s t
  match (tb.version? v).map Version.st with
  | some VState.loading =>
    setTable t (tb.modVersion v fun x => { x with st := if tb.desc.trainEn && !tb.desc.versioned then .working else .published }) s
  | some VState.working => refillPins t v (publishWorking t v s)
  | _ => s

/-- PUBLISH_TAKES_EFFECT (R63): once the earlier commands it waits for have ended. -/
def execPublishTakesEffect (cmd : Nat) (s : State) : Host.Outcome State Fault Refusal :=
  done s (onIssued cmd 0x12 s fun c t =>
    let n := Pkt.table c.words
    let v := Pkt.w9 c.words
    if c.phase != .running || publishHeld t c then s
    else match publishRefusal (table t n) v with
      | some k => finish c.id (.versionState, n, k) t
      | none => finish c.id okVerdict (publishPoint n v t))

/-! ### TABLE_RETIRE (R65, R117) -/

/-- Whether a TABLE_RETIRE is accepted. -/
def retireOk (tb : Table) (v : Nat) : Bool :=
  match tb.version? v with
  | none => false
  | some x =>
    x.st == .retiring || x.st == .working
      || (tb.baseNum == v && (x.st != .published || tb.vers.length == 1))

/-- TABLE_RETIRE (R65): the version is RETIRING, and the reply waits until it is FREE. -/
def execTableRetire (cmd : Nat) (s : State) : Host.Outcome State Fault Refusal :=
  done s (onIssued cmd 0x13 s fun c t =>
    let n := Pkt.table c.words
    let v := Pkt.w9 c.words
    let tb := table t n
    if tb.vers.any fun x => x.retires.contains c.id then s
    else if retireOk tb v then
      setTable n (tb.modVersion v fun x => { x with st := .retiring, retires := x.retires ++ [c.id] }) t
    else finish c.id (.versionState, n, tb.stateCode v) t)

/-- Way `w` where it holds no row that `p` names. -/
def dropWay (p : Copy → Bool) (w : Way) : Way :=
  if (w.st == .clean || w.st == .dirty || w.st == .filling || w.st == .pending) && p w.copy then {} else w

/-- A slice without the copies `p` names: ways and entries go, writes go nowhere. DESIGN CHOICE: a TRAIN pin whose content is that of a
discarded version goes with it; R117 says that the copy is invalid and not what becomes of the pin (log entry 79). -/
def Slice.without (p : Copy → Bool) (v : Slice) : Slice :=
  { v with
    sets := Sparse.mapVals {} (fun _ b => { b with ways := b.ways.map (dropWay p) }) v.sets
    punty := v.punty.filter (fun e => !p e.copy)
    gob := v.gob.filter (fun x => !p x)
    cullet := v.cullet.filterMap (Cull.discard p)
    hold := v.hold.filterMap (Cull.discard p)
    kept := v.kept.filter fun c => !p c }

/-- Drops the copies `p` names on every slice; a fill of such a row brings it nowhere. -/
def dropCopies (p : Copy → Bool) (s : State) : State :=
  let row := fun (f : Fetch) => p { table := f.table, row := f.row, lo := f.lo, hi := f.hi }
  mapSlices (Slice.without p) { s with fetches := s.fetches.map fun f => if row f then { f with dest := .none } else f }

/-- Ends the withheld retires of a version. -/
def endRetires (ids : List Nat) (s : State) : State := ids.foldl (fun t i => finish i okVerdict t) s

/-- The last version of a table is FREE: the table is undefined, and nothing of it remains (R65, R112, R138, R173). -/
def undefineTable (t : Nat) (s : State) : State :=
  let u := dropTablePlaces t (dropCopies (fun c => c.table == t) s)
  let v := mapSlices (fun x => { x with slots := x.slots.filter fun k => k.table != t }) u
  { v with
    tables := Sparse.erase v.tables t
    regs := tableCounters.foldl (fun r f => Sparse.erase r (f.key t)) v.regs }

/-- A discarded WORKING version is FREE: its copies, delta slots and reservations go (R65, R117). -/
def discardVersion (t v : Nat) (s : State) : State :=
  let tb := table s t
  setTable t { tb with vers := tb.vers.filter fun x => x.num != v
                       delta := tb.delta.filter fun x => x.version != v
                       resv := [] }
    (dropCopies (fun c => c.table == t && c.lo == v) s)

/-- The base version is FREE: the next version is the base, and its delta is to be folded (R66). -/
def freeBase (t v : Nat) (s : State) : State :=
  let tb := table s t
  setTable t { tb with vers := tb.vers.filter fun x => x.num != v } s

/-- A version becomes FREE; gob entries that hold no version any more are dropped with it (R140). -/
def freeVersion (t v : Nat) (s : State) : State :=
  let tb := table s t
  dropDeadGobs (
    if tb.vers.length ≤ 1 then undefineTable t s
    else if tb.baseNum = v then freeBase t v s
    else discardVersion t v s)

/-- VERSION_FREE (R65): a RETIRING version without commands in flight is FREE, and its retires are answered. -/
def execVersionFree (table : TableNo) (version : Word) (s : State) : Host.Outcome State Fault Refusal :=
  done s (match (Machine.table s table.toNat).version? version.toNat with
    | none => s
    | some x =>
      if x.st == .retiring && x.inflight == 0 then
        endRetires x.retires (freeVersion table.toNat version.toNat s)
      else s)

/-! ### The fold (R66, R118) -/

/-- Overlay entries of versions up to the base: the rows still to fold. -/
def Table.toFold (tb : Table) : List Delta := tb.delta.filter fun d => decide (d.version ≤ tb.baseNum)

/-- Whether a newer entry up to the base holds the same row. -/
def Table.overtaken (tb : Table) (d : Delta) : Bool :=
  tb.toFold.any fun e => e.row == d.row && decide (e.version > d.version)

/-- Slice through which the rows of a table's training line pass: in the partition of its TRAIN_CTX. -/
def foldSlice (s : State) (t row : Nat) : Nat := trainSlice s t row

/-- The check of the copies of a folded row on every slice (R55, R141). -/
def checkFold (t : Nat) (d : Delta) (s : State) : State :=
  (Sparse.keys s.slices).foldl (fun u sl => (checkCopies everyTile none sl t d.row d.version 8 u).1) s

/-- A copy of the row of a version in any slice. -/
def anyCopy (s : State) (t row ver : Nat) : Option (List Byte) :=
  s.slices.findSome? fun e => ((findSpot s e.2 t row ver).bind (copyAt e.2)).map (·.bytes)

/-- Content of the row of an overlay entry: a cached copy (R118), else its delta slot, of which some tiles fail on the way, with what that read
found. -/
def foldContent (t : Nat) (d : Delta) (ecc : List EccFinding) (s : State) : State × Option (List Byte) :=
  match anyCopy s t d.row d.version with
  | some bs => (s, some bs)
  | none =>
    let p := (table s t).slotPlace d.slot
    (noteReads [] (table s t).desc p ecc s,
      match readAt s everyTile t d.row p (eccFails ecc) with
      | .ok bs => some bs
      | _ => none)

/-- Whether the home write of a row's fold waits or is in flight. -/
def foldWaits (s : State) (t row : Nat) : Bool :=
  s.slices.any fun e => (e.2.cullet ++ e.2.hold).any fun x => x.home && !x.dropped && x.copy.table == t && x.copy.row == row

/-- The home of a folded row holds it: dirty copies of the same content are clean, and its overlay entry is gone (R66, R118). -/
def foldHome (e : Cull) (s : State) : State := homeWritten e (mapSlices (cleaned e) (writeTier e.place e.copy.bytes s))

/-- Folds one overlay entry into the base: to DRAM at once, else by a write that completes later, until which the slot serves the row.
The flag tells whether it was folded. DESIGN CHOICE: a row that cannot be read, or whose home cannot be reached, stays in its slot
(log entry 84). -/
def foldEntry (t : Nat) (d : Delta) (ecc : List EccFinding) (s : State) : State × Bool :=
  if (table s t).overtaken d then (dropDelta t d s, true)
  else
    let x := foldContent t d ecc (checkFold t d s)
    match x.2 with
    | none => (x.1, false)
    | some bs =>
      let e : Cull := { copy := { table := t, row := d.row, lo := d.version, bytes := bs }, home := true, snooped := false }
      match homeTarget x.1 t d.row with
      | .place p =>
        if (p.tier = 1 ∨ p.tier = 2) ∧ !foldWaits x.1 t d.row then
          if reach x.1 p bs.length = .ok then (foldHome { e with issued := true, place := p } x.1, true) else (x.1, false)
        else (sendDown (foldSlice x.1 t d.row) e x.1, true)
      | .hold => (sendDown (foldSlice x.1 t d.row) e x.1, true)

/-- Whether the home write of an overlay entry is on its way. -/
def foldSent (s : State) (t : Nat) (d : Delta) : Bool :=
  s.slices.any fun e => (e.2.cullet ++ e.2.hold).any fun x => x.home && !x.dropped && x.copy.isId t d.row d.version

/-- Folds the first overlay entry that can be folded now. -/
def foldFirst (t : Nat) : List EccFinding → List Delta → State → State
  | _, [], s => s
  | ecc, d :: rest, s =>
    if foldSent s t d && !(table s t).overtaken d then foldFirst t ecc rest s
    else
      let x := foldEntry t d ecc s
      let y := orStall (engineWork 2, t, d.row) s x.1
      if x.2 && y.2 then y.1 else foldFirst t [] rest y.1

/-- FOLD (R66, R118): one row of the delta that the base has reached is written to its home, and its slot is free once the home holds
it. -/
def execFold (row : FoldRead) (s : State) : Host.Outcome State Fault Refusal :=
  done s (foldFirst row.table.toNat row.ecc (table s row.table.toNat).toFold s)

/-! ### TABLE_LOAD and TABLE_SAVE (R68, R69) -/

/-- Whether the command transfers matrix B. -/
def movesB (c : Cmd) : Bool := Pkt.addrC c.words == 0xFFFFFFFFFFFFFFFF

/-- Whether a row has storage on this chip. -/
def localRow (tb : Table) (row : Nat) : Bool :=
  match tb.shard? row with
  | some h => decide (1 ≤ h.tier) && decide (h.tier ≤ 4)
  | none => false

/-- Older writes of a row that wait are no longer read: a newer one follows them. -/
def unsnoop (sl t row : Nat) (s : State) : State :=
  let off := fun (e : Cull) => if e.copy.table == t && e.copy.row == row then { e with snooped := false } else e
  let v := slice s sl
  setSlice sl { v with cullet := v.cullet.map off, hold := v.hold.map off } s

/-- Whether a write of a row waits or is in flight in a slice. -/
def rowWrites (v : Slice) (t row : Nat) : Bool := (v.cullet ++ v.hold).any fun e => e.copy.table == t && e.copy.row == row

/-- Writes one loaded row to its home: to DRAM at once, else through the cullet buffer or the hold area of its slice (R68, R177). -/
def loadHome (c : Cmd) (row : Nat) (bs : List Byte) (s : State) : State :=
  let t := Pkt.table c.words
  let sl := cmdSlice s c row
  let send := fun (u : State) => sendDown sl { copy := { table := t, row := row, bytes := bs } } (unsnoop sl t row u)
  match homeTarget s t row with
  | .hold => send s
  | .place p =>
    match reach s p bs.length with
    | .ok => if (p.tier = 1 ∨ p.tier = 2) ∧ !rowWrites (slice s sl) t row then writeTier p bs s else send s
    | bad => reachCmd c bad s

/-- Loads one row; a row of another chip, or of none, is skipped, and nothing of it is read (R68, R299). -/
def loadRow (c : Cmd) (i : Nat) (s : State) : State :=
  let t := Pkt.table c.words
  let n := (table s t).desc.stride
  let a := Pkt.addrA c.words + i * n
  let row := Pkt.addrC c.words + i
  if !localRow (table s t) row then s
  else match readArray s c a n (.packet 11) with
  | .error v => finish c.id v s
  | .ok bs => loadHome c row bs (progress c.id (noteRead c.id a (addInputs c.id bs s)))

/-- Loads rows in order, until one waits for room; it stops at the first that cannot be read or written. -/
def loadRows (id : Nat) : List Nat → State → State
  | [], s => finish id okVerdict s
  | i :: rest, s =>
    match cmd? s id with
    | none => s
    | some c =>
      let x := orStall (id, Pkt.table c.words, Pkt.addrC c.words + i) s (loadRow c i (setRows id { rowsOf c with rows := rest } s))
      if !x.2 || ((cmd? x.1 id).map (·.phase)) == some .done then x.1 else loadRows id rest x.1

/-- Loads the matrix B of a LOADING version. -/
def loadB (c : Cmd) (s : State) : State :=
  let t := Pkt.table c.words
  let d := (table s t).desc
  match readArray s c (Pkt.addrA c.words) d.bBytes (.packet 11) with
  | .error v => finish c.id v s
  | .ok bs =>
    finish c.id okVerdict (noteRead c.id (Pkt.addrA c.words) (addInputs c.id bs
      (setTable t ((table s t).modVersion (Pkt.w9 c.words) fun x => { x with b := bMatOf d bs }) s)))

/-- Whether a TABLE_LOAD waits for a publish of its version that was admitted before it (R63). -/
def loadHeld (s : State) (c : Cmd) : Bool :=
  s.cmds.any fun d => d.op == 0x12 && decide (d.id < c.id) && Pkt.table d.words == Pkt.table c.words
    && Pkt.w9 d.words == Pkt.w9 c.words && !(d.phase == .done)

/-- TABLE_LOAD. -/
def tableLoad (c : Cmd) (s : State) : State :=
  let t := Pkt.table c.words
  let v := Pkt.w9 c.words
  if loadHeld s c then s
  else if (table s t).stateCode v ≠ 1 then finish c.id (.versionState, t, (table s t).stateCode v) s
  else if movesB c then loadB c s
  else if (rowsOf c).intake then loadRows c.id (rowsOf c).rows s
  else
    let rows := List.range (wordAt c.words 10)
    loadRows c.id rows (setRows c.id { rows := rows, intake := true } s)

/-- TABLE_LOAD (R68). -/
def execTableLoad (cmd : Nat) (s : State) : Host.Outcome State Fault Refusal := done s (onIssued cmd 0x14 s tableLoad)

/-- Writes bytes a command saves, inside its windows. -/
def saveBytes (c : Cmd) (a : Nat) (bs : List Byte) (s : State) : Option State :=
  if windowAllows s c.ctx a bs.length true then
    some (noteWrite c.id a bs.length (writeMem (spaceOf s c.ctx) a bs s))
  else none

/-- Saves the rows that have been read, in order, until one has still to come; it stops at the first that fails. -/
def saveRows (id : Nat) : List Nat → State → State
  | [], s => finish id okVerdict (setRows id { intake := true } s)
  | row :: rest, s =>
    match cmd? s id with
    | none => s
    | some c =>
      let t := Pkt.table c.words
      let a := Pkt.addrA c.words + (row - Pkt.addrC c.words) * (table s t).desc.stride
      match gotOf c row with
      | none => setRows id { rowsOf c with rows := row :: rest } s
      | some ⟨_, none⟩ => corruptCmd c (cmdSlice s c row) t row s
      | some ⟨_, some bs⟩ =>
        match saveBytes c a bs s with
        | none => finish id (.xlateFault, 0xFFFFFFFE, siteDetail (.packet 11)) s
        | some u => saveRows id rest (modCmd id (fun d => { d with got := d.got.filter fun g => g.row != row }) u)

/-- The rows that a TABLE_SAVE writes. DESIGN CHOICE: a row whose shard is REMOTE or NONE has no content here, and its place at
DST_ADDR is left as it is; R68 says so of TABLE_LOAD (log entry 81). -/
def savedRows (s : State) (c : Cmd) : List Nat :=
  ((List.range (wordAt c.words 10)).map (Pkt.addrC c.words + ·)).filter (localRow (table s (Pkt.table c.words)))

/-- Goes on with a TABLE_SAVE: asks for the rows left, and saves those that have come. -/
def saveRun (id : Nat) (s : State) : State :=
  match cmd? s id with
  | none => s
  | some c =>
    let r : Reading := { uses := everyTile, fill := false, table := Pkt.table c.words, ver := Pkt.w9 c.words, sliceOf := cmdSlice s c }
    let t := wantRows id r (rowsOf c).rows s
    if ((cmd? t id).map (·.phase)) == some .running then saveRows id (rowsOf c).rows t else t

/-- TABLE_SAVE. -/
def tableSave (c : Cmd) (s : State) : State :=
  let t := Pkt.table c.words
  let v := Pkt.w9 c.words
  if c.snaps.isEmpty then finish c.id (.versionState, t, (table s t).stateCode v) s
  else if movesB c then
    match saveBytes c (Pkt.addrA c.words)
        (bMatBytes (table s t).desc ((((table s t).version? v).map (·.b)).getD {})) s with
    | none => finish c.id (.xlateFault, 0xFFFFFFFE, siteDetail (.packet 11)) s
    | some u => finish c.id okVerdict u
  else saveRun c.id (if (rowsOf c).intake then s else setRows c.id { rows := savedRows s c, intake := true } s)

/-- TABLE_SAVE (R68, R69): every tile is checked. -/
def execTableSave (cmd : Nat) (s : State) : Host.Outcome State Fault Refusal := done s (onIssued cmd 0x15 s tableSave)

end Sys2Proof.Machine
end

