-- ==== Sys2Proof/Machine/Lanes.lean ====
section
/-! DEFINITION. The interaction lanes forward and the tower port outward (R104, R105, R233, R235 to R237, R371). -/

namespace Sys2Proof.Machine

/-! ### A sample's interaction (R235, R236, R238) -/

/-- Function slot of a context (R239). -/
def fnSlot (s : State) (c : Nat) : Nat := rd Reg.FN_CTX_SLOT_SLOT c s

/-- Inputs of a sample, from its dense codes and its vectors in FP32: each takes the values of OUT_FMT (R235). -/
def inputsOf (fmt : Nat) (dense : List Nat) (ys : List (List F32)) : List (List F32) :=
  dense.map (toF32 fmt) :: ys.map fun y => y.map fun v => toF32 fmt (ofF32 fmt v)

/-- z of a sample of a CASCADE. -/
def sampleZ (c : Cmd) (f : Fwd) (b : Nat) : List F32 :=
  interaction (inputsOf (Pkt.outFmt c.words) (f.dense.getD b []) (sampleVecs f b))

/-- The outputs of a sample: fn of each pair value when FN is 1. -/
def sampleOut (s : State) (c : Cmd) (z : List F32) : List F32 :=
  if Pkt.fn c.words then z.map (fnEval s (fnSlot s c.ctx) 0) else z

/-- Adds the results of one sample to a CASCADE. -/
def addSample (s : State) (c : Cmd) (f : Fwd) (b : Nat) : Fwd :=
  let z := sampleZ c f b
  { f with
    z := f.z ++ [(b, z)]
    todo := f.todo.filter (· != b)
    frames := f.frames ++ [{ kind := 1, feature := 0, index := b, payload := outBytes (Pkt.outFmt c.words) (sampleOut s c z) }] }

/-- Samples of a CASCADE ready on a logical slice: the first 256 in ascending order (R237). -/
def blockOf (s : State) (c : Cmd) (f : Fwd) (sl : Nat) : List Nat := (f.todo.filter fun b => asmSlice s c.ctx b == sl).take 256

/-- Computes one block of a CASCADE; the last block closes the command's own work. -/
def runBlock (c : Cmd) (sl : Nat) (s : State) : State :=
  let f := fwdOf c
  match blockOf s c f sl with
  | [] => s
  | bs => closeDone c.id (progress c.id (setFwd c.id (bs.foldl (addSample s c) f) s))

/-- LANE_BLOCK_ISSUE (R236, R237): a slice computes up to 256 ready samples of a CASCADE. -/
def execLaneBlockIssue (slice : BitVec 4) (cmd : Nat) (s : State) : Host.Outcome State Fault Refusal :=
  done s (match cmd? s cmd with
    | none => s
    | some c => if c.phase == .running && interacts c then runBlock c slice.toNat s else s)

/-- TXB_PARITY_FAIL (R233, R304): the slice's operands go through column read from here on. -/
def execTxbParityFail (slice : BitVec 5) (s : State) : Host.Outcome State Fault Refusal :=
  done s (
    let sl := slice.toNat
    let v := Machine.slice s sl
    let u := unitId 4 sl
    if decide (sl < 17) && rdb Reg.LANE_CTRL_TXB_EN 0 s && !v.txbFail then
      logErr 0x0050 7 none u 1 (setUnit u { unit s u with st := .offline } (setSlice sl { v with txbFail := true } s))
    else s)

/-! ### The tower port (R104, R105, R371) -/

/-- Channel of a frame of a command: its assembling slice within the partition. -/
def frameChannel (s : State) (c : Cmd) (fr : TFrame) : Nat := fr.index % leavesOf s c.ctx

/-- Bytes of a frame of a command. -/
def dataFrame (c : Cmd) (fr : TFrame) : List Byte :=
  frameBytes (Pkt.towerSlot c.words) fr.kind (Pkt.outFmt c.words) fr.feature fr.index fr.payload.length (Pkt.tag c.words) 0
    fr.payload

/-- Notes whether a channel accepts. -/
def holdChannel (ch : Nat) (s : State) : State :=
  if ch ∈ s.tower.held then s else { s with tower := { s.tower with held := s.tower.held ++ [ch] } }

/-- Sends frame `n` of a forward command. -/
def sendFrame (c : Cmd) (f : Fwd) (n : Nat) (fr : TFrame) (s : State) : State :=
  progress c.id (send (.frame (frameChannel s c fr) (dataFrame c fr))
    (setFwd c.id { f with frames := setAt f.frames n { fr with sent := true } } s))

/-- TOWER_FRAME_SEND (R104, R105, R371): frame `n` of a forward command leaves; the number after the last is the END frame,
which leaves last. A frame the port does not accept stays, and its channel is held. -/
def execTowerFrameSend (cmd : Nat) (n : Nat) (ready : Bool) (s : State) : Host.Outcome State Fault Refusal :=
  done s (match cmd? s cmd with
    | none => s
    | some c =>
      let f := fwdOf c
      if !usesTower c || f.endSent || !(c.phase == .running || c.phase == .done) then s
      else match f.frames[n]? with
        | some fr =>
          if fr.sent || (c.phase == .done && c.status != .ok) || (ctx s c.ctx).st == .resetting
              || decide (frameChannel s c fr ∈ s.tower.held) then s
          else if ready then sendFrame c f n fr s
          else holdChannel (frameChannel s c fr) s
        | none =>
          let last := n == f.frames.length && c.phase == .done && (c.status != .ok || f.frames.all (·.sent))
          if !last || decide (endChannel c ∈ s.tower.held) then s
          else if ready then
            send (.frame (endChannel c) (endFrame c c.status)) (setFwd c.id { f with endSent := true } s)
          else holdChannel (endChannel c) s)

/-- TOWER_ACCEPT_RESUME (R105): a channel accepts again; the END frames that waited for it leave. -/
def execTowerAcceptResume (channel : BitVec 4) (s : State) : Host.Outcome State Fault Refusal :=
  done s (
    let ch := channel.toNat
    let mine := s.tower.ends.filter fun e => e.1 == ch
    { s with
      tower := { held := s.tower.held.filter (· != ch), ends := s.tower.ends.filter fun e => e.1 != ch }
      sent := (mine.reverse.map fun e => Out.frame e.1 e.2) ++ s.sent })

end Sys2Proof.Machine
end

