-- ==== Sys2Proof/Machine/Backward.lean ====
section
/-! DEFINITION. SCATTER_GRAD: its forward command, inbound gradient frames, terms, slots and pushes, and the interaction backward
(R35, R67, R200 to R211, R219, R221, R224 to R226, R241 to R247, R372, R409). -/

namespace Sys2Proof.Machine

/-! ### Gradients -/

/-- A gradient vector: the format and exponent of its elements, and their codes. -/
structure Grad where
  /-- format, as ACT_FMT -/
  fmt : Nat
  /-- exponent E -/
  exp : Int
  /-- element codes -/
  codes : List Nat
  deriving DecidableEq, Repr

/-- x × 2^(−e). -/
def scaleNum (x : Num) (e : Int) : Num :=
  match x with
  | .fin n m k => .fin n m (k - e)
  | y => y

/-- The exact values of a gradient's elements (R201). -/
def Grad.nums (g : Grad) : List Num := g.codes.map fun k => scaleNum ((fmtOf g.fmt).decode k) g.exp

/-- A gradient of FP32 words. -/
def Grad.words (x : List F32) : Grad := ⟨0, 0, x.map (·.toNat)⟩

/-- The FP32 values of a gradient's elements, each rounded once. -/
def Grad.round (g : Grad) : List F32 := g.nums.map round32

/-- The term of a use at bag position `pos` of a bag with `n` kept uses (R204). -/
def Grad.term (pool n pos : Nat) (w : Word) (am : List (Option Nat)) (g : Grad) : Grad :=
  match pool with
  | 1 => Grad.words (g.nums.map fun x => divNat x n)
  | 2 => Grad.words (g.nums.map fun x => round32 (x.mul (F32.num w)))
  | 3 => { g with codes := g.codes.zipIdx.map fun e => if am.getD e.2 none = some pos then e.1 else 0 }
  | _ => g

/-- The largest finite magnitude of gradients, as FP32 rounded toward +∞ (R219). -/
def amaxOf (gs : List Grad) : Word :=
  BitVec.ofNat 32 (maxOf (gs.flatMap fun g => (g.nums.filter Num.isFinite).map fun x => Fmt.fp32.roundUp x.abs))

/-- Non-finite elements of gradients. -/
def nonfiniteOf (gs : List Grad) : Nat := sumOf (gs.map fun g => (g.nums.filter fun x => !x.isFinite).length)

/-! ### The forward command of a SCATTER_GRAD (R35, R202, R241, R247, R409) -/

/-- What a SCATTER_GRAD keeps. -/
def scatterOf (c : Cmd) : Scatter :=
  match c.work with
  | .scatter g => g
  | _ => { feature := 0, e := 0 }

/-- Modifies what a SCATTER_GRAD keeps. -/
def modScatter (id : Nat) (f : Scatter → Scatter) (s : State) : State :=
  modCmd id (fun c => match c.work with
    | .scatter g => { c with work := .scatter (f g) }
    | _ => c) s

/-- NORM of a record's forward command. -/
def LehrRec.norm (r : LehrRec) : Nat := if r.cascade then field (wordAt r.params 0) 7 6 else 0
/-- FN of a record's forward command. -/
def LehrRec.fn (r : LehrRec) : Bool := r.cascade && bit (wordAt r.params 0) 9
/-- OUT_FMT of a record's forward command. -/
def LehrRec.outFmt (r : LehrRec) : Nat := if r.cascade then field (wordAt r.params 0) 13 10 else field (wordAt r.params 0) 19 16
/-- BAGS or SAMPLES of a record's forward command. -/
def LehrRec.count (r : LehrRec) : Nat := field (wordAt r.params 1) 19 0
/-- DENSE_ADDR of a record's forward command. -/
def LehrRec.denseAddr (r : LehrRec) : Nat := addr64 r.params 5
/-- ROW_LEN of a record's features. -/
def LehrRec.rowLen (r : LehrRec) : Nat := (r.feats.head?.map (·.rowLen)).getD 0

/-- Whether a forward command that a SCATTER_GRAD names is in flight. -/
def fwdInFlight (s : State) (c : Cmd) : Bool :=
  s.cmds.any fun d => (d.op == 1 || d.op == 2) && d.ctx == c.ctx && Pkt.tag d.words == Pkt.fwdTag c.words
    && Pkt.step d.words == Pkt.step c.words

/-- ST_BAD_FIELD for a SCATTER_GRAD without its forward feature. -/
def badTag : Verdict := (.badField, fieldPos 10 0 0, 0)

/-- ST_BAD_FIELD for missing interaction records. -/
def badInter : Verdict := (.badField, fieldPos 10 16 0, 0)

/-- Offences of an interaction SCATTER_GRAD (R241). -/
def interOffences (c : Cmd) (r : LehrRec) : List Offence :=
  offend (!r.interacts) 10 16 ++ offend (!r.feats.any fun f => f.table == Pkt.table c.words) 8 0
  ++ offend (Pkt.bags c.words != r.count) 9 0 ++ offend (Pkt.gradSel c.words) 8 12
  ++ offend (Pkt.addrA c.words % 64 != 0) 11 0

/-- Offences of any other SCATTER_GRAD (R247, R409). -/
def featOffences (c : Cmd) (r : LehrRec) (f : Feat) : List Offence :=
  offend (f.table != Pkt.table c.words) 8 0 ++ offend (Pkt.bags c.words != r.count) 9 0
  ++ offend (r.interacts && Pkt.gradSel c.words) 8 12 ++ offend (r.interacts && Pkt.addrA c.words != 0) 11 0

/-- Ties a SCATTER_GRAD to its forward command. -/
def bindTo (c : Cmd) (r : LehrRec) (s : State) : State :=
  modScatter c.id (fun g => { g with fwd := some r.cmd, slot := r.slot, bags := r.count, frames := takesFrames c r }) s

/-- The checks of a SCATTER_GRAD against its forward command, in the state in which they are made: the state tied to the
forward command, and a verdict where one fails. A failure of R409 leaves the frames to be drained. -/
def bindScatter (c : Cmd) (r : LehrRec) (s : State) : State × Option Verdict :=
  let bad := fun (o : Offence) => some (St.badField, fieldPos o.1 o.2 0, 0)
  if Pkt.feature c.words = 63 then
    match lowestOffence (interOffences c r) with
    | some o => (s, bad o)
    | none => if namedTwice s c then (s, some badTag) else if !r.inter then (s, some badInter) else (bindTo c r s, none)
  else
    match r.feats[Pkt.feature c.words]? with
    | none => (s, some badTag)
    | some f =>
      if namedTwice s c then (s, some badTag)
      else match lowestOffence (featOffences c r f) with
        | some o => (bindTo c r s, bad o)
        | none => if f.released then (s, some (if r.interacts then badInter else badTag)) else (bindTo c r s, none)

/-! ### Uses -/

/-- A kept use: its bag, bag position, index among the uses, row and home slice of R60. -/
structure Kept where
  /-- bag -/
  bag : Nat
  /-- position -/
  pos : Nat
  /-- index -/
  idx : Nat
  /-- row -/
  row : Nat
  /-- slice -/
  slice : Nat

/-- The kept uses of bag `b` of a feature. -/
def keptIn (g : Feat) (b : Nat) : List Kept :=
  let lo := g.offs.getD b 0
  ((g.uses.drop lo).take (g.offs.getD (b + 1) 0 - lo)).zipIdx.filterMap fun e =>
    if e.1.reason.isNone then some ⟨b, e.2, lo + e.2, e.1.row, e.1.slice⟩ else none

/-- The kept uses of a feature with `n` bags, in array order. -/
def keptUses (g : Feat) (n : Nat) : List Kept := (List.range n).flatMap (keptIn g)

/-- Whether the row of a use is of this chip. -/
def isLocal (s : State) (t : Nat) (u : Kept) : Bool := (remoteChip s t u.row).isNone

/-! ### Space (R67, R207, R208) -/

/-- Tiles of a slot of `n` elements. -/
def slotTiles (n fmt : Nat) : Nat := ceilDiv (n * (fmtOf fmt).bits) 512

/-- Tiles of a slice's slot area. -/
def slotArea : Nat := 130048

/-- Tiles of the slot area of a slice in use: its slots, and its directory entries, four to a tile. -/
def confUsed (s : State) (v : Slice) : Nat :=
  sumOf (v.slots.map fun x => slotTiles (table s x.table).desc.rowLen x.fmt)
    + ceilDiv (dedup (v.slots.map fun x => (x.table, x.row))).length 4

/-- Rows among `rows` that would take a delta slot of the working version not yet theirs. -/
def newDeltaRows (tb : Table) (rows : List Nat) : List Nat :=
  let w := ((tb.working).map (·.num)).getD 0
  (dedup rows).filter fun r => (tb.slotOf w r).isNone && !tb.resv.any fun x => x.row == r

/-- Reserves delta slots for rows under a holder's number; where too few are free, the slots that lack. -/
def reserveDelta (id t : Nat) (rows : List Nat) (s : State) : Except Nat State :=
  let tb := table s t
  if !tb.pooled then .ok s
  else
    let new := newDeltaRows tb rows
    if new.length > freeSlots s t then .error (new.length - freeSlots s t)
    else
      let hold := fun (x : Resv) => if x.row ∈ rows then { x with holders := x.holders ++ [id] } else x
      .ok (setTable t { tb with resv := tb.resv.map hold
        ++ (List.zip new (pickSlots tb new.length)).map fun e => { row := e.1, slot := e.2, holders := [id] } } s)

/-- Adds a slot to a physical slice. -/
def addSlot (sl : Nat) (x : Slot) (s : State) : State := setSlice sl { slice s sl with slots := (slice s sl).slots ++ [x] } s

/-- Tiles that slices lack once slots are added: physical slice and tiles. -/
def slotShort (s : State) (sls : List Nat) : List (Nat × Nat) :=
  (dedup sls).filterMap fun sl =>
    let n := confUsed s (slice s sl)
    if n > slotArea then some (sl, n - slotArea) else none

/-- Format of the slots of a feature (R207). -/
def slotFmt (s : State) (r : LehrRec) (f : Feat) : Nat :=
  if (f.pool = 0 ∨ f.pool = 3) ∧ r.norm = 0 ∧ !r.interacts then (table s f.table).desc.actFmt else 0

/-- Reserves the delta slots and the slot tiles of a feature's local uses, or ends the command with ST_NO_SPACE. -/
def reserveSlots (c : Cmd) (r : LehrRec) (f : Feat) (s : State) : State × Bool :=
  let t := f.table
  let us := (keptUses f r.count).filter (isLocal s t)
  match reserveDelta c.id t (us.map (·.row)) s with
  | .error n => (finish c.id (.noSpace, 0x10, ceilDiv (n * (table s t).desc.stride) 1024) s, false)
  | .ok u =>
    let fmt := slotFmt s r f
    let mk := fun (k : Kept) =>
      ({ table := t, row := k.row, step := Pkt.step c.words, owner := .chip c.id, prov := true, fmt := fmt,
         exp := if fmt = 0 then 0 else (scatterOf c).e, use := k.idx, codes := [] } : Slot)
    let v := us.foldl (fun x k => addSlot (homeSlice s c.ctx k.slice) (mk k) x) u
    match slotShort v (us.map fun k => homeSlice s c.ctx k.slice) with
    | [] => (v, true)
    | l => (l.foldl (fun x e => bump Reg.CONF_NOSPACE_CNT_COUNT e.1 1 x)
        (finish c.id (.noSpace, 0x40, ceilDiv (maxOf (l.map (·.2)) * 64) 1024) s), false)

/-- The g records of a sample; those of feature f are numbered 64 + f among the records. -/
def gItems (r : LehrRec) : List Item :=
  r.feats.zipIdx.filterMap fun e => if e.1.trained then some (64 + e.2, List.replicate (4 * r.rowLen) 0#8) else none

/-- Reserves the space of the g records of samples (R245): the state, and the largest shortfall of a slice in bytes. -/
def reserveG (c : Cmd) (r : LehrRec) (bags : List Nat) (s : State) : State × Nat :=
  bags.foldl (fun (acc : State × Nat) b =>
    let sl := asmSlice s c.ctx b
    match placeItems r.cmd c.ctx sl (gItems r) acc.1 with
    | some t => (t, acc.2)
    | none =>
      let mine := (bags.filter fun x => asmSlice s c.ctx x == sl).length * itemBytes (gItems r)
      (acc.1, max acc.2 (mine - min mine (lehrFree s sl)))) (s, 0)

/-- Bags of a record marked RECOMPUTE. -/
def LehrRec.marked (r : LehrRec) : List Nat := (List.range r.count).filter fun b => (r.bags.getD b {}).recompute

/-! ### Spilled records (R224) -/

/-- Whether a SCATTER_GRAD of a feature reads the records with a number: its own, and for the interaction those of every sample, with
the index lists where a sample is gathered again and the statistics under a normaliser (R224, R244, R245). -/
def readsRecord (r : LehrRec) (feat n : Nat) : Bool :=
  if feat = 63 then n == 63 || (decide (n < 63) && (r.norm != 0 || !r.marked.isEmpty))
  else n == feat || n == 64 + feat

/-- The first tile of the records of a feature that cannot be had: its slice and number, and how it fails. -/
def spillBad (s : State) (r : LehrRec) (feat : Nat) : Option (Spilled × Reach) :=
  r.spill.findSome? fun e =>
    if !readsRecord r feat e.feature then none
    else
      let p : Place := ⟨1, 0, spillAddr s r.ctx e.tile⟩
      match reach s p 64 with
      | .ok =>
        let bs := readTier s p 64
        let lies := match dramKey s 1 p.addr with | some k => poisoned s.tiers.poison k | none => true
        if lies || tileCheck bs e.tile 0 != e.crc then some (e, .ok) else none
      | x => some (e, x)

/-- Ends a SCATTER_GRAD whose spilled record cannot be had. -/
def spillFail (c : Cmd) (e : Spilled × Reach) (s : State) : State :=
  match e.2 with
  | .ok => finish c.id (.dataCorrupt, Pkt.table c.words, 0xFFFFFFFF)
      (logErr 0x0011 0 (some c.ctx) (unitId 1 (physSlice s e.1.slice)) e.1.tile s)
  | x => reachCmd c x s

/-! ### Rows gathered again (R205, R226, R245) -/

/-- Bags of a feature whose rows a SCATTER_GRAD gathers again: every bag with a kept use under a normaliser without
interaction, else those marked RECOMPUTE whose argmax it needs; of the interaction, every sample marked. -/
def againBags (r : LehrRec) (feat : Nat) : List Nat :=
  if feat = 63 then r.marked
  else
    let f := r.feats.getD feat noFeat
    let bs := if r.norm = 0 ∨ r.interacts then (if f.pool = 3 then r.marked else []) else List.range r.count
    bs.filter fun b => !(keptIn f b).isEmpty

/-- The version gathered again: that of the command's snapshot; without one the training line of a trained feature, else the forward
command's version (R70). -/
def againVer (s : State) (c : Cmd) (f : Feat) : Nat :=
  match c.snaps.find? fun n => n.table == f.table with
  | some n => n.version
  | none => if f.trained then ((table s f.table).working.map (·.num)).getD f.version else f.version

/-- A feature with the uses of the bags `bs` alone. -/
def onlyBags (bs : List Nat) (f : Feat) : Feat :=
  let inBags := fun (i : Nat) => bs.any fun b => decide (f.offs.getD b 0 ≤ i) && decide (i < f.offs.getD (b + 1) 0)
  { f with uses := f.uses.zipIdx.map fun e => if inBags e.2 then e.1 else { e.1 with reason := some 0 } }

/-- The features a SCATTER_GRAD gathers again. -/
def againFeats (s : State) (c : Cmd) (r : LehrRec) : List Feat :=
  let feat := Pkt.feature c.words
  r.feats.zipIdx.map fun e =>
    let f := { e.1 with version := againVer s c e.1 }
    if feat = 63 ∨ e.2 = feat then onlyBags (againBags r feat) f else onlyBags [] f

/-- What a SCATTER_GRAD gathers again: its features and unique rows. -/
def againWork (s : State) (c : Cmd) (r : LehrRec) : Fwd :=
  let n := leavesOf s c.ctx
  let fs := againFeats s c r
  let us := uniqueRows (sortedUses n fs)
  { feats := fs.map (numberUses n us), rows := rowVals s us, intake := true, reading := true }

/-- Sets up the rows a SCATTER_GRAD gathers again. -/
def beginAgain (c : Cmd) (r : LehrRec) (s : State) : State :=
  if (againBags r (Pkt.feature c.words)).isEmpty then s else setFwd c.id (againWork s c r) s

/-- Asks for the rows that a SCATTER_GRAD gathers again and has not asked for yet. -/
def askAgain (id : Nat) (s : State) : State :=
  match cmd? s id with
  | none => s
  | some c => if c.phase == .running && (fwdOf c).rows.any (fun r => !r.asked) then askRows id s else s

/-- Whether every row that a SCATTER_GRAD gathers again has come. -/
def againDone (s : State) (c : Cmd) : Bool :=
  (fwdOf c).rows.all (·.done) && !(s.partials.any fun p => p.cmd == c.id) && !(s.remote.lookups.any fun l => l.cmd == c.id)

/-- A row of this chip that a SCATTER_GRAD gathers again and whose tiles fail now, with no other copy to stand for it. -/
def againBad (s : State) (c : Cmd) (r : LehrRec) : Option (Nat × Nat) :=
  let f := againWork s c r
  let fails := fun (t row : Nat) =>
    match rowTiles s t (verOf f t) row with
    | .error _ => false
    | .ok (bs, bad) =>
      bad.any (table s t).desc.pools
        && (otherCopy s (table s t).desc.pools t row (rowPlace s t (verOf f t) row) bs).isNone
  if (againBags r (Pkt.feature c.words)).isEmpty then none
  else (f.rows.find? fun x => x.via != .remote && fails x.table x.row).map fun x => (x.table, x.row)

/-- A bag gathered again: its pooled vector, argmax, normalised vector and statistics. -/
def againBag (s : State) (c : Cmd) (r : LehrRec) (f : Fwd) (i b : Nat) : List F32 × List (Option Nat) × List F32 × F32 × F32 :=
  let g := f.feats.getD i noFeat
  let p := poolBag f (leavesOf s c.ctx) i b g
  let y := normalise r.norm (normEps s) p.1
  (p.1, p.2, y.1, y.2.1, y.2.2)

/-! ### Gradients of a command -/

/-- Whether every inbound frame has been taken. -/
def allTaken (g : Scatter) : Bool := (List.range g.bags).all fun b => g.taken.any fun e => e.1 == b

/-- EXP byte and payload of each INDEX in order (R299). -/
def takenInputs (g : Scatter) : List Byte :=
  (List.range g.bags).flatMap fun b =>
    match g.taken.find? (fun e => e.1 == b) with
    | some e => e.2.1 :: e.2.2
    | none => []

/-- The gradients of a command that takes frames, from its payloads. -/
def takenGrads (s : State) (c : Cmd) (g : Scatter) (n : Nat) : List Grad :=
  let fmt := (table s (Pkt.table c.words)).desc.actFmt
  (List.range g.bags).map fun b =>
    ⟨fmt, g.e, codesOf (fmtBytes fmt) n (((g.taken.find? fun e => e.1 == b).map (·.2.2)).getD [])⟩

/-- The payloads a GRAD_SEL 1 command reads (R203). -/
def memoryGrads (s : State) (c : Cmd) (g : Scatter) (n : Nat) : Except Verdict (List Byte) :=
  readArray s c (Pkt.addrA c.words) (g.bags * n * fmtBytes (table s (Pkt.table c.words)).desc.actFmt) (.packet 11)

/-- The frames a GRAD_SEL 1 command would have taken. -/
def memoryTaken (s : State) (c : Cmd) (g : Scatter) (n : Nat) (bs : List Byte) : List (Nat × Byte × List Byte) :=
  let w := n * fmtBytes (table s (Pkt.table c.words)).desc.actFmt
  (List.range g.bags).map fun b => (b, BitVec.ofInt 8 g.e, (bs.drop (b * w)).take w)

/-! ### A feature's gradients before its terms -/

/-- The gradient of each bag of a feature before its terms, and the argmax of each bag (R204, R205). -/
def bagGrads (s : State) (c : Cmd) (r : LehrRec) (f : Fwd) (i : Nat) (gs : List Grad) : List (Grad × List (Option Nat)) :=
  let feat := r.feats.getD i noFeat
  gs.zipIdx.map fun e =>
    let b := e.2
    let rec_ := r.bags.getD b {}
    let x := againBag s c r f i b
    let am := if rec_.recompute then x.2.1 else rec_.argmax.getD i []
    if r.interacts ∨ r.norm = 0 ∨ (keptIn feat b).isEmpty then (e.1, am)
    else
      let st := if rec_.recompute then x.2.2.2 else rec_.stats.getD i (0#32, 0#32)
      let y := renormalise r.norm st.1 st.2 x.1
      (Grad.words (normBack r.norm st.2 y e.1.round), am)

/-- The terms of a feature's uses, by index of the use. -/
def termsOf (f : Feat) (gs : List (Grad × List (Option Nat))) : List (Kept × Grad) :=
  gs.zipIdx.flatMap fun e =>
    let us := keptIn f e.2
    us.map fun u => (u, e.1.1.term f.pool us.length u.pos (f.weights.getD u.idx 0#32) e.1.2)

/-! ### Pushes (R209) -/

/-- One entry of a GRAD_PUSH DATA. -/
def pushEntry (row : Nat) (g : Grad) : List Byte :=
  let d := g.codes.flatMap (toLE (fmtBytes g.fmt))
  toLE 5 row ++ toLE 3 0 ++ d ++ List.replicate ((8 - d.length % 8) % 8) 0#8

/-- Entries in messages of at most 64 KiB with their header. -/
def splitPush : List (List Byte) → List (List Byte) → List (List (List Byte))
  | [], acc => if acc.isEmpty then [] else [acc]
  | e :: es, acc =>
    if 32 + sumOf ((acc ++ [e]).map List.length) > 65536 ∧ !acc.isEmpty then acc :: splitPush es [e]
    else splitPush es (acc ++ [e])

/-- Sends the DATA messages of one home chip. -/
def pushTo (c : Cmd) (t fmt : Nat) (exp : Int) (ts : List (Kept × Grad)) (s : State) (chip : Nat) : State :=
  match rimPort s chip with
  | none =>
    if (cmd? s c.id).any fun d => d.phase == .done then s
    else finish c.id (.hwError, s.errs.head, 0) (logErr 0x0030 0 (some c.ctx) 0 (chip % 2 ^ 12 * 2 ^ 16 + 0xFF * 2 ^ 32) s)
  | some k =>
    match takeReq c.ctx s with
    | none => s
    | some (req, u0) =>
    let u := contactPeer c.ctx chip u0
    let ms := splitPush (ts.map fun e => pushEntry e.1.row e.2) []
    let e8 := (exp % 256).toNat
    let v := ms.zipIdx.foldl (fun x m =>
      send (.message chip k (pushHeader x 0 fmt c.ctx req t m.1.length (Pkt.step c.words) (if fmt = 0 then 0 else e8) m.2 ++ m.1.flatten))
        x) u
    modScatter c.id (fun g => { g with pushes := g.pushes ++
      [{ chip := chip, port := k, req := req, waiting := List.range ms.length, committed := false, acked := false }] }) v

/-- Writes the local slots and sends the pushes of a feature's terms. -/
def writeTerms (c : Cmd) (f : Feat) (fmt : Nat) (exp : Int) (ts : List (Kept × Grad)) (s : State) : State :=
  let fill := fun (x : Slot) =>
    if x.owner = SlotOwner.chip c.id then
      { x with codes := ((ts.find? fun e => e.1.idx == x.use).map fun e => e.2.codes).getD x.codes }
    else x
  let u := mapSlices (fun v => { v with slots := v.slots.map fill }) s
  let n := leavesOf s c.ctx
  let order := (sortedUses n [f]).filterMap fun k => ts.find? fun e => e.1.idx == k.use
  let rem := order.filterMap fun e => (remoteChip s f.table e.1.row).map fun p => (p, e)
  (dedup (rem.map (·.1))).foldl (fun x p =>
    pushTo c f.table fmt exp ((rem.filter fun e => e.1 == p).map (·.2)) x p) u

/-- The reply of a SCATTER_GRAD that succeeds (R221). -/
def scatterOk (g : Scatter) : Verdict := (.ok, g.repooled, g.nonfinite)

/-- A SCATTER_GRAD whose terms are written is done once every COMMIT is acknowledged (R209). -/
def settleScatter (id : Nat) (s : State) : State :=
  match cmd? s id with
  | none => s
  | some c =>
    let g := scatterOf c
    if c.phase != .done && g.written && g.pushes.all (·.acked) then finish id (scatterOk g) s else s

/-! ### A feature's SCATTER_GRAD -/

/-- Notes the maximum, the non-finite elements and the bags pooled again, and marks the slots written. -/
def noteScatter (c : Cmd) (gs : List Grad) (again : Nat) (s : State) : State :=
  modScatter c.id (fun g => { g with amax := amaxOf gs, nonfinite := nonfiniteOf gs, repooled := again, written := true }) s

/-- Home chips of the REMOTE rows that a feature uses. -/
def remoteChips (s : State) (f : Feat) : List Nat :=
  dedup (f.uses.filterMap fun u => if u.reason.isNone then remoteChip s f.table u.row else none)

/-- Forms and writes the terms of a feature from its gradients, once a REQ_ID is free for each home chip (R290). -/
def scatterFeature (c : Cmd) (r : LehrRec) (gs : List Grad) (s : State) : State :=
  let i := Pkt.feature c.words
  match r.feats[i]? with
  | none => s
  | some f =>
    if (freeSeqs c.ctx s).length < (remoteChips s f).length then s
    else
    let fmt := slotFmt s r f
    let exp := if fmt = 0 then 0 else (scatterOf c).e
    let ts := termsOf f (bagGrads s c r (fwdOf c) i gs)
    settleScatter c.id
      (progress c.id (writeTerms c f fmt exp ts (noteScatter c gs (againBags r i).length s)))

/-- The gradients of a feature from the g records (R247); none where a sample lacks one. -/
def recordGrads (r : LehrRec) (i : Nat) : Option (List Grad) :=
  let gs := (List.range r.count).map fun b => ((r.bags.getD b {}).g.getD i none)
  if gs.all Option.isSome then some (gs.map fun x => Grad.words (x.getD [])) else none

/-! ### The interaction SCATTER_GRAD (R241 to R246) -/

/-- What the interaction backward of a sample takes: dense codes, vectors, statistics and z by feature. -/
structure Sample where
  /-- dense codes -/
  dense : List Nat
  /-- vectors -/
  ys : List (List F32)
  /-- statistics -/
  stats : List (F32 × F32)
  /-- pair values -/
  z : List F32
  /-- its dense vector has changed in memory: every gradient of it is undefined -/
  open_ : Bool

/-- The inputs of sample `b`, from its records or gathered again (R245). -/
def sampleOf (s : State) (c : Cmd) (r : LehrRec) (a : Fwd) (b : Nat) : Sample :=
  let k := r.bags.getD b {}
  if k.recompute then
    let n := r.rowLen
    let w := fmtBytes r.outFmt
    let xs := (List.range r.feats.length).map fun i => againBag s c r a i b
    let ys := xs.map fun x => x.2.2.1
    let dense := codesOf w n (readMem s (spaceOf s c.ctx) (r.denseAddr + b * n * w) (n * w))
    { dense := dense, ys := ys, stats := xs.map (fun x => x.2.2.2), z := interaction (inputsOf r.outFmt dense ys),
      open_ := decide (dense ≠ k.dense) }
  else
    { dense := k.dense, ys := k.y, stats := k.stats, open_ := false
      z := if r.fn then k.z else [] }

/-- The gradients of a sample's inputs (R243): du of each input. -/
def sampleBack (s : State) (c : Cmd) (r : LehrRec) (x : Sample) (g : Grad) : List (List F32) :=
  let u := inputsOf r.outFmt x.dense x.ys
  let dz := if r.fn then
      List.zipWith (fun d z => F32.mul d (fnEval s (fnSlot s c.ctx) 1 z)) g.round x.z
    else g.round
  (List.range u.length).map (interBack u dz)

/-- g of each feature of a sample from du (R244). -/
def sampleG (r : LehrRec) (x : Sample) (du : List (List F32)) : List (Option (List Word)) :=
  r.feats.zipIdx.map fun e =>
    if e.1.trained then
      let d := du.getD (e.2 + 1) []
      some (if r.norm = 0 then d else normBack r.norm (x.stats.getD e.2 (0#32, 0#32)).2 (x.ys.getD e.2 []) d)
    else none

/-- The gradients of a sample whose dense vector has changed: free values (R245). -/
def freeVectors (s : State) (r : LehrRec) : List (List F32) :=
  (List.range (r.feats.length + 1)).map fun i =>
    (List.range r.rowLen).map fun j => Config.freeWord (s.freeCtr + i * r.rowLen + j)

/-- Results of one sample: its g records, and its dense gradient at GRAD_ADDR; false where that lies outside the windows. The dense and z
records stay until the command completes (R244, R246). -/
def sampleOutBack (c : Cmd) (r : LehrRec) (a : Fwd) (acc : State × List BagRec × Bool) (e : Grad × Nat) : State × List BagRec × Bool :=
  let (s, bs, ok) := acc
  if !ok then acc
  else
    let x := sampleOf s c r a e.2
    let du := if x.open_ then freeVectors s r else sampleBack s c r x e.1
    let s1 := if x.open_ then useFree ((r.feats.length + 1) * r.rowLen) s else s
    let g := if x.open_ then r.feats.zipIdx.map (fun f => if f.1.trained then some (du.getD (f.2 + 1) []) else none)
      else sampleG r x du
    let addr := Pkt.addrA c.words + e.2 * r.rowLen * 4
    match saveBytes c addr (bytesOf (du.headD [])) s1 with
    | none => (s1, bs, false)
    | some t => (t, bs ++ [{ r.bags.getD e.2 {} with y := [], g := g }], true)

/-- Reads the dense vectors of the samples marked RECOMPUTE again; what the command does instead where one cannot be read (R245). An
unresolved fault names DENSE_ADDR by its word in the CASCADE's packet. -/
def readDenseAgain (c : Cmd) (r : LehrRec) (s : State) : Except State State :=
  let n := r.rowLen * fmtBytes r.outFmt
  r.marked.foldl (fun acc b =>
    match acc with
    | .error t => .error t
    | .ok t =>
      match readLate c t (r.denseAddr + b * n) n (.packet 13) with
      | .error u => .error u
      | .ok _ => .ok (noteRead c.id (r.denseAddr + b * n) t)) (.ok s)

/-- The interaction backward of every sample (R243, R244). -/
def scatterInter (c : Cmd) (r : LehrRec) (gs : List Grad) (s : State) : State :=
  match readDenseAgain c r s with
  | .error t => t
  | .ok t =>
    let out := gs.zipIdx.foldl (sampleOutBack c r (fwdOf c)) (t, [], true)
    if !out.2.2 then finish c.id (.xlateFault, 0xFFFFFFFE, siteDetail (.packet 11)) out.1
    else
      let keep := modLehr r.cmd (fun x => { x with bags := out.2.1, held := x.held.filter (fun h => h.1 != 63),
                                                   spill := x.spill.filter (fun h => h.feature != 63) }) out.1
      let fresh := (List.range r.count).filter fun b => !(r.bags.getD b {}).recompute
      settleScatter c.id (noteScatter c gs r.marked.length (reserveG c r fresh keep).1)

/-! ### The run of a SCATTER_GRAD -/

/-- Elements of one inbound gradient: pair values for the interaction, else ROW_LEN of the table. -/
def gradLen (s : State) (c : Cmd) (r : LehrRec) : Nat :=
  if Pkt.feature c.words = 63 then (r.feats.length + 1) * r.feats.length / 2 else (table s (Pkt.table c.words)).desc.rowLen

/-- Forms the terms once everything a command needs has come. -/
def tryScatter (id : Nat) (s0 : State) : State :=
  let s := askAgain id s0
  match cmd? s id with
  | none => s
  | some c =>
    let g := scatterOf c
    match s.lehr.find? (fun r => g.fwd == some r.cmd) with
    | none => s
    | some r =>
      let n := gradLen s c r
      if c.phase == .done || !g.started || g.written || !againDone s c then s
      else if g.feature = 63 then
        if allTaken g then scatterInter c r (takenGrads s c g n) (addInputs id (takenInputs g) s) else s
      else if r.interacts then
        match recordGrads r g.feature with
        | some gs => scatterFeature c r gs s
        | none => s
      else if Pkt.gradSel c.words then
        match memoryGrads s c g n with
        | .error v => finish id v s
        | .ok bs =>
          let h := { g with taken := memoryTaken s c g n bs }
          scatterFeature c r (takenGrads s c h n) (noteRead id (Pkt.addrA c.words) (addInputs id (takenInputs h) s))
      else if allTaken g then scatterFeature c r (takenGrads s c g n) (addInputs id (takenInputs g) s) else s

/-- Reserves the space of a SCATTER_GRAD tied to its forward command, and begins what it gathers again (R208, R245). -/
def reserveScatter (c : Cmd) (r : LehrRec) (s : State) : State :=
  let started := fun (t : State) => tryScatter c.id (match cmd? t c.id with
    | some d => beginAgain d r (modScatter c.id (fun g => { g with started := true }) t)
    | none => t)
  match spillBad s r (Pkt.feature c.words) with
  | some e =>
    match againBad s c r with
    | some x => if e.2 = .ok then corruptCmd c (homeSlice s c.ctx (homeOf x.2)) x.1 x.2 s else spillFail c e s
    | none => spillFail c e s
  | none =>
    if Pkt.feature c.words = 63 then
      let x := reserveG c r r.marked (modLehr r.cmd LehrRec.dropG s)
      if x.2 = 0 then started x.1 else finish c.id (.noSpace, 0x42, ceilDiv x.2 1024) s
    else
      match r.feats[Pkt.feature c.words]? with
      | none => s
      | some f =>
        let x := reserveSlots c r f s
        if x.2 then started x.1 else x.1

/-- Whether an interaction SCATTER_GRAD of the same CASCADE is in flight (R247). -/
def interInFlight (s : State) (c : Cmd) : Bool :=
  s.cmds.any fun d => d.op == 3 && d.id != c.id && d.ctx == c.ctx && Pkt.feature d.words == 63
    && Pkt.fwdTag d.words == Pkt.fwdTag c.words && Pkt.step d.words == Pkt.step c.words

/-- A SCATTER_GRAD from its issue on: it waits for its forward command, is checked against it, reserves, and goes on as its
gradients come. -/
def runScatter (c : Cmd) (s : State) : State :=
  if (scatterOf c).started then tryScatter c.id s
  else if fwdInFlight s c then s
  else match fwdRecord s c with
  | none => finish c.id badTag s
  | some r =>
    let x := bindScatter c r s
    match x.2 with
    | some v => finish c.id v x.1
    | none =>
      if Pkt.feature c.words ≠ 63 ∧ r.interacts then
        if interInFlight s c then x.1
        else if (recordGrads r (Pkt.feature c.words)).isNone then finish c.id badInter x.1
        else match cmd? x.1 c.id with
          | some d => reserveScatter d r x.1
          | none => x.1
      else match cmd? x.1 c.id with
        | some d => reserveScatter d r x.1
        | none => x.1

/-- SCATTER_GRAD (R35, R202 to R211, R247, R409), but for an interaction SCATTER_GRAD. -/
def execScatterGrad (cmd : Nat) (s : State) : Host.Outcome State Fault Refusal :=
  done s (onIssued cmd 0x03 s fun c t => if Pkt.feature c.words = 63 then s else runScatter c t)

/-- INTERACTION_SCATTER_GRAD: a SCATTER_GRAD with FEATURE 63 (R241 to R246). -/
def execInteractionScatterGrad (cmd : Nat) (s : State) : Host.Outcome State Fault Refusal :=
  done s (onIssued cmd 0x03 s fun c t => if Pkt.feature c.words = 63 then runScatter c t else s)

/-! ### Inbound gradient frames (R200, R202, R372) -/

/-- A field of a frame header: bytes `lo` on, bits [msb:lsb]. -/
def hdr (bs : List Byte) (byte n msb lsb : Nat) : Nat := field (fromLE ((bs.drop byte).take n)) msb lsb

/-- SLOT, TAG and FEATURE of a frame. -/
def frameKey (bs : List Byte) : Nat × Nat × Nat := (hdr bs 0 2 15 0, hdr bs 12 2 15 0, hdr bs 3 1 5 0)

/-- INDEX of a frame. -/
def frameIndex (bs : List Byte) : Nat := hdr bs 4 4 19 0

/-- The lowest header byte that breaks R202, for a command with the given kind, format, length, exponent byte and bags. -/
def frameFault (bs : List Byte) (kind fmt len : Nat) (exp : Byte) (bags : Nat) (taken : List Nat) : Option Nat :=
  let r := hdr bs 4 4 31 20
  if hdr bs 2 1 1 0 != kind || hdr bs 2 1 3 2 != 0 || hdr bs 2 1 7 4 != fmt then some 2
  else if hdr bs 3 1 7 6 != 0 then some 3
  else if decide (frameIndex bs ≥ bags) || taken.contains (frameIndex bs) then some 4
  else if r != 0 then some (if r % 16 = 0 then 7 else 6)
  else if hdr bs 8 4 31 0 != len then some 8
  else if BitVec.ofNat 8 (hdr bs 14 1 7 0) != exp then some 14
  else if hdr bs 15 1 7 0 != 0 then some 15
  else none

/-- Whether a SCATTER_GRAD claims a frame: it takes frames, and its forward command has that SLOT and TAG. -/
def claims (s : State) (k : Nat × Nat × Nat) (c : Cmd) : Bool :=
  c.op == 3 && !Pkt.gradSel c.words && !(c.phase == .reading) &&
  match fwdRecord s c with
  | none => false
  | some r => r.slot == k.1 && r.tag == k.2.1 && takesFrames c r
      && frameFeature c r == k.2.2

/-- A frame reaches the SCATTER_GRAD that claims it. -/
def takeFrame (c : Cmd) (r : LehrRec) (bs : List Byte) (s : State) : State :=
  let g := scatterOf c
  let i := frameIndex bs
  let d := (table s (Pkt.table c.words)).desc
  let len := gradLen s c r * fmtBytes d.actFmt
  let entry := (i, BitVec.ofNat 8 (hdr bs 14 1 7 0), (bs.drop 16).take len)
  let note := modScatter c.id (fun x => { x with taken := x.taken ++ [entry] })
  if c.phase == .done then note s
  else match frameFault bs (if g.feature = 63 then 1 else 0) d.actFmt len (BitVec.ofInt 8 g.e) (Pkt.bags c.words) (g.taken.map (·.1)) with
    | some b => finish c.id (.badField, fieldPos b 0 12, i) (note s)
    | none => tryScatter c.id (progress c.id (note s))

/-- A frame for a SCATTER_GRAD: the checks against the forward command come before the first frame is taken. -/
def claimFrame (c : Cmd) (bs : List Byte) (s : State) : State :=
  match fwdRecord s c with
  | none => s
  | some r =>
    if (scatterOf c).fwd.isSome then takeFrame c r bs s
    else
      let x := bindScatter c r s
      match cmd? x.1 c.id, x.2 with
      | some d, none => takeFrame d r bs x.1
      | some d, some v =>
        let e := (frameIndex bs, 0#8, ([] : List Byte))
        finish d.id v (modScatter d.id (fun g => { g with taken := g.taken ++ [e] }) x.1)
      | none, _ => s

/-- A drain takes a frame of its key. -/
def drainFrame (k : Nat × Nat × Nat) (i : Nat) (ds : List Drain) : List Drain :=
  (ds.map fun d => if (d.slot, d.tag, d.feature) = k then { d with left := d.left.filter (· != i) } else d).filter
    fun d => !d.left.isEmpty

/-- Whether inbound frames are discarded without an answer: in rungs 2 to 4, and while the engine is not READY. -/
def framesOff (s : State) : Bool := !isReady s || s.rung.any fun r => decide (r.rung ≤ 4) && !r.held

/-- GRADIENT_FRAME (R202, R372): a frame is drained, claimed, or refused with TWR_I_NACK. -/
def execGradientFrame (channel : BitVec 4) (bytes : List Byte) (s : State) : Host.Outcome State Fault Refusal :=
  done s (
    let k := frameKey bytes
    if framesOff s || decide (bytes.length < 16) then s
    else if s.drains.any fun d => decide ((d.slot, d.tag, d.feature) = k) then
      { s with drains := drainFrame k (frameIndex bytes) s.drains }
    else match s.cmds.find? (claims s k) with
      | some c => claimFrame c bytes s
      | none => bump Reg.TWR_NACK_CNT_COUNT 0 1 (send (.nack channel.toNat bytes) s))

end Sys2Proof.Machine
end

