-- ==== Sys2Proof/Machine/Remote.lean ====
section
/-! DEFINITION. Messages between chips: lookups served and answered, gradient pushes, dB partials, migration requests, and their
timeouts (R73, R174, R181, R193 to R197, R209 to R211, R223, R245, R291, R292). -/

namespace Sys2Proof.Machine

/-! ### Lookups served (R195, R196) -/

/-- The uses of a LOOKUP_REQ, each with its pooling mode: that of the header, but for what byte 5, bits 7 and 6, differ in (log entry
49). -/
def lookupUses (m : List Byte) : List ReqUse :=
  (List.range (msgEntries m)).map fun i =>
    let e := (m.drop (32 + 16 * i)).take 16
    let k := fromLE ((e.drop 5).take 1)
    { row := fromLE (e.take 5), feature := k % 64, pool := field (msgWord m 0) 11 8 ^^^ k / 64
      pos := fromLE ((e.drop 6).take 2), bag := fromLE ((e.drop 8).take 4) % 2 ^ 20
      weight := BitVec.ofNat 32 (fromLE ((e.drop 12).take 4)) }

/-- Adds a use to the partials of its feature and bag; one that would not fit its window is followed by another (R151 case
3). -/
def addTerm (k : Nat × Nat) (t : Terms) : List ((Nat × Nat) × Terms) → List ((Nat × Nat) × Terms)
  | [] => [(k, t)]
  | e :: es => if e.1 = k ∧ termsFit (joinTerms e.2 t) then (k, joinTerms e.2 t) :: es else e :: addTerm k t es

/-- One partial of a response. -/
def rspPartial (fmt w : Nat) (e : (Nat × Nat) × Terms) : List Byte :=
  let form := formOf fmt e.2
  let d := partialBytes fmt form w e.2
  toLE 4 (e.1.2 + e.1.1 * 2 ^ 20 + form * 2 ^ 26) ++ toLE 4 d.length ++ d ++ List.replicate ((8 - d.length % 8) % 8) 0#8

/-- Splits partials into messages of at most 64 KiB. -/
def splitRsp : List (List Byte) → List (List Byte) → List (List (List Byte))
  | [], acc => [acc]
  | e :: es, acc =>
    if 32 + sumOf ((acc ++ [e]).map List.length) > 65536 ∧ !acc.isEmpty then acc :: splitRsp es [e]
    else splitRsp es (acc ++ [e])

/-- Sends the messages of a response. -/
def sendRsp (m : List Byte) (ps : List (List Byte)) (s : State) : State :=
  let ms := splitRsp ps []
  ms.zipIdx.foldl (fun t e =>
    sendPeer (msgChip m) (rspHeader t 0 (b2n (e.2 + 1 == ms.length)) (msgReq m) e.1.length 0 ++ e.1.flatten) t) s

/-- Bytes of a position of a response (R196). DESIGN CHOICE: the request does not carry the requester's bag sizes, and the width is taken
from the largest POS of the request: below 255 it is 1 (log entry 83). -/
def rspWidth (us : List ReqUse) : Nat := if us.all fun u => decide (u.pos < 255) then 1 else 2

/-- Answers a lookup whose rows have all been read: each feature and bag pooled without rounding (R196). -/
def answerLookup (w : Served) (s : State) : State :=
  let t := w.table
  let us := lookupUses w.msg
  let d := (table s t).desc
  let ts := us.foldl (fun acc u =>
    match w.got.find? (fun e => e.1 == u.row) with
    | some e => addTerm (u.feature, u.bag) (useTerms u.pool (rowElems d (matB s t w.version) e.2) u.weight u.pos) acc
    | none => acc) []
  endServed w ((dedup (us.map (·.row))).foldl (fun x r => addLoad t r 3 1 x)
    (sendRsp w.msg (ts.map (rspPartial d.format (rspWidth us))) s))

/-- What reads the rows of a lookup served: none of the commands; its slices are those of the table's TRAIN_CTX. -/
def server (s : State) (w : Served) : Cmd := { id := w.id, ctx := (table s w.table).desc.trainCtx, gen := 2 ^ 64 }

/-- A lookup being served has a row. -/
def gotServed (id row : Nat) (bs : List Byte) (s : State) : State :=
  { s with remote := { s.remote with served := s.remote.served.map fun w =>
    if w.id == id && !(w.got.any fun e => e.1 == row) then { w with got := w.got ++ [(row, bs)] } else w } }

/-- Reads one row for a lookup: from its slice, by joining a fill, past the basin where every use of it would be pooled in a weir, or by a
fill (R150, R195). -/
def serveOne (w : Served) (row : Nat) (s : State) : State :=
  let t := w.table
  let c := server s w
  let sl := homeSlice s c.ctx (homeOf row)
  match lookRow (table s t).desc.pools c sl t row w.version s with
  | (u, .corrupt) => failServed 3 row w.id u
  | (u, .hit bs) => gotServed w.id row bs u
  | (u, .miss) =>
    match joinable u sl t row w.version with
    | some g => noteMiss sl t (joinFetch g.id w.id false u)
    | none =>
      let p := rowPlace u t w.version row
      let d := (table u t).desc
      let weir := p.tier == 1 && !d.adapter && !straddles p d.stride && (lookupUses w.msg).all fun x => x.row != row || x.pool != 2
      match reach u p d.stride with
      | .ok =>
        noteMiss sl t (noteFetch t row
          (if weir then startFetch c sl t row w.version p .none false u else startFill c sl t row w.version p false u))
      | _ => failServed 5 0 w.id u

/-- Rows of a lookup that are neither read nor being fetched. -/
def servedLeft (s : State) (w : Served) : List Nat :=
  (dedup ((lookupUses w.msg).map (·.row))).filter fun r =>
    !(w.got.any fun e => e.1 == r) && !s.fetches.any fun f => f.table == w.table && f.row == r && f.waiters.contains w.id

/-- Reads rows of a lookup in order, until one waits for room in a cullet buffer. -/
def serveRows (id : Nat) : List Nat → State → State
  | [], s => s
  | row :: rest, s =>
    match served? s id with
    | none => s
    | some w =>
      let x := orStall (id, w.table, row) s (serveOne w row s)
      if x.2 then serveRows id rest x.1 else x.1

/-- Answers a lookup once all its rows have come. -/
def settleLookup (id : Nat) (s : State) : State :=
  match served? s id with
  | none => s
  | some w =>
    if w.begun && (lookupUses w.msg).all (fun u => w.got.any fun e => e.1 == u.row) then answerLookup w s else s

/-- Goes on with a lookup being served. -/
def serveRun (id : Nat) (s : State) : State :=
  match served? s id with
  | none => s
  | some w => settleLookup id (serveRows id (servedLeft s w) s)

/-- Whether a rung has fenced the slices that serve a table to peers: those of the partition of its TRAIN_CTX (R311, 12
Table 8). -/
def fencedTable (s : State) (t : Nat) : Bool :=
  match s.rung with
  | none => false
  | some r => r.rung != 3 || r.parts.contains (ctx s (table s t).desc.trainCtx).part

/-- The verdict of R195 on a lookup: a STATUS; none where it is served; 255 while it waits. At a fenced edge it is STATUS 5. -/
def lookupCheck (s : State) (m : List Byte) : Option Nat :=
  let tb := table s (msgTable m)
  if fencedTable s (msgTable m) then some 5
  else if (lookupUses m).any fun u => !localRow tb u.row then some 4
  else if (tb.version? (msgWord m 4)).isNone then some 1
  else if bit (msgWord m 0) 12 then
    if tb.step + 1 = msgWord m 5 then none else if tb.step + 2 = msgWord m 5 then some 255 else some 2
  else none

/-- Requests that the serve queue holds (R195). -/
def serveSize : Nat := 4096

/-- LOOKUP_REQ (R195): it enters the serve queue, in flight on its version; where the queue is full the sender is told to send again, and
at a fenced edge it is answered at once. -/
def execLookupReq (msg : List Byte) (s : State) : Host.Outcome State Fault Refusal :=
  done s (
    let t := msgTable msg
    let v := msgWord msg 4
    if !isMsg 1 msg || !isReady s then s
    else if fencedTable s t then rspFail msg 5 0 s
    else if s.remote.served.length ≥ serveSize then send (.rnrNak (msgChip msg)) s
    else
      let held := ((table s t).version? v).isSome
      let w : Served := { id := lookupBase + s.remote.nextServed, msg := msg, chip := msgChip msg, table := t, version := v, held := held,
                          step := if bit (msgWord msg 0) 12 then some (msgWord msg 5) else none }
      let u := { s with remote := { s.remote with served := s.remote.served ++ [w], nextServed := s.remote.nextServed + 1 } }
      if held then addInflight t v 1 u else u)

/-- Whether a lookup may be granted: its checks pass or fail now, or it was granted and rows of it are still to be asked for. -/
def servable (s : State) (w : Served) : Bool :=
  if w.begun then !(servedLeft s w).isEmpty else decide (lookupCheck s w.msg ≠ some 255)

/-- The next lookup of the serve queue: the oldest that need not wait for a commit (log entry 48). -/
def nextLookup (s : State) : Option Served := s.remote.served.find? (servable s)

/-- Grants a lookup: it is answered with the STATUS of its checks, or its rows are read (R195). -/
def grantLookup (w : Served) (s : State) : State :=
  match (if w.begun then none else lookupCheck s w.msg) with
  | some st => failServed st 0 w.id s
  | none =>
    serveRun w.id (refillB { s with remote := { s.remote with served := s.remote.served.map fun x =>
      if x.id == w.id then { x with begun := true } else x } } w.table)

/-- A rung's fence reaches the lookups of the tables it covers: they are answered with STATUS 5 (R311). -/
def fenceLookups (s : State) : State :=
  (s.remote.served.filter fun w => fencedTable s w.table).foldl (fun t w => failServed 5 0 w.id t) s

/-! ### Responses to lookups (R196, R197, R291) -/

/-- Context of a REQ_ID (R290). -/
def reqCtx (req : Nat) : Nat := req / 2 ^ 24 % 256

/-- A response nobody waits for: counted, its tag retired. -/
def lateMsg (req : Nat) (s : State) : State := retireTag (reqCtx req) (.req req) (lateResponse (reqCtx req) s)

/-- The partials of a response: bag, feature, form and payload. -/
def rspParts : Nat → List Byte → List (Nat × Nat × Nat × List Byte)
  | 0, _ => []
  | n + 1, bs =>
    let w := fromLE (bs.take 4)
    let len := fromLE ((bs.drop 4).take 4)
    (field w 19 0, field w 25 20, field w 27 26, (bs.drop 8).take len) :: rspParts n (bs.drop (8 + (len + 7) / 8 * 8))

/-- One partial as a term of its leaf. -/
def leafOf (s : State) (f : Fwd) (l : Lookup) (p : Nat × Nat × Nat × List Byte) : LeafTerm :=
  let d := (table s l.table).desc
  let w := (p.2.2.2.length - d.rowLen * fmtBytes (if p.2.2.1 = 0 then d.format else 0)) / d.rowLen
  let pool := ((f.feats[p.2.1]?).map (·.pool)).getD l.pool
  { feature := p.2.1, bag := p.1, slice := l.slice
    terms := partialTerms d.format p.2.2.1 d.rowLen w (pool == 3) p.2.2.2 }

/-- Removes an outstanding lookup and retires its tag. -/
def closeLookup (req : Nat) (s : State) : State :=
  retireTag (reqCtx req) (.req req) { s with remote := { s.remote with lookups := s.remote.lookups.filter fun l => l.req != req } }

/-- A command goes on after a response. -/
def goOn (c : Cmd) (s : State) : State := if c.op = 3 then tryScatter c.id s else advanceFwd c.id s

/-- A response that fails ends the command. -/
def lookupFail (c : Cmd) (l : Lookup) (st row : Nat) (s : State) : State :=
  if st = 3 ∧ c.op ≠ 3 then
    finish c.id (.dataCorrupt, l.table, row % 2 ^ 32)
      (logErr 0x0010 0 (some c.ctx) (unitId 1 (homeSlice s c.ctx l.slice)) (l.table + row * 2 ^ 24) s)
  else peerFail c l.port l.chip s

/-- PARTIAL_RSP (R196, R197, R291). -/
def execPartialRsp (msg : List Byte) (s : State) : Host.Outcome State Fault Refusal :=
  done s (
    let req := msgReq msg
    let last := bit (msgWord msg 0) 16
    if !isMsg 2 msg then s
    else match s.remote.lookups.find? (fun l => l.req == req) with
      | none => lateMsg req s
      | some l =>
        match cmd? s l.cmd with
        | none => lateMsg req (closeLookup req s)
        | some c =>
          let st := field (msgWord msg 0) 15 8
          if c.phase == .done then lateResponse c.ctx (if last then closeLookup req s else s)
          else if st != 0 then
            lookupFail c l st (msgWord msg 4 + msgWord msg 5 % 256 * 2 ^ 32) (closeLookup req s)
          else
            let f := fwdOf c
            let ts := (rspParts (msgWord msg 3) (msg.drop 32)).map (leafOf s f l)
            let t := progress c.id (setFwd c.id { f with terms := f.terms ++ ts } s)
            if last then
              goOn c (closeLookup req (l.rows.foldl (fun x r => modRow c.id l.table r (fun y => { y with done := true }) x) t))
            else t)

/-- LOOKUP_TIMEOUT (R197): no message with LAST came in UM_REMOTE_TMO. -/
def execLookupTimeout (reqId : Word) (s : State) : Host.Outcome State Fault Refusal :=
  done s (match s.remote.lookups.find? (fun l => l.req == reqId.toNat) with
    | none => s
    | some l =>
      match cmd? s l.cmd with
      | none => s
      | some c => if c.phase == .done then s else peerFail c l.port l.chip s)

/-! ### Gradient pushes at the home chip (R210) -/

/-- Number by which a push holds delta slots: above every admission number and served MIGRATE_REQ. -/
def pushHolder (m : List Byte) : Nat := 2 ^ 65 + msgChip m * 2 ^ 32 + msgReq m

/-- Owner of the slots of a push. -/
def pushOwner (m : List Byte) : SlotOwner := .peer (msgChip m) (msgCtx m) (msgGen m) (msgReq m)

/-- FMT of a push. -/
def pushFmt (m : List Byte) : Nat := field (msgWord m 0) 12 10

/-- PHASE of a push. -/
def pushPhase (m : List Byte) : Nat := field (msgWord m 0) 9 8

/-- The entries of a DATA message: row and element codes. -/
def pushEntries (m : List Byte) (n : Nat) : List (Nat × List Nat) :=
  let w := fmtBytes (pushFmt m)
  let size := 8 + (n * w + 7) / 8 * 8
  (List.range (msgEntries m)).map fun i =>
    let e := m.drop (32 + size * i)
    (fromLE (e.take 5), codesOf w n (e.drop 8))

/-- A GRAD_ACK (08 Table 4). -/
def ackBytes (s : State) (st req seq short : Nat) : List Byte :=
  toLE 4 (4 + st * 2 ^ 8) ++ toLE 4 (rd Reg.CHIP_ID_CHIP 0 s) ++ toLE 4 req ++ toLE 4 seq ++ toLE 4 short ++ toLE 12 0

/-- Acknowledges a push. -/
def ackPush (m : List Byte) (st seq short : Nat) (s : State) : State := sendPeer (msgChip m) (ackBytes s st (msgReq m) seq short) s

/-- Frees the provisional slots and reservations of a push. -/
def freePush (m : List Byte) (s : State) : State :=
  let t := msgTable m
  let u := mapSlices (fun v => { v with slots := v.slots.filter fun x => !(x.prov && decide (x.owner = pushOwner m)) }) s
  let tb := table u t
  let rs := tb.resv.map fun r => { r with holders := r.holders.filter (· != pushHolder m) }
  setTable t { tb with resv := rs.filter fun r => !r.holders.isEmpty } u

/-- Takes the entries of a DATA message into provisional slots. -/
def storePush (m : List Byte) (s : State) : State :=
  let t := msgTable m
  let tb := table s t
  let es := pushEntries m tb.desc.rowLen
  let at_ := fun (r : Nat) => homeSlice s tb.desc.trainCtx (homeOf r)
  match reserveDelta (pushHolder m) t (es.map (·.1)) s with
  | .error n => ackPush m 6 (msgWord m 6) (ceilDiv (n * tb.desc.stride) 1024) s
  | .ok u =>
    let mk := fun (e : Nat × List Nat) =>
      ({ table := t, row := e.1, step := msgWord m 4, owner := pushOwner m, prov := true, fmt := pushFmt m,
         exp := if pushFmt m = 0 then 0 else signedOf 8 (msgWord m 5), use := 0, codes := e.2 } : Slot)
    let v := es.foldl (fun x e => addSlot (at_ e.1) (mk e) x) u
    match slotShort v (es.map fun e => at_ e.1) with
    | [] => ackPush m 0 (msgWord m 6) 0 v
    | l => ackPush m 6 (msgWord m 6) (ceilDiv (maxOf (l.map (·.2)) * 64) 1024) s

/-- Whether TRAIN_CTX of a table is open. -/
def trainOpen (s : State) (t : Nat) : Bool := (ctx s (table s t).desc.trainCtx).st == .opened

/-- The checks of R210 on a DATA message, in order. -/
def takePush (m : List Byte) (s : State) : State :=
  let t := msgTable m
  let tb := table s t
  let step := msgWord m 4
  if fencedTable s t then ackPush m 5 (msgWord m 6) 0 s
  else if (pushEntries m tb.desc.rowLen).any fun e => !localRow tb e.1 then ackPush m 4 (msgWord m 6) 0 s
  else if tb.working.isNone || !tb.desc.trainEn || !trainOpen s t then ackPush m 5 (msgWord m 6) 0 s
  else if step = tb.step + 2 then
    { s with remote := { s.remote with heldPushes := s.remote.heldPushes ++ [{ msg := m }] } }
  else if step ≠ tb.step + 1 ∨ tb.merging.isSome then ackPush m 2 (msgWord m 6) 0 s
  else storePush m s

/-- GRAD_PUSH_DATA (R210). -/
def execGradPushData (msg : List Byte) (s : State) : Host.Outcome State Fault Refusal :=
  done s (if isMsg 3 msg && pushPhase msg == 0 && isReady s then takePush msg s else s)

/-- Takes the pushes that a commit of a table lets go. -/
def takeHeld (t : Nat) (s : State) : State :=
  let mine := s.remote.heldPushes.filter fun h => msgTable h.msg == t
  mine.foldl (fun x h => takePush h.msg x)
    { s with remote := { s.remote with heldPushes := s.remote.heldPushes.filter fun h => msgTable h.msg != t } }

/-- Whether provisional slots of a push stand. -/
def pushHeld (m : List Byte) (s : State) : Bool :=
  s.slices.any fun e => e.2.slots.any fun x => x.prov && decide (x.owner = pushOwner m)

/-- Provisional slots of pushes to a fenced domain are freed (R311 Table 8). -/
def fencePushes (s : State) : State :=
  let gone := fun (x : Slot) => x.prov && fencedTable s x.table && match x.owner with | .peer _ _ _ _ => true | .chip _ => false
  mapSlices (fun v => { v with slots := v.slots.filter fun x => !gone x }) s

/-- GRAD_PUSH_COMMIT (R210): the slots of the push belong to the step, or are freed once the merge has begun. DEDUCED from R228: where a
close or reset of TRAIN_CTX has freed them, the acknowledgement is ABORTED, so that the loss is reported (log entry 85). -/
def execGradPushCommit (msg : List Byte) (s : State) : Host.Outcome State Fault Refusal :=
  done s (
    let tb := table s (msgTable msg)
    if !isMsg 3 msg || pushPhase msg != 1 || !isReady s then s
    else if tb.working.isNone || fencedTable s (msgTable msg) || (ctx s tb.desc.trainCtx).st == .resetting then
      ackPush msg 5 0xFFFFFFFF 0 (freePush msg s)
    else if msgWord msg 4 ≠ tb.step + 1 ∨ tb.merging.isSome then ackPush msg 2 0xFFFFFFFF 0 (freePush msg s)
    else if !pushHeld msg s then ackPush msg 5 0xFFFFFFFF 0 s
    else
      let own := fun (x : Slot) => if x.owner = pushOwner msg then { x with prov := false } else x
      ackPush msg 0 0xFFFFFFFF 0 (mapSlices (fun v => { v with slots := v.slots.map own }) s))

/-- GRAD_PUSH_DISCARD (R210): the slots of the push are freed. -/
def execGradPushDiscard (msg : List Byte) (s : State) : Host.Outcome State Fault Refusal :=
  done s (
    if !isMsg 3 msg || pushPhase msg != 2 || !isReady s then s
    else
      let rest := s.remote.heldPushes.filter fun h =>
        !(decide (pushOwner h.msg = pushOwner msg) && msgTable h.msg == msgTable msg)
      ackPush msg 0 0xFFFFFFFF 0 (freePush msg { s with remote := { s.remote with heldPushes := rest } }))

/-! ### Acknowledgements at the sender (R209, R211) -/

/-- The SCATTER_GRAD with a push to a chip under a REQ_ID. -/
def pushCmd (s : State) (chip req : Nat) : Option Cmd :=
  s.cmds.find? fun c => (scatterOf c).pushes.any fun p => p.chip == chip && p.req == req

/-- Modifies a push. -/
def modPush (id chip req : Nat) (f : Push → Push) (s : State) : State :=
  modScatter id (fun g => { g with pushes := g.pushes.map fun p => if p.chip == chip && p.req == req then f p else p }) s

/-- Once every DATA message is acknowledged, COMMIT goes to every home chip. -/
def commitPushes (id : Nat) (s : State) : State :=
  match cmd? s id with
  | none => s
  | some c =>
    let g := scatterOf c
    if g.written && g.pushes.all (fun p => p.waiting.isEmpty && !p.committed) && !g.pushes.isEmpty then
      sendPhase 1 c g.pushes (modScatter id (fun x => { x with pushes := x.pushes.map fun p => { p with committed := true } }) s)
    else s

/-- Ends a SCATTER_GRAD whose push was not taken. -/
def pushFail (c : Cmd) (p : Push) (st : Nat) (s : State) : State :=
  finish c.id (.hwError, s.errs.head, 0)
    (logErr 0x0030 0 (some c.ctx) 0 (p.port % 4 + p.chip % 2 ^ 12 * 2 ^ 16 + st % 256 * 2 ^ 32) s)

/-- GRAD_ACK (R209, R211, R291). -/
def execGradAck (msg : List Byte) (s : State) : Host.Outcome State Fault Refusal :=
  done s (
    let req := msgReq msg
    let chip := msgChip msg
    let st := field (msgWord msg 0) 15 8
    let seq := msgWord msg 3
    if !isMsg 4 msg then s
    else match pushCmd s chip req with
      | none => lateMsg req s
      | some c =>
        match (scatterOf c).pushes.find? (fun p => p.chip == chip && p.req == req) with
        | none => s
        | some p =>
          if c.phase == .done then (if seq = 0xFFFFFFFF then lateMsg req s else lateResponse c.ctx s)
          else if st = 6 then finish c.id (.noSpace, 0x41, msgWord msg 4) s
          else if st ≠ 0 then pushFail c p st s
          else if seq = 0xFFFFFFFF then
            if p.committed then settleScatter c.id (retireTag c.ctx (.req req) (modPush c.id chip req (fun x => { x with acked := true }) s))
            else s
          else commitPushes c.id (progress c.id (modPush c.id chip req (fun x => { x with waiting := x.waiting.filter (· != seq) }) s)))

/-- GRAD_ACK_TIMEOUT (R211): no acknowledgement came in UM_REMOTE_TMO of a send. -/
def execGradAckTimeout (cmd : Nat) (s : State) : Host.Outcome State Fault Refusal :=
  done s (match cmd? s cmd with
    | none => s
    | some c =>
      match (scatterOf c).pushes.find? (fun p => !p.acked) with
      | some p => if c.op == 3 && c.phase != .done then pushFail c p 0xFF s else s
      | none => s)

/-! ### dB partials (R209, R223) -/

/-- B_PARTIAL (R223): a message of a peer's partial of dB is kept for the merge of its step. -/
def execBPartial (msg : List Byte) (s : State) : Host.Outcome State Fault Refusal :=
  done s (
    let e := (msgTable msg, msgWord msg 4, msgChip msg, msgWord msg 6, wordsOf (msgEntries msg) (msg.drop 32))
    let old := s.remote.partsB.filter fun x => !(x.1 == e.1 && x.2.1 == e.2.1 && x.2.2.1 == e.2.2.1 && x.2.2.2.1 == e.2.2.2.1)
    if isMsg 3 msg && pushPhase msg == 3 && isReady s then { s with remote := { s.remote with partsB := old ++ [e] } } else s)

/-- K of a table: this chip and every CHIP of its REMOTE entries, ascending (R223). -/
def jobChips (s : State) (t : Nat) : List Nat :=
  sortBy (fun a b => decide (a < b))
    (dedup (rd Reg.CHIP_ID_CHIP 0 s :: ((table s t).shards.filter fun h => h.tier == 5).map (·.chip)))

/-- The partial of dB of a peer for a step: none until it is whole; the inner none is an empty partial. -/
def partB (s : State) (t step chip : Nat) : Option (Option (List Word)) :=
  let ms := s.remote.partsB.filter fun x => x.1 == t && x.2.1 == step && x.2.2.1 == chip
  let seqs := sortBy (fun (a b : Nat × List Word) => decide (a.1 < b.1)) (ms.map fun x => (x.2.2.2.1, x.2.2.2.2))
  let ok := seqs.zipIdx.all fun e => e.1.1 == e.2
  let els := (seqs.map (·.2)).flatten
  let n := (table s t).desc.rank * (table s t).desc.rowLen
  if !ok || seqs.isEmpty then none
  else if els.isEmpty then some none
  else if els.length ≥ n then some (some els) else none

/-- Peers of K whose partial is not whole. -/
def missingB (s : State) (t step : Nat) : List Nat :=
  (jobChips s t).filter fun p => p != rd Reg.CHIP_ID_CHIP 0 s && (partB s t step p).isNone

/-- What a MERGE_APPLY keeps. -/
def mergeOf (c : Cmd) : Merge := match c.work with | .merge m => m | _ => { table := 0 }

/-- B_PARTIAL_TIMEOUT (R223): a partial did not come in UM_REMOTE_TMO after this chip's rows were done. -/
def execBPartialTimeout (cmd : Nat) (s : State) : Host.Outcome State Fault Refusal :=
  done s (match cmd? s cmd with
    | none => s
    | some c =>
      let t := (mergeOf c).table
      match missingB s t (Pkt.step c.words) with
      | p :: _ =>
        if c.op == 4 && c.phase != .done && (mergeOf c).merged && (table s t).desc.adapter then
          finish c.id (.remoteLost, (rimPort s p).getD 0xFFFFFFFF, p) s
        else s
      | [] => s)

/-! ### Migration requests (R174, R181, R193) -/

/-- The rows of a MIGRATE_REQ. -/
def migrateRows (m : List Byte) : List Nat := (List.range (msgEntries m)).map fun i => fromLE ((m.drop (32 + 8 * i)).take 5)

/-- MIGRATE_REQ: the rows move as those of a ROW_MIGRATE, and the acknowledgement waits for their swaps. -/
def execMigrateReq (msg : List Byte) (s : State) : Host.Outcome State Fault Refusal :=
  done s (
    let t := msgTable msg
    let dest := msgWord msg 4 % 16
    if !isMsg 5 msg || !isReady s then s
    else if (migrateRows msg).any fun r => !localRow (table s t) r then sendPeer (msgChip msg) (migrateAckBytes s 4 (msgReq msg)) s
    else
      let id := servedBase + s.remote.migServed.foldl (fun n m => max n (m.id - servedBase + 1)) 0
      match (if dest > 4 then .error (.badField, 0, 0) else reserveAll id t dest (dedup (migrateRows msg)) s) with
      | .error _ => sendPeer (msgChip msg) (migrateAckBytes s 5 (msgReq msg)) s
      | .ok u =>
        settleServed { u with remote := { u.remote with migServed :=
          u.remote.migServed ++ [{ id := id, chip := msgChip msg, req := msgReq msg }] } })

/-- MIGRATE_ACK (R181, R291). -/
def execMigrateAck (msg : List Byte) (s : State) : Host.Outcome State Fault Refusal :=
  done s (
    let req := msgReq msg
    if !isMsg 6 msg then s
    else match s.remote.migs.find? (fun m => m.req == req) with
      | none => lateMsg req s
      | some m =>
        let t := retireTag (reqCtx req) (.req req)
          { s with remote := { s.remote with migs := s.remote.migs.filter fun x => x.req != req } }
        match cmd? s m.cmd with
        | none => lateResponse (reqCtx req) t
        | some c =>
          if c.phase == .done then lateResponse c.ctx t
          else if field (msgWord msg 0) 15 8 ≠ 0 then finish c.id (.remoteLost, m.port, m.chip) t
          else settleMigrate c.id t)

/-- MIGRATE_ACK_TIMEOUT (R181): a home chip did not acknowledge in UM_REMOTE_TMO; the moves of this chip stand. -/
def execMigrateAckTimeout (cmd : Nat) (s : State) : Host.Outcome State Fault Refusal :=
  done s (match s.remote.migs.find? (fun m => m.cmd == cmd), cmd? s cmd with
    | some m, some c => if c.phase == .done then s else finish cmd (.remoteLost, m.port, m.chip) s
    | _, _ => s)

/-- REMOTE_BAD_MSG (R193): a message of a reserved KIND is dropped and counted. -/
def execRemoteBadMsg (msg : List Byte) (s : State) : Host.Outcome State Fault Refusal :=
  done s (if decide (msgKind msg < 1) || decide (msgKind msg > 6) then bump Reg.REMOTE_BAD_MSG_COUNT 0 1 s else s)

end Sys2Proof.Machine
end

