-- ==== Sys2Proof/Machine/Arbiter.lean ====
section
/-! DEFINITION. The arbiter: its rounds over the command queues and the serve queue, ages and promotions, and the grant (R45, R46,
R195). -/

namespace Sys2Proof.Machine

/-! ### What takes part -/

/-- Number under which the serve queue of lookups takes part, after every command queue (R195). -/
def serveQueue : Nat := 1024

/-- The queues that take part in the rounds, ascending. -/
def queueKeys (s : State) : List Nat := Sparse.keys s.queues ++ [serveQueue]

/-- WEIGHT of a queue. -/
def weightOf (s : State) (q : Nat) : Nat := if q = serveQueue then rd Reg.REMOTE_CFG_SERVE_WEIGHT 0 s else (queue s q).cfg.weight

/-- Whether a queue may be granted. -/
def grantable (s : State) (q : Nat) : Bool := if q = serveQueue then (nextLookup s).isSome else eligible s q

/-- Whether a queue is promoted. -/
def isPromoted (s : State) (q : Nat) : Bool := if q = serveQueue then s.arb.servePromoted else (queue s q).promoted

/-! ### The round (R45, R46) -/

/-- The next grant of the running round, with the round after it. A promoted queue's grant in part 1 counts among the WEIGHT
grants of its visit in part 2. -/
def nextInRound (s : State) (a : Arb) : Option (Nat × Arb) :=
  let p1 := if a.part = 1 then a.todo.find? (grantable s) else none
  match p1 with
  | some q => some (q, { a with todo := (a.todo.dropWhile (· != q)).drop 1, granted := q :: a.granted })
  | none =>
    let b := if a.part = 1 then { a with part := 2, todo := [], pos := 0, count := a.granted.count 0 } else a
    let had := fun q => if q = b.pos then b.count else b.granted.count q
    let may2 := fun q => decide (b.pos ≤ q) && decide (had q < weightOf s q) && grantable s q
    let p2 := if b.part = 2 then (queueKeys s).find? may2 else none
    match p2 with
    | some q =>
      some (q, { b with pos := q, count := had q + 1, granted := q :: b.granted, weighted := true })
    | none =>
      let d := if b.part = 2 then { b with part := 3, pos := 0 } else b
      let may3 := fun q => weightOf s q == 0 && decide (d.pos ≤ q) && grantable s q
      let p3 := if d.weighted then none else (queueKeys s).find? may3
      p3.map fun q => (q, { d with pos := q + 1, granted := q :: d.granted })

/-- Age of a queue after a round, and whether it is promoted for the next (R46). -/
def agedTo (s : State) (q age : Nat) : Nat × Bool :=
  let n := if s.arb.start.contains q && !s.arb.granted.contains q then age + 1 else 0
  if n ≥ rd Reg.ARB_AGE_LIMIT_LIMIT 0 s then (0, true) else (n, false)

/-- Ages at the end of a round (R46). -/
def endRound (s : State) : State :=
  if s.arb.inRound then
    let f := fun q (v : Queue) => { v with age := (agedTo s q v.age).1, promoted := (agedTo s q v.age).2 }
    let e := agedTo s serveQueue s.arb.serveAge
    { s with queues := Sparse.mapVals {} f s.queues, arb := { used := s.arb.used, serveAge := e.1, servePromoted := e.2 } }
  else s

/-- A new round: it begins only while a queue is eligible. -/
def beginRound (s : State) : Arb :=
  { s.arb with inRound := true, todo := (queueKeys s).filter (isPromoted s), start := (queueKeys s).filter (grantable s) }

/-- The queue granted next, with the state of the arbiter after the grant. DESIGN CHOICE: a round ends at the next ARBITER_GRANT
that finds no grant left in it, so that a later queue in ascending order that becomes eligible meanwhile is still served in the
old round (log entry 70). -/
def nextGrant (s : State) : Option (Nat × State) :=
  match (if s.arb.inRound then nextInRound s s.arb else none) with
  | some (q, a) => some (q, { s with arb := a })
  | none =>
    if (queueKeys s).any (grantable s) then
      let t := endRound s
      (nextInRound t (beginRound t)).map fun e => (e.1, { t with arb := e.2 })
    else none

/-- Carries out a grant: a command is issued to a free core, a lookup is served. -/
def grant (q : Nat) (s t : State) : State :=
  if q = serveQueue then
    match nextLookup t with
    | some w => grantLookup w t
    | none => s
  else match freeCore t, headCmd t q with
    | some k, some c => issueCmd c k t
    | _, _ => s

/-- ARBITER_GRANT (R45): one grant, where a queue is eligible, and for a command when a core is free. -/
def execArbiterGrant (s : State) : Host.Outcome State Fault Refusal :=
  done s (match nextGrant s with
    | some (q, t) => grant q s t
    | none => s)

end Sys2Proof.Machine
end

