-- ==== Sys2Proof/Machine/Merge.lean ====
section
/-! DEFINITION. MERGE_APPLY and its commit point: merged gradients, optimisers, adapter products, PENDING copies, the commit in
place, ZERO_ROWS, delayed scaling and the release of records (R17, R67, R72, R116, R123, R129, R132 to R134, R137, R212 to
R223, R227, R248). -/

namespace Sys2Proof.Machine

/-! ### Optimisers (R215) -/

/-- Parameters of an update: the optimiser, OPT_P0 to OPT_P3, and η. -/
structure OptCfg where
  /-- OPT -/
  opt : Nat
  /-- OPT_P0 -/
  p0 : F32
  /-- OPT_P1 -/
  p1 : F32
  /-- OPT_P2 -/
  p2 : F32
  /-- OPT_P3 -/
  p3 : F32
  /-- LR -/
  lr : F32

/-- Parameters of a table at a learning rate. -/
def optCfg (d : Desc) (lr : F32) : OptCfg :=
  ⟨d.opt, d.optP.getD 0 0#32, d.optP.getD 1 0#32, d.optP.getD 2 0#32, d.optP.getD 3 0#32, lr⟩

/-- Parameters and state of a vector: θ, per-element state, OPT_S0, OPT_S1. -/
structure OptVec where
  /-- θ -/
  th : List F32
  /-- v of momentum, m of Adam -/
  st : List F32
  /-- OPT_S0 -/
  s0 : F32
  /-- OPT_S1 -/
  s1 : F32
  deriving DecidableEq, Repr

/-- The stored t of row-wise Adam as a whole number. -/
def adamT (x : F32) : Nat :=
  match x.num with
  | .nan _ => 0
  | .inf neg => if neg then 0 else 2 ^ 24
  | .fin neg m e => if neg then 0 else min (m * 2 ^ e.toNat / 2 ^ (-e).toNat) (2 ^ 24)

/-- Whether the optimiser keeps OPT_S0 and OPT_S1. -/
def Desc.hasScal (d : Desc) : Bool := d.opt == 2 || d.opt == 3

/-- SGD. -/
def stepSgd (c : OptCfg) (v : OptVec) (g : List F32) : OptVec :=
  { v with th := List.zipWith (fun t x => F32.fma c.lr.neg (F32.fma c.p0 t x) t) v.th g }

/-- Momentum. -/
def stepMomentum (c : OptCfg) (v : OptVec) (g : List F32) : OptVec :=
  let d := List.zipWith (fun t x => F32.fma c.p1 t x) v.th g
  let n := List.zipWith (fun x y => F32.fma c.p0 x y) v.st d
  { v with th := List.zipWith (fun t x => F32.fma c.lr.neg x t) v.th n, st := n }

/-- FP32 nearest to the square root of an FP32 value. -/
def sqrt32 (x : F32) : F32 := sqrtNum x.num

/-- Row-wise Adagrad. -/
def stepAdagrad (c : OptCfg) (v : OptVec) (g : List F32) : OptVec :=
  let d := List.zipWith (fun t x => F32.fma c.p1 t x) v.th g
  let q := divNat (dotExact d d) v.th.length
  let acc := F32.add v.s0 q
  let den := F32.add (sqrt32 acc) c.p0
  let r := F32.div c.lr den
  { v with th := List.zipWith (fun t x => F32.fma r.neg x t) v.th d, s0 := acc }

/-- 1 − β^t exactly. -/
def oneLess (b : F32) (t : Nat) : Num := Num.one.add (b.num.pow t).neg

/-- Row-wise Adam. -/
def stepAdam (c : OptCfg) (v : OptVec) (g : List F32) : OptVec :=
  let c1 := round32 (Num.one.add c.p0.num.neg)
  let c2 := round32 (Num.one.add c.p1.num.neg)
  let m := List.zipWith (fun a x => F32.fma c.p0 a (F32.mul c1 x)) v.st g
  let q := divNat (dotExact g g) v.th.length
  let w := F32.fma c.p1 v.s0 (F32.mul c2 q)
  let t := min (adamT v.s1 + 1) (2 ^ 24)
  let s1 := round32 (oneLess c.p0 t)
  let s2 := sqrtNum (oneLess c.p1 t)
  let den := F32.add (sqrt32 w) (F32.mul c.p2 s2)
  let a := divNum (c.lr.num.mul s2.num) (s1.num.mul den.num)
  let k := F32.mul c.lr c.p3
  { th := List.zipWith (fun t x => F32.fma a.neg x (F32.fma k.neg t t)) v.th m, st := m, s0 := w
    s1 := round32 (.fin false t 0) }

/-- One update of a vector by the table's optimiser. -/
def optStep (c : OptCfg) (v : OptVec) (g : List F32) : OptVec :=
  match c.opt with
  | 0 => stepSgd c v g
  | 1 => stepMomentum c v g
  | 2 => stepAdagrad c v g
  | _ => stepAdam c v g

/-! ### Stored rows (R51, R52, R216) -/

/-- The trained part and state of a stored row. -/
def rowVec (d : Desc) (bs : List Byte) : OptVec :=
  let w := wideBits d.stateFmt / 8
  { th := if d.adapter then aElems d bs else baseElems d bs
    st := if d.hasState then (codesOf w d.trainLen (bs.drop d.offS)).map (toF32 d.stateFmt) else []
    s0 := toF32 0 (metaWord d bs 2).toNat
    s1 := toF32 0 (metaWord d bs 3).toNat }

/-- A part of codes padded to its tiles. -/
def partBytes (tiles fmt : Nat) (x : List F32) : List Byte := padTo (64 * tiles) (x.flatMap fun v => toLE (fmtBytes fmt) (ofF32 fmt v))

/-- The metadata tile with its optimiser scalars replaced, where the optimiser keeps them. -/
def metaBytes (d : Desc) (bs : List Byte) (v : OptVec) : List Byte :=
  let m := (bs.drop d.offM).take (64 * d.tm)
  if d.tm = 0 then []
  else if d.hasScal then m.take 8 ++ wordBytes v.s0 ++ wordBytes v.s1 ++ m.drop 16 else m

/-- A stored row with its trained part and state replaced, and its check words computed again. -/
def storeVec (d : Desc) (row : Nat) (bs : List Byte) (v : OptVec) : List Byte :=
  let data := if d.adapter then bs.take (64 * d.td) else partBytes d.td d.format v.th
  let a := if d.adapter then partBytes d.ta d.aFmt v.th else []
  let body := data ++ a ++ partBytes d.ts d.stateFmt v.st ++ metaBytes d bs v
  body ++ checkTiles d row body

/-! ### The merged gradient (R213) -/

/-- Slots of a step on a table, on every slice. -/
def stepSlots (s : State) (t step : Nat) : List Slot :=
  s.slices.flatMap fun e => e.2.slots.filter fun x => x.table == t && x.step == step && !x.prov

/-- Rows with slots, ascending. -/
def slotRows (xs : List Slot) : List Nat := sortBy (fun a b => decide (a < b)) (dedup (xs.map (·.row)))

/-- G of a row of `n` elements: each element of all its slots summed exactly and rounded once. -/
def mergedGrad (xs : List Slot) (row n : Nat) : List F32 :=
  let gs := (xs.filter fun x => x.row == row).map fun x => (Grad.mk x.fmt x.exp x.codes).nums
  (List.range n).map fun j => round32 (Num.sum (gs.map fun v => v.getD j Num.zero))

/-! ### Adapter products (R222, R248) -/

/-- Row k of a matrix B of a table. -/
def rowB (d : Desc) (b : List Word) (k : Nat) : List Word := (b.drop (k * d.rowLen)).take d.rowLen

/-- dA of a row. -/
def gradA (d : Desc) (b : List Word) (g : List F32) : List F32 := (List.range d.rank).map fun k => laneDot g (rowB d b k)

/-- The partial of dB of one slice: its rows in merge order. -/
def sliceB (d : Desc) (rs : List MRow) : Option (List F32) :=
  if rs.isEmpty then none
  else
    let as := rs.map fun r => (r.a, r.g)
    some ((List.range d.rank).flatMap fun k => (List.range d.rowLen).map fun j =>
      laneProduct (as.map fun e => some (e.1.getD k 0#32, e.2.getD j 0#32)))

/-- Combines partials in the tree of R89, element by element; none of none. -/
def treeB (n : Nat) (ps : List (Option (List F32))) : Option (List F32) :=
  if ps.all Option.isNone then none
  else some ((List.range n).map fun j => tree (ps.map fun p => p.map fun v => v.getD j 0#32))

/-- The chip's partial of dB: the slices in the order of their leaves. -/
def chipB (s : State) (c : Nat) (d : Desc) (rs : List MRow) : Option (List F32) :=
  let a := leavesOf s c
  treeB (d.rank * d.rowLen) ((List.range a).map fun l =>
    sliceB d (rs.filter fun r => logicalSlice s c (homeOf r.row) % a == l))

/-- B after its update by dB: each row by the table's optimiser with its own state and scalars (R222). -/
def stepB (d : Desc) (c : OptCfg) (m : BMat) (db : List F32) : BMat :=
  let vec := fun (k : Nat) =>
    let sc := m.scal.getD k (0#32, 0#32)
    ({ th := rowB d m.b k, st := ((m.st.drop (k * d.rowLen)).take d.rowLen).map fun x => toF32 d.stateFmt x.toNat, s0 := sc.1, s1 := sc.2 } : OptVec)
  let new := (List.range d.rank).map fun k => optStep c (vec k) (rowB d db k)
  { b := new.flatMap (·.th)
    st := new.flatMap fun v => v.st.map fun x => BitVec.ofNat 32 (ofF32 d.stateFmt x)
    scal := if d.hasScal then new.map fun v => (v.s0, v.s1) else [] }

/-! ### The merge (R212, R214, R216, R217) -/

/-- Modifies what a MERGE_APPLY keeps. -/
def modMerge (id : Nat) (f : Merge → Merge) (s : State) : State :=
  modCmd id (fun c => match c.work with
    | .merge m => { c with work := .merge (f m) }
    | _ => c) s

/-- Merges one row whose stored bytes have been read: its new content is PENDING (R213 to R216). -/
def mergeRow (c : Cmd) (ver : Nat) (xs : List Slot) (row : Nat) (bs : List Byte) (s : State) : State :=
  let t := Pkt.table c.words
  let d := (table s t).desc
  let g := mergedGrad xs row d.rowLen
  let dv := if d.adapter then gradA d (matB s t ver) g else g
  let new := storeVec d row bs (optStep (optCfg d (BitVec.ofNat 32 (Pkt.w9 c.words))) (rowVec d bs) dv)
  let m : MRow := if d.adapter then { row := row, a := aElems d bs, g := g } else { row := row, a := [], g := [] }
  placePending c.id (cmdSlice s c row) t row new (modMerge c.id (fun x => { x with rows := x.rows ++ [m] }) s)

/-- A row of a merge that cannot be read keeps its content (R217). -/
def mergeLost (c : Cmd) (row : Nat) (s : State) : State :=
  bump Reg.TBL_MERGE_CORRUPT_CNT_COUNT (Pkt.table c.words) 1 (modMerge c.id (fun m => { m with corrupt := m.corrupt ++ [row] }) s)

/-- A row read for a command has been used. -/
def usedRow (id row : Nat) (s : State) : State := progress id (modCmd id (fun d => { d with got := d.got.filter fun g => g.row != row }) s)

/-- Merges the rows that have been read, in ascending order, until one has still to come or waits for room in a cullet buffer; the rows
that are left. -/
def mergeGot (id ver : Nat) (xs : List Slot) : List Nat → State → State × List Nat
  | [], s => (s, [])
  | row :: rest, s =>
    match cmd? s id with
    | none => (s, row :: rest)
    | some c =>
      match gotOf c row with
      | none => (s, row :: rest)
      | some ⟨_, none⟩ => mergeGot id ver xs rest (usedRow id row (mergeLost c row s))
      | some ⟨_, some bs⟩ =>
        let x := orStall (id, Pkt.table c.words, row) s (usedRow id row (mergeRow c ver xs row bs s))
        if x.2 then mergeGot id ver xs rest x.1 else (x.1, row :: rest)

/-- Rows of a MERGE_APPLY not handled yet. -/
def mergeLeft (m : Merge) (rows : List Nat) : List Nat :=
  rows.filter fun r => !(m.rows.any fun x => x.row == r) && !m.corrupt.contains r

/-- Elements a B_PARTIAL message carries: its payload fills 64 KiB with its header. -/
def chunk (n : Nat) : Nat → List Word → List (List Word)
  | 0, _ => []
  | f + 1, ws => if ws.isEmpty then [] else ws.take n :: chunk n f (ws.drop n)

/-- A B_PARTIAL message (R209). -/
def bPartialBytes (s : State) (c : Cmd) (seq : Nat) (ws : List Word) : List Byte :=
  pushHeader s 3 0 c.ctx 0 (Pkt.table c.words) ws.length (Pkt.step c.words) 0 seq ++ bytesOf ws

/-- Sends this chip's partial of dB to every other chip of K (R223). -/
def sendB (c : Cmd) (db : Option (List Word)) (s : State) : State :=
  let ms := match db with
    | none => [[]]
    | some ws => chunk 16376 (ws.length + 1) ws
  ((jobChips s (Pkt.table c.words)).filter fun p => p != rd Reg.CHIP_ID_CHIP 0 s).foldl (fun t p =>
    ms.zipIdx.foldl (fun u m => sendPeer p (bPartialBytes u c m.2 m.1) u) t) s

/-- Every row of a step holds its new content: the partial of dB is formed and sent (R222, R223). -/
def mergeDone (id : Nat) (s : State) : State :=
  match cmd? s id with
  | none => s
  | some c =>
    let d := (table s (Pkt.table c.words)).desc
    let db := if d.adapter then chipB s c.ctx d (mergeOf c).rows else none
    let u := modMerge id (fun m => { m with merged := true, db := db }) s
    progress id (if d.adapter then sendB c db u else u)

/-- Reads and merges the rows of a step, as far as it goes (R214). -/
def mergeRows (c : Cmd) (ver : Nat) (s : State) : State :=
  let t := Pkt.table c.words
  let xs := stepSlots s t (Pkt.step c.words)
  let left := mergeLeft (mergeOf c) (slotRows xs)
  let a := wantRows c.id { uses := everyTile, fill := true, table := t, ver := ver, sliceOf := cmdSlice s c } left s
  if ((cmd? a c.id).map (·.phase)) != some .running then a
  else
    let x := mergeGot c.id ver xs left a
    if x.2.isEmpty then mergeDone c.id x.1 else x.1

/-- ST_NO_TABLE for a MERGE_APPLY whose working version is gone. -/
def noWorking (c : Cmd) : Verdict := (.noTable, Pkt.table c.words, noVersion)

/-- MERGE_APPLY (R212): it begins, waits for the SCATTER_GRADs of its step, and merges; while another merges it waits. -/
def runMerge (c : Cmd) (s : State) : State :=
  let t := Pkt.table c.words
  let tb := table s t
  match tb.working with
  | none => finish c.id (noWorking c) s
  | some w =>
    if tb.step ≥ Pkt.step c.words then finish c.id (.stepStale, tb.step, t) s
    else if tb.merging.isSome && tb.merging != some c.id then s
    else if (mergeOf c).merged then s
    else
      let u := modMerge c.id (fun m => { m with begun := true }) (setTable t { tb with merging := some c.id } s)
      let waits := s.cmds.any fun d => d.op == 3 && Pkt.table d.words == t && Pkt.step d.words == Pkt.step c.words
      if waits then u else mergeRows { c with work := .merge { mergeOf c with begun := true } } w.num u

/-- MERGE_APPLY (R212 to R217, R222, R223). -/
def execMergeApply (cmd : Nat) (s : State) : Host.Outcome State Fault Refusal := done s (onIssued cmd 0x04 s runMerge)

/-! ### The commit of a row (R67, R116, R123, R129, R132, R137) -/

/-- Whether a copy is an open copy of a row. -/
def Copy.openOf (c : Copy) (t row : Nat) : Bool := c.table == t && c.row == row && c.hi.isNone

/-- An open copy of an older version is closed at the version before. -/
def Copy.close (t row lo : Nat) (c : Copy) : Copy :=
  if c.openOf t row && decide (c.lo < lo) then { c with hi := some (lo - 1) } else c

/-- Whether a copy is the open copy of the working version itself. -/
def Copy.current (t row lo : Nat) (c : Copy) : Bool := c.openOf t row && c.lo == lo

/-- A copy under R116 where it stays in its place: the copy of the working version takes the new content, an older open one is closed. -/
def Copy.renew (t row lo : Nat) (bs : List Byte) (c : Copy) : Copy :=
  if c.current t row lo then { c with bytes := bs } else c.close t row lo

/-- R116 on a slice other than the row's own: every copy changes in its place. -/
def Slice.renewRow (t row lo : Nat) (bs : List Byte) (v : Slice) : Slice :=
  let way := fun (w : Way) =>
    if w.st == .clean || w.st == .dirty then { w with copy := w.copy.renew t row lo bs }
    else if w.st == .filling then { w with copy := w.copy.close t row lo } else w
  let entry := fun (e : Cull) => { e with copy := e.copy.renew t row lo bs }
  { v with
    sets := Sparse.mapVals {} (fun _ b => { b with ways := b.ways.map way }) v.sets
    punty := v.punty.map fun p => { p with copy := p.copy.renew t row lo bs }
    gob := v.gob.map (Copy.renew t row lo bs)
    cullet := v.cullet.map entry
    hold := v.hold.map entry
    kept := v.kept.map (Copy.renew t row lo bs) }

/-- R116 on the row's own slice: a way with the working version's copy takes the new content and is DIRTY, a pin takes it; such a copy in
the gob buffer goes, since the new content lies in a way; a write of it that waits is no longer read (R129). -/
def Slice.commitRow (t row lo : Nat) (bs : List Byte) (v : Slice) : Slice :=
  let way := fun (w : Way) =>
    if (w.st == .clean || w.st == .dirty) && w.copy.current t row lo then { w with st := .dirty, copy := { w.copy with bytes := bs } }
    else if w.st == .pending then w else { w with copy := w.copy.close t row lo }
  let entry := fun (e : Cull) =>
    if e.copy.current t row lo then { e with snooped := false } else { e with copy := e.copy.close t row lo }
  { v with
    sets := Sparse.mapVals {} (fun _ b => { b with ways := b.ways.map way }) v.sets
    punty := v.punty.map fun p => { p with copy := p.copy.renew t row lo bs }
    gob := (v.gob.filter fun x => !x.current t row lo).map (Copy.close t row lo)
    cullet := v.cullet.map entry
    hold := v.hold.map entry
    kept := (v.kept.filter fun x => !x.current t row lo).map (Copy.close t row lo) }

/-- The way of a slice that holds the open copy of a row. -/
def openWay (v : Slice) (t row : Nat) : Option (Nat × Nat × Way) :=
  v.sets.findSome? fun e => (e.2.ways.zipIdx.find? fun w =>
    (w.1.st == .clean || w.1.st == .dirty) && w.1.copy.openOf t row).map fun w => (e.1, w.2, w.1)

/-- Sets a way of a set of a slice. -/
def setWay (k w : Nat) (x : Way) (v : Slice) : Slice :=
  let b := Sparse.get {} v.sets k
  { v with sets := Sparse.set {} v.sets k { b with ways := setAt b.ways w x } }

/-- Gives a row of the working version its delta slot (R67): the reserved one, else the lowest free. -/
def takeSlot (t ver row : Nat) (s : State) : State :=
  let tb := table s t
  if !tb.pooled || (tb.slotOf ver row).isSome then s
  else
    let k := match tb.resv.find? (fun r => r.row == row) with
      | some r => some r.slot
      | none => (pickSlots tb 1).head?
    match k with
    | none => s
    | some n => setTable t { tb with delta := tb.delta ++ [{ version := ver, row := row, slot := n }]
                                     resv := tb.resv.filter fun r => r.row != row } s

/-- An older copy of a committed row that waits in the cullet buffer is copied into a new way, which is DIRTY, and the entry is read no
more (R129). DESIGN CHOICE: where no way is free the entry stays as it is, with its range closed (log entry 87). -/
def recopy (sl t row lo : Nat) (s : State) : State :=
  let v := slice s sl
  match idxOf (fun (e : Cull) => e.snooped && e.copy.openOf t row && decide (e.copy.lo < lo)) v.cullet with
  | none => s
  | some i =>
    let cp := ((v.cullet[i]?).map (·.copy)).getD {}
    (basinPlace sl .dirty cp 0 (setSlice sl { v with cullet := modAt v.cullet i fun e => { e with snooped := false } } s)).getD s

/-- The pins of the training line whose rows a commit replaces while they are on their way: what has been read of them is read again. -/
def rereads (c : Cmd) (t ver : Nat) : Bool := c.op == 7 && Pkt.table c.words == t && batchVer c == ver

/-- Fetches of a row in flight under R116: a range that a commit ends is closed, and the pins that wait for such a row ask for it again
(R70, R126). -/
def closeFetches (t ver row lo : Nat) (s : State) : State :=
  let pins := (s.cmds.filter fun c => rereads c t ver).map (·.id)
  let cut := fun (f : Fetch) =>
    if f.table == t && f.row == row && f.hi.isNone && decide (f.lo < lo) then
      { f with hi := some (lo - 1), version := min f.version (lo - 1), waiters := f.waiters.filter fun w => !pins.contains w }
    else f
  let again := fun (c : Cmd) =>
    if rereads c t ver then { c with asked := c.asked.filter (· != row), got := c.got.filter fun g => g.row != row } else c
  { s with fetches := s.fetches.map cut, cmds := s.cmds.map again }

/-- New content of a row takes effect in the working version `ver`, on its slice `sl` in its pin, in the way that held the working
version's copy, in the PENDING way of the command, or else through the cullet buffer; every other copy follows R116. DESIGN CHOICE:
the FREQ of the new way is that of the closed copy, and 0 where the closed copy lay in no way (log entry 74). -/
def commitRow (id sl t ver row : Nat) (bs : List Byte) (s0 : State) : State :=
  let lo := if (table s0 t).desc.versioned then ver else 0
  let s := recopy sl t row lo (closeFetches t ver row lo (takeSlot t ver row s0))
  let cp : Copy := { table := t, row := row, lo := lo, hi := none, bytes := bs }
  let v := slice s sl
  let held := openWay v t row
  let a := { s with slices := Sparse.mapVals {} (fun k x => if k = sl then x.commitRow t row lo bs else x.renewRow t row lo bs) s.slices }
  let x := slice a sl
  let pend := pendingWay v id t row
  let unpend := fun (y : Slice) => match pend with | some (k, w) => setWay k w {} y | none => y
  match commitPin s v t row with
  | some i =>
    let take := fun (p : Punty) => { p with copy := cp, dirty := true, pend := p.pend.filter fun e => e.1 != id }
    let b := setSlice sl { unpend x with punty := modAt x.punty i take } a
    match x.punty[i]? with
    | some p => if p.copy.hi.isSome then placeOrWrite sl p.copy p.dirty b else b
    | none => b
  | none =>
    if held.any fun e => e.2.2.copy.lo == lo then setSlice sl (unpend x) a
    else match pend with
      | some (k, w) => setSlice sl (setWay k w { st := .dirty, copy := cp, freq := (held.map fun e => e.2.2.freq).getD 0 } x) a
      | none => writeDirect sl cp a

/-- Commits one row of a step. -/
def commitOne (c : Cmd) (ver : Nat) (s : State) (row : Nat) : State :=
  let sl := cmdSlice s c row
  match newContent s c sl (Pkt.table c.words) row with
  | some bs => commitRow c.id sl (Pkt.table c.words) ver row bs s
  | none => s

/-! ### ZERO_ROWS at the commit (R133, R134) -/

/-- Whether a ZERO_ROWS has placed all its rows PENDING. -/
def zeroReady (s : State) (c : Cmd) : Bool := c.phase == .running && (rowsOf c).intake && (zeroLeft s c).isEmpty

/-- Zeroes the rows of one ZERO_ROWS and finishes it. -/
def zeroCommit (t ver : Nat) (s : State) (id : Nat) : State :=
  match cmd? s id with
  | none => s
  | some c =>
    if !zeroReady s c then s
    else
      let one := fun (u : State) (row : Nat) =>
        match newContent u c (trainSlice u t row) t row with
        | some bs => commitRow id (trainSlice u t row) t ver row bs u
        | none => u
      finish id okVerdict ((rowsOf c).rows.foldl one s)

/-- Zeroes the rows of the ZERO_ROWS that wait on a table, and finishes them. -/
def zeroRows (t ver : Nat) (s : State) : State :=
  let u := ((table s t).zero.map (·.cmd)).foldl (zeroCommit t ver) s
  setTable t { table u t with zero := (table u t).zero.filter fun z => !((cmd? u z.cmd).any fun c => c.phase == .done && c.status == .ok) } u

/-- Whether a commit of a table waits for a ZERO_ROWS that was admitted before it: it is issued or can be issued now, and its rows are not
all PENDING (R133, log entry 53). -/
def zeroWaits (s : State) (t : Nat) (c : Cmd) : Bool :=
  c.op == 5 && Pkt.table c.words == t && !(c.phase == .done) && !zeroReady s c
    && (c.phase != .admitted || ((headCmd s c.queue).any fun d => d.id == c.id) && eligible s c.queue)

/-! ### Delayed scaling (R220) -/

/-- floor(log2) of the largest of the history; 128 of +∞. -/
def histLog (m : Word) : Int :=
  match F32.num m with
  | .inf _ => 128
  | .fin _ k e => Fmt.floorLog2 k 1 e
  | .nan _ => 128

/-- E for the next step, and the history after this one (R220). -/
def nextExp (tb : Table) : Int × List Word :=
  let h := if tb.amaxAny then (tb.amax :: tb.hist).take tb.desc.amaxHist else tb.hist
  let m := BitVec.ofNat 32 (maxOf (h.map (·.toNat)))
  let q : Int := match tb.desc.actFmt with | 2 => 15 | 3 => 8 | _ => 15
  (if tb.desc.actFmt ≤ 1 then 0
   else if m = 0#32 then tb.gradExp
   else min (max (q - histLog m - 1) (-128)) 127, h)

/-! ### The commit point (R17, R218) -/

/-- Whether a forward command has rows of a table that its context trains still to read. -/
def Fwd.reads (f : Fwd) (t : Nat) : Bool :=
  (f.feats.any fun g => g.trained && g.table == t) && !(f.intake && f.rows.all fun r => r.table != t || r.done)

/-- Whether an interaction SCATTER_GRAD has rows of a table that its context trains still to gather again (R72, R245). -/
def interReads (s : State) (t : Nat) (c : Cmd) : Bool :=
  c.op == 3 && Pkt.feature c.words == 63 &&
  match fwdRecord s c with
  | none => false
  | some r => !r.marked.isEmpty && (r.feats.any fun g => g.trained && g.table == t)
      && !((scatterOf c).started && (fwdOf c).rows.all fun x => x.table != t || x.done)

/-- Whether a training command, or a training lookup of a peer, of a step up to `step` has rows of a table still to read (R72, R195). -/
def stillReading (s : State) (t step : Nat) : Bool :=
  (s.cmds.any fun c => c.phase != .done && decide (Pkt.step c.words ≤ step)
    && (((c.op == 1 || c.op == 2) && (fwdOf c).reads t) || interReads s t c))
  || s.remote.served.any fun w => w.table == t && w.step.any fun k => decide (k ≤ step)

/-- Whether an earlier TABLE_PUBLISH of the command's queue and table has yet to take effect (R64). -/
def publishBefore (s : State) (c : Cmd) : Bool :=
  s.cmds.any fun d => d.op == 0x12 && d.queue == c.queue && decide (d.id < c.id) && Pkt.table d.words == Pkt.table c.words
    && !(d.phase == .done)

/-- Whether a MERGE_APPLY may commit now. -/
def mayCommit (s : State) (c : Cmd) : Bool :=
  let t := Pkt.table c.words
  (mergeOf c).merged && !stillReading s t (Pkt.step c.words) && !publishBefore s c && !(s.cmds.any (zeroWaits s t))
    && (!(table s t).desc.adapter || (missingB s t (Pkt.step c.words)).isEmpty)

/-- dB over the chips of K (R223). -/
def jobB (s : State) (c : Cmd) : Option (List Word) :=
  let t := Pkt.table c.words
  let d := (table s t).desc
  treeB (d.rank * d.rowLen) ((jobChips s t).map fun p =>
    if p = rd Reg.CHIP_ID_CHIP 0 s then (mergeOf c).db else (partB s t (Pkt.step c.words) p).getD none)

/-- B after the step. -/
def commitB (c : Cmd) (w : Version) (s : State) : State :=
  let t := Pkt.table c.words
  let d := (table s t).desc
  if !d.adapter then s
  else match jobB s c with
  | none => s
  | some db =>
    setTable t ((table s t).modVersion w.num fun x =>
      { x with b := stepB d (optCfg d (BitVec.ofNat 32 (Pkt.w9 c.words))) x.b db }) s

/-- The counters of a table after a commit: the step, E, the history and the step maximum (R218, R220). -/
def commitCounters (t step : Nat) (s : State) : State :=
  let tb := table s t
  let e := nextExp tb
  setTable t { tb with step := step, gradExp := e.1, hist := e.2, amax := 0#32, amaxAny := false, resv := [], merging := none } s

/-- Frees the slots of a step on a table. -/
def freeSlotsOf (t step : Nat) (s : State) : State :=
  mapSlices (fun v => { v with slots := v.slots.filter fun x => !(x.table == t && x.step == step && !x.prov) }) s

/-- Releases and counts the records of a step or earlier on a table (R227); a command that has not completed is released when
it completes. -/
def releaseStep (t step : Nat) (s : State) : State :=
  let mine := fun (r : LehrRec) => decide (r.step ≤ step) && !(r.due [t]).isEmpty
  let n := sumOf ((s.lehr.filter fun r => mine r && r.complete).map fun r => (r.due [t]).length)
  let f := fun (r : LehrRec) =>
    if mine r then (if r.complete then r.pass [t] else { r with stale := r.stale ++ [t] }) else r
  let ended := fun (r : LehrRec) =>
    r.complete && r.spent && (!r.interacts || decide (r.step ≤ step) && r.feats.any fun g => g.trained && g.table == t)
  let u := { s with lehr := (s.lehr.map f).filter fun r => !ended r }
  if n = 0 then u else bump Reg.LEHR_UNUSED_CNT_COUNT 0 n u

/-- The reply of a MERGE_APPLY (R217, R221). -/
def mergeReply (c : Cmd) (m : Merge) (s : State) : State :=
  let t := Pkt.table c.words
  match m.corrupt with
  | [] => finish c.id (.ok, ((table s t).gradExp % 256).toNat, m.rows.length) s
  | r :: _ => corruptCmd c (homeSlice s c.ctx (homeOf r)) t r s

/-- A gather that a step held reads its rows once the step allows it (R18). -/
def releaseGather (s : State) (c : Cmd) : State :=
  match c.work with
  | .fwd f => if c.phase == .running && f.intake && !f.reading && mayRead s c f then fetchRows c.id s else s
  | _ => s

/-- Lets go the gathers that wait for a step. -/
def releaseGathers (s : State) : State := s.cmds.foldl releaseGather s

/-- The commit of a step in one cycle. -/
def commitStep (c : Cmd) (w : Version) (s : State) : State :=
  let t := Pkt.table c.words
  let step := Pkt.step c.words
  let m := mergeOf c
  let a := commitB c w ((m.rows.map (·.row)).foldl (commitOne c w.num) s)
  let b := zeroRows t w.num (commitCounters t step a)
  let d := releaseStep t step (freeSlotsOf t step b)
  let e := { d with remote := { d.remote with partsB := d.remote.partsB.filter fun x => !(x.1 == t && decide (x.2.1 ≤ step)) } }
  dropDeadGobs (takeHeld t (mergeReply c m e))

/-- Rows past the end of a slice's cullet buffer wait outside it, those that came last first. -/
def spillCullet (sl : Nat) : Nat → State → State
  | 0, s => s
  | n + 1, s =>
    let v := slice s sl
    if (loads s sl).all fun e => decide (e.1 ≤ e.2) then s
    else match v.cullet.getLast? with
      | some e => if e.issued then s else spillCullet sl n (setSlice sl { v with cullet := v.cullet.dropLast, kept := e.copy :: v.kept } s)
      | none => s

/-- Takes a commit, or waits while a cullet buffer that it would overflow still drains (R128). DESIGN CHOICE: what one commit evicts past
the size of an empty buffer waits outside it, so that no commit waits for ever (log entry 87). -/
def commitOrStall (k : WaitKey) (s t : State) : State × Bool :=
  let full := overSlices s t
  if full.any fun e => !((slice s e.1).cullet.isEmpty && (slice s e.1).hold.isEmpty) then (countWait k full s, false)
  else (full.foldl (fun u e => spillCullet e.1 (slice u e.1).cullet.length u) { t with waits := t.waits.filter (· != k) }, true)

/-- COMMIT_POINT (R72, R218): the commit, once every row holds its new content, the reads of the step are done, and the
partials of dB have come; gathers of the step after the next then read (R18). -/
def execCommitPoint (cmd : Nat) (s : State) : Host.Outcome State Fault Refusal :=
  done s (match cmd? s cmd with
    | none => s
    | some c =>
      if c.op != 4 || c.phase != .running then s
      else match (table s (Pkt.table c.words)).working with
        | none => finish c.id (noWorking c) s
        | some w =>
          if mayCommit s c then
            let x := commitOrStall (cmd, Pkt.table c.words, 2 ^ 40) s (commitStep c w s)
            if x.2 then releaseGathers x.1 else x.1
          else s)

end Sys2Proof.Machine
end

