-- ==== Sys2Proof/Machine/Contexts.lean ====
section
/-! DEFINITION. Contexts: opening, closing and resetting them, the abort frames that follow, and the partition layout (R275 to
R294, R300, R314 to R317). -/

namespace Sys2Proof.Machine

/-! ### Abort frames -/

/-- ERR_SEQ of a frame with no record behind it. -/
def noSeq : Nat := 0xFFFFFFFF

/-- An abort frame (R315, 12 Table 9). -/
def abortBytes (s : State) (reason job c gen err : Nat) : List Byte :=
  toLE 4 (0xA5 + reason * 2 ^ 8) ++ toLE 4 (rd Reg.CHIP_ID_CHIP 0 s) ++ toLE 4 job
  ++ toLE 4 (c + gen % 2 ^ 12 * 2 ^ 20) ++ toLE 4 err ++ toLE 8 s.cycle ++ toLE 4 0

/-- Peers with a connected abort queue pair. -/
def connectedPeers (s : State) : List Nat :=
  dedup ((s.remote.qps.filter fun e => e.2.abort.st == .connected).map fun e => e.1 / 4)

/-- Sends an abort frame to each of some peers. -/
def sendAborts (ps : List Nat) (bs : List Byte) (s : State) : State := ps.foldl (fun t p => send (.abort p bs) t) s

/-- The abort frames of a context (R316): a job of 0 goes to the peers its generation has contacted, any other to every
connected peer. -/
def abortCtx (c reason job err : Nat) (s : State) : State :=
  sendAborts (if job = 0 then (ctx s c).peers else connectedPeers s) (abortBytes s reason job c (ctx s c).gen err) s

/-! ### Fence and release -/

/-- A queue whose context is being closed or reset (02 Table 1). A DRAINING queue goes on draining. -/
def Queue.fence (v : Queue) : Queue :=
  match v.st with
  | .active => { v with st := .fenced }
  | .held => { v with st := .fenced }
  | .overrun => { v with st := .fenced }
  | _ => v

/-- A queue whose context's close or reset has ended: DISABLED, with ENABLE cleared (R407), once every packet whose fetch had
begun has posted its reply; until then it stays FENCED, and a DRAINING queue goes on draining (02 Table 1, R40). -/
def endFence (q : Nat) (s : State) : State :=
  let v := queue s q
  if v.st == .disabled || v.st == .draining then settleQueue q s
  else if allPosted s q then setQueue q { v with st := .disabled, enable := false } s
  else setQueue q { v with st := .fenced } s

/-- The end of a close or reset for every queue of a context. -/
def endFences (c : Nat) (s : State) : State :=
  ((Sparse.keys s.queues).filter fun q => (queue s q).cfg.ctx == c).foldl (fun t q => endFence q t) s

/-- Applies `f` to every queue of a context. -/
def ctxQueues (c : Nat) (f : Queue → Queue) (s : State) : State :=
  { s with queues := Sparse.mapVals {} (fun _ v => if v.cfg.ctx == c then f v else v) s.queues }

/-- The fence of a context in a new state; a CASCADE whose records are still being read is not admitted (R289 step 1), and its read
leaves its tag behind (R292). -/
def fenceCtx (c : Nat) (st : CState) (s : State) : State :=
  let t := ctxQueues c Queue.fence (setCtx c { ctx s c with st := st } s)
  let tag := fun (u : State) (d : Cmd) => setCtx c { ctx u c with tags := (d.gen, .cmd d.id) :: (ctx u c).tags } u
  (t.cmds.filter fun d => d.ctx == c && d.phase == .reading).foldl (fun u d => rejectCmd d (.ctxClosed, c, 0) (tag u d)) t

/-- Whether a context trains a table (R49). -/
def Table.trainedBy (t : Table) (c : Nat) : Bool := t.defined && t.desc.trainEn && t.desc.trainCtx == c

/-- What a context holds beside its commands: its lehr records, the slots, reservations and withheld pushes of the tables it
trains (R289 step 3, R208, R210, R227). -/
def releaseCtx (c : Nat) (s : State) : State :=
  let mine := fun (t : Nat) => (table s t).trainedBy c
  let t := mapSlices (fun v => { v with slots := v.slots.filter fun x => !mine x.table }) s
  let out := s.remote.heldPushes.filter fun h => mine (msgTable h.msg)
  let u :=
    { t with
      lehr := t.lehr.filter fun r => r.ctx != c
      tables := Sparse.mapVals {} (fun _ x => if x.trainedBy c then { x with resv := [] } else x) t.tables
      remote := { t.remote with heldPushes := t.remote.heldPushes.filter fun h => !mine (msgTable h.msg) } }
  out.foldl (fun x h => ackPush h.msg 5 (msgWord h.msg 6) 0 x) u

/-- The valves of a context's range at 0 (R283). -/
def zeroValves (x : Ctx) (s : State) : State :=
  { s with valves := s.valves.filter fun e => decide (e.1 < x.valveBase) || decide (e.1 ≥ x.valveBase + x.valveCount), mods := [] }

/-! ### CONTEXT_OPEN -/

/-- Defined bits of the words of a context record (R276). -/
def ctxMasks : List Nat :=
  [0x3, 0x800FFFFF, 0xFFFF, 0x1FFFF, 0, 0, 0, 0]
  ++ (List.replicate 6 [0xFFFFFFFF, 0xFFFFFFFF, 0xFFFFFFFF, 0x3]).flatten

/-- Window n of a context record. -/
def winOf (r : List Word) (n : Nat) : Win :=
  { base := addr64 r (8 + 4 * n), pages := wordAt r (10 + 4 * n), r := bit (wordAt r (11 + 4 * n)) 0,
    w := bit (wordAt r (11 + 4 * n)) 1 }

/-- Offences of an enabled window (R277). -/
def winOffences (r : List Word) (n : Nat) : List Offence :=
  let w := winOf r n
  offend (w.pages != 0 && (!isChip w.base || w.base % 4096 != 0)) (8 + 4 * n) 0
  ++ offend (w.pages != 0 && decide (w.base + w.pages * 4096 > 2 ^ 64)) (10 + 4 * n) 0

/-- Whether a context holds its valve range against others: OPEN, CLOSING or RESETTING. -/
def Ctx.holdsValves (x : Ctx) : Bool := x.st == .opened || x.st == .closing || x.st == .resetting

/-- Whether a context's range overlaps another. -/
def Ctx.overlaps (x : Ctx) (base n : Nat) : Bool :=
  decide (n ≠ 0) && decide (x.valveCount ≠ 0) && decide (base < x.valveBase + x.valveCount) && decide (x.valveBase < base + n)

/-- The lowest offending field of a context record (R277). -/
def ctxFault (s : State) (r : List Word) : Option Offence :=
  let base := field (wordAt r 2) 15 0
  let n := field (wordAt r 3) 16 0
  let p := field (wordAt r 1) 19 0
  let clash := s.ctxs.any fun e => e.2.holdsValves && e.2.overlaps base n
  let taken := bit (wordAt r 1) 31 && s.ctxs.any fun e => !(e.2.st == .free) && e.2.pasid == some p
  lowestOffence (reservedOffences ctxMasks 0 r ++ offend (decide (field (wordAt r 0) 1 0 ≥ (layoutOf s).length)) 0 0
    ++ offend (decide (base + n > 65536)) 3 0 ++ offend clash 2 0 ++ (List.range 6).flatMap (winOffences r) ++ offend taken 1 0)

/-- The context that a record opens: OPEN under its next generation. -/
def Ctx.opening (x : Ctx) (kind : Nat) (r : List Word) : Ctx :=
  { st := .opened, kind := kind, part := field (wordAt r 0) 1 0,
    pasid := if bit (wordAt r 1) 31 then some (field (wordAt r 1) 19 0) else none,
    valveBase := field (wordAt r 2) 15 0, valveCount := field (wordAt r 3) 16 0, wins := (List.range 6).map (winOf r),
    gen := (x.gen + 1) % 2 ^ 32, seq := x.seq, tags := x.tags }

/-- CONTEXT_OPEN of a FREE context (R277). -/
def openCtx (c : Cmd) (s : State) : State :=
  let t := Pkt.target c.words
  let r := readWords s (spaceOf s 0) (Pkt.addrA c.words) 32
  let u := noteRead c.id (Pkt.addrA c.words) s
  match ctxFault s r with
  | some (w, b) => finish c.id (.badField, fieldPos w b 14, 0) u
  | none =>
    let x := (ctx s t).opening (Pkt.kind c.words) r
    finish c.id okVerdict (wr Reg.CTX_LATE_CNT_COUNT t 0 (zeroValves x (setCtx t x u)))

/-- CONTEXT_OPEN (R277, R293): of a QUARANTINED context it waits. -/
def runOpen (c : Cmd) (s : State) : State :=
  let t := Pkt.target c.words
  match (ctx s t).st with
  | .free => openCtx c s
  | .quarantined => s
  | .opened => finish c.id (.versionState, t, 1) s
  | .closing => finish c.id (.versionState, t, 2) s
  | .resetting => finish c.id (.versionState, t, 4) s

/-- CONTEXT_OPEN (R275, R277, R293). -/
def execContextOpen (cmd : Nat) (s : State) : Host.Outcome State Fault Refusal := done s (onIssued cmd 0x28 s runOpen)

/-- CONTEXT_OPEN_WAIT_TIMEOUT (R293). -/
def execContextOpenWaitTimeout (cmd : Nat) (s : State) : Host.Outcome State Fault Refusal :=
  done s (onIssued cmd 0x28 s fun c t =>
    let k := Pkt.target c.words
    if c.phase == .running && (ctx s k).st == .quarantined then finish c.id (.drainTimeout, k, 0) t else s)

/-! ### CONTEXT_CLOSE -/

/-- Whether a generation waits on software: FAULTED, or stalled at a rill WAIT. -/
def streamStuck (s : State) (c : Cmd) : Bool :=
  let d := desc s (descNo c)
  if d.cmd = some c.id then
    d.st == .faulted || (d.st == .active && !d.ended && insOp (slotAt d.prog d.pc) == 5 && !d.waitOk
      && !rillWaitTrue s d (slotAt d.prog d.pc))
  else d.pend.map (·.1) == some c.id

/-- Whether a MERGE_APPLY waits under R212: for SCATTER_GRADs of its step, or for another MERGE_APPLY. -/
def mergeStuck (s : State) (c : Cmd) : Bool :=
  let t := Pkt.table c.words
  !(mergeOf c).merged
  && ((table s t).merging != some c.id && (table s t).merging.isSome
    || s.cmds.any fun d => d.op == 3 && Pkt.table d.words == t && Pkt.step d.words == Pkt.step c.words)

/-- Whether the progress of an issued command waits on a later command or on software (R289 step 2). -/
def stuck (s : State) (c : Cmd) : Bool :=
  (c.phase == .issued || c.phase == .running)
  && match c.op with
    | 0x01 => !(fwdOf c).reading && !mayRead s c (fwdOf c)
    | 0x02 => !(fwdOf c).reading && !mayRead s c (fwdOf c)
    | 0x04 => mergeStuck s c
    | 0x05 => true
    | 0x18 => streamStuck s c
    | 0x20 => isValveWait c
    | _ => false

/-- Whether a context has a command without its reply. -/
def hasCmds (s : State) (c : Nat) : Bool := s.cmds.any fun d => d.ctx == c

/-- Ends the commands of a closing context that wait on software. -/
def drainStuck (c : Nat) (s : State) : State :=
  let l := s.cmds.filter fun d => d.ctx == c && stuck s d
  endCommands (fun d => l.any fun e => e.id == d.id) (fun _ => (.aborted, 2, 0)) s

/-- Steps 3 to 5 of R289, with the abort frames of a cause (R316), and the reply of the CONTEXT_CLOSE. -/
def finishClose (c reason job err : Nat) (s : State) : State :=
  let t := abortCtx c reason job err (releaseCtx c s)
  let x := ctx t c
  let u := endFences c (setCtx c { x with st := .quarantined, closer := none, peers := [] } t)
  match x.closer with
  | none => u
  | some i => finish i (if x.late = 0 then okVerdict else (.drainTimeout, c, x.late)) u

/-- The drain of a closing context goes on; with no command left the close ends. -/
def tryClose (c : Nat) (s : State) : State :=
  let t := drainStuck c s
  if hasCmds t c then t else finishClose c 1 0 noSeq t

/-- The fence of a close (R289 step 1): commands not issued end. -/
def startClose (c by_ : Nat) (s : State) : State :=
  let t := fenceCtx c .closing s
  let u := setCtx c { ctx t c with closer := some by_, late := 0 } t
  tryClose c (endCommands (fun d => d.ctx == c && d.phase == .admitted) (fun _ => (.aborted, 2, 0)) u)

/-- CONTEXT_CLOSE (R288, R289); one that has waited for another close or a reset completes once that has ended. -/
def runClose (c : Cmd) (s : State) : State :=
  let t := Pkt.target c.words
  match (ctx s t).st with
  | .free => finish c.id okVerdict s
  | .quarantined => finish c.id okVerdict s
  | .opened => if c.phase == .running then finish c.id okVerdict s else startClose t c.id s
  | .closing => if (ctx s t).closer = some c.id then tryClose t s else s
  | .resetting => s

/-- CONTEXT_CLOSE (R288, R289). -/
def execContextClose (cmd : Nat) (s : State) : Host.Outcome State Fault Refusal := done s (onIssued cmd 0x29 s runClose)

/-- A command at the drain deadline: one whose work, frames and flushes are done keeps its status, one that has ended already flushes
on, and any other ends with ST_ABORTED and counts (R289 step 2, R300). -/
def deadlineOne (c : Nat) (s : State) (d : Cmd) : State :=
  match cmd? s d.id with
  | none => s
  | some e =>
    if e.phase == .done && !awaitsEnd e && flushed e.use then endCommand e (e.status, e.d0, e.d1) s
    else if e.ended then s
    else
      let t := endCommand e (.aborted, 2, 0) s
      setCtx c { ctx t c with late := (ctx t c).late + 1 } t

/-- CLOSE_DRAIN_DEADLINE (R289 step 2): the close ends, or waits for the flushes of what it ended (R39). -/
def execCloseDrainDeadline (ctx : CtxNo) (s : State) : Host.Outcome State Fault Refusal :=
  done s (
    let c := ctx.toNat
    if (Machine.ctx s c).st == .closing then
      let t := (s.cmds.filter fun d => d.ctx == c).foldl (deadlineOne c) s
      if hasCmds t c then t else finishClose c 1 0 noSeq t
    else s)

/-- QUARANTINE_END (R292): 2 ms have passed. The retiring of the last tag ends a quarantine before that. -/
def execQuarantineEnd (ctx : CtxNo) (s : State) : Host.Outcome State Fault Refusal :=
  done s (
    let x := Machine.ctx s ctx.toNat
    if x.st == .quarantined then setCtx ctx.toNat x.freed s else s)

/-! ### Context reset -/

/-- Ends every command of a context. -/
def endCtx (c : Nat) (v : Verdict) (s : State) : State := endCommands (fun d => d.ctx == c) (fun _ => v) s

/-- The fence of a context that is reset and the end of its commands (R294, R311 steps 1 and 3). -/
def haltCtx (c : Nat) (v : Verdict) (s : State) : State := endCtx c v (fenceCtx c .resetting s)

/-- The context OPEN under a new generation, its valves at 0 and its queues DISABLED (R294). -/
def reopenCtx (c : Nat) (s : State) : State :=
  let x := ctx s c
  endFences c (zeroValves x
    (setCtx c { x with st := .opened, gen := (x.gen + 1) % 2 ^ 32, closer := none, peers := [], halt := none } s))

/-- A RESET_DONE record: rung, partition, requester (12 Table 3). -/
def resetDone (rung part requester : Nat) (s : State) : State :=
  logErr 0x0065 0 none 0 (rung + part * 2 ^ 4 + requester * 2 ^ 8) s

/-- A context reset goes on once every command it ended has posted its reply: the release, the abort frames and the reopening (R294,
R311 steps 4 and 7). -/
def tryReset (c : Nat) (s : State) : State :=
  match (ctx s c).halt with
  | none => s
  | some h =>
    if hasCmds s c then s
    else resetDone 1 0 h.requester (reopenCtx c (abortCtx c h.reason h.job h.err (releaseCtx c s)))

/-- A context reset (R294, R311): ignored for context 0 and for a context that is not OPEN. -/
def resetCtx (c : Nat) (v : Verdict) (reason job err requester : Nat) (s : State) : State :=
  if c = 0 ∨ (ctx s c).st ≠ .opened then s
  else
    let t := haltCtx c v s
    tryReset c (setCtx c { ctx t c with halt := some { reason := reason, job := job, err := err, requester := requester } } t)

/-- What contexts do as the clock goes on: a reset or close whose commands have posted their replies ends, and so does a quarantine
with no tag left (R289, R292, R294). -/
def tickCtxs (s : State) : State :=
  (Sparse.keys s.ctxs).foldl (fun t c => settleQuarantine c (tryReset c t)) s

/-- Whether a rung exceeds the cap (R312). -/
def overCap (s : State) (rung : Nat) : Bool := decide (rung > rd Reg.ESC_CFG_MAX_RUNG 0 s)

/-- ACTION of a record whose condition requests a rung: the rung's code, or 8 where the cap holds it. -/
def rungAction (s : State) (rung : Nat) : Nat := if overCap s rung then 8 else rung

/-- A context reset that the engine requests itself; under a cap of 0 it fences the context alone (R312). -/
def autoResetCtx (c : Nat) (v : Verdict) (job err : Nat) (s : State) : State :=
  if overCap s 1 then (if c = 0 ∨ (ctx s c).st ≠ .opened then s else fenceCtx c .resetting s)
  else resetCtx c v 2 job err 1 s

/-- A write of UM_CTX_RESET (R294, R316). -/
def writeCtxReset (c : Nat) (jobAbort : Bool) (s : State) : State :=
  resetCtx c (.aborted, 1, 0) 2 (if jobAbort then rd Reg.CTX_JOB_JOB_ID c s else 0) noSeq 0 s

/-- CONTEXT_RESET (R294, R316). -/
def execContextReset (ctx : CtxNo) (jobAbort : Bool) (s : State) : Host.Outcome State Fault Refusal :=
  done s (apWrite 0x428 s (writeCtxReset ctx.toNat jobAbort))

/-! ### Abort frames between chips -/

/-- Frees the provisional slots of a sender's generation with their reservations, and its withheld pushes (R210, R317). -/
def freeGen (chip c gen : Nat) (s : State) : State :=
  let isIt := fun (o : SlotOwner) => match o with | .peer p k g _ => p == chip && k == c && g == gen | .chip _ => false
  let gone := s.slices.flatMap fun e => (e.2.slots.filter fun x => x.prov && isIt x.owner).map fun x =>
    match x.owner with | .peer _ _ _ r => 2 ^ 65 + chip * 2 ^ 32 + r | .chip i => i
  let t := mapSlices (fun v => { v with slots := v.slots.filter fun x => !(x.prov && isIt x.owner) }) s
  let free := fun (x : Table) =>
    let rs := x.resv.map fun r => { r with holders := r.holders.filter fun h => !(gone.contains h) }
    { x with resv := rs.filter fun r => !r.holders.isEmpty }
  { t with
    tables := Sparse.mapVals {} (fun _ x => free x) t.tables
    remote := { t.remote with heldPushes := t.remote.heldPushes.filter fun h => !isIt (pushOwner h.msg) } }

/-- Whether an abort frame is well formed: its length, MARK and reserved fields (R315, R317). -/
def abortOk (m : List Byte) : Bool :=
  m.length == 32 && field (msgWord m 0) 7 0 == 0xA5 && field (msgWord m 0) 31 16 == 0 && field (msgWord m 1) 31 12 == 0
  && field (msgWord m 3) 19 8 == 0 && msgWord m 7 == 0

/-- The contexts that an abort frame resets: OPEN ones of its job, but for those a frame reset within HOLDOFF_US. -/
def abortTargets (s : State) (job : Nat) (heldOff : Bool) : List Nat :=
  (Sparse.keys s.ctxs).filter fun c =>
    let x := ctx s c
    decide (c ≠ 0) && decide (job ≠ 0) && x.st == .opened && rd Reg.CTX_JOB_JOB_ID c s == job
      && !(heldOff && x.abortAt.isSome)

/-- Resets a context because of an abort frame (R317). -/
def resetByFrame (m : List Byte) (s : State) (c : Nat) : State :=
  let src := field (msgWord m 1) 11 0
  let reason := field (msgWord m 0) 15 8
  let t := logErr 0x0032 (rungAction s 1) (some c) 0 (src + reason * 2 ^ 16 + msgWord m 2 * 2 ^ 32) s
  let u := autoResetCtx c (.fabricAbort, src, reason) 0 s.errs.head t
  setCtx c { ctx u c with abortAt := some u.cycle } u

/-- ABORT_FRAME_RX (R317). `heldOff` says that HOLDOFF_US have not passed since a frame last reset the job's contexts. -/
def execAbortFrameRx (msg : List Byte) (heldOff : Bool) (s : State) : Host.Outcome State Fault Refusal :=
  done s (
    if !isReady s then s
    else if !abortOk msg then bump Reg.FABRIC_BAD_CNT_COUNT 0 1 s
    else
      let t := freeGen (field (msgWord msg 1) 11 0) (field (msgWord msg 3) 7 0) (field (msgWord msg 3) 31 20) s
      let l := abortTargets s (msgWord msg 2) heldOff
      if l.isEmpty then bump Reg.FABRIC_RX_CNT_COUNT 0 1 t
      else if rdb Reg.FABRIC_CFG_ABORT_ACT 0 s then l.foldl (resetByFrame msg) t else t)

/-- ABORT_TX_FAIL (R316): the record names the context of the frame; a frame of REASON 6 has none. -/
def execAbortTxFail (peer : ChipNo) (reason : Byte) (ctx : CtxNo) (s : State) : Host.Outcome State Fault Refusal :=
  done s (logErr 0x0033 0 (if reason = 6#8 then none else some ctx.toNat) 0 (peer.toNat + reason.toNat * 2 ^ 16) s)

/-- A write of UM_FABRIC_ABORT_SEND: a frame of REASON 6 to every connected peer (R316). -/
def sendFabricAbort (job : Nat) (s : State) : State :=
  sendAborts (connectedPeers s) (abortBytes s 6 job 0xFF 0 noSeq) s

/-- FABRIC_ABORT_SEND (R316). -/
def execFabricAbortSend (job : Word) (s : State) : Host.Outcome State Fault Refusal :=
  done s (apWrite 0x2074 s (sendFabricAbort job.toNat))

/-! ### The partition layout -/

/-- A write to LAYOUT (R280). -/
def writeLayout (v : Nat) (s : State) : State :=
  if v > 4 ∨ s.ctxs.any (fun e => decide (e.1 ≠ 0) && !(e.2.st == .free)) then wr Reg.PART_STAT_CFG_ERR 0 1 s
  else wr Reg.PART_CFG_LAYOUT 0 v s

/-- PART_LAYOUT_WRITE (R280). -/
def execPartLayoutWrite (layout : BitVec 4) (s : State) : Host.Outcome State Fault Refusal :=
  done s (apWrite 0x430 s (writeLayout layout.toNat))

end Sys2Proof.Machine
end

