-- ==== Sys2Proof/Machine/Units.lean ====
section
/-! DEFINITION. Units, spares and mapping epochs, and the exercisers (R165 to R167, R304, R323 to R326). -/

namespace Sys2Proof.Machine

/-! ### Commands that a failed unit ends -/

/-- Ends commands with ST_HW_ERROR, one record per context (R301); with no command one record that names none. -/
def endHw (cs : List Cmd) (code action u info : Nat) (s : State) : State :=
  let ks := dedup (cs.map (·.ctx))
  let t := logEach code action ks u info s
  cs.foldl (fun x c =>
    finish c.id (.hwError, (s.errs.head + (idxOf (fun k => k == c.ctx) ks).getD 0) % 2 ^ 32, 0) x) t

/-- Whether a fetch reads from a unit. -/
def fetchIn (s : State) (u : Nat) (f : Fetch) : Bool :=
  (f.place.tier == 1 || f.place.tier == 2) && (List.range (ceilDiv (table s f.table).desc.stride 64)).any fun i =>
    dramUnit s f.place.tier (f.place.addr + 64 * i) == some u

/-- Commands with requests outstanding in a unit: rows fetched or pooled there, and partials open in its weir (R165, R168). -/
def waitingIn (s : State) (u : Nat) : List Cmd :=
  s.cmds.filter fun c => !(c.phase == .done) &&
    ((s.fetches.any fun f => f.waiters.contains c.id && fetchIn s u f && f.kept.isNone)
      || s.partials.any fun p => p.cmd == c.id && p.vault == some (u % 4096) && u / 4096 == 6 && !p.closed)

/-- A memory unit that no longer answers: its fetches go, and the commands that wait for them end. -/
def silence (u code action info : Nat) (s : State) : State :=
  let cs := waitingIn s u
  (s.fetches.filter fun f => fetchIn s u f && f.kept.isNone).foldl (fun t f => dropFetch f (retireOld f.id t)) (endHw cs code action u info s)

/-! ### Positions -/

/-- Units that can serve a position of a kind (12 Table 14). -/
def rivals (kind i : Nat) : List Nat :=
  match kind with
  | 1 => List.range 17
  | 2 => List.range 9
  | 3 => (List.range 17).map (17 * (i / 17) + ·)
  | 6 => List.range 260
  | 8 => (List.range 9).map (9 * (i / 9) + ·)
  | _ => [i]

/-- Positions of a kind. -/
def positions (kind : Nat) : List Nat :=
  match kind with
  | 1 => List.range 16
  | 2 => List.range 8
  | 3 => (List.range 17).flatMap fun s => (List.range 16).map (17 * s + ·)
  | 4 => List.range 17
  | 5 => List.range 17
  | 6 => List.range 256
  | 7 => List.range 256
  | 8 => (List.range 4).flatMap fun p => (List.range 8).map (9 * p + ·)
  | _ => []

/-- Units of a kind (12 Table 2). -/
def unitCount (kind : Nat) : Nat :=
  match kind with
  | 1 => 17 | 2 => 9 | 3 => 289 | 4 => 17 | 5 => 17 | 6 => 260 | 7 => 256 | 8 => 36 | _ => 0

/-- Whether an identifier names a unit. -/
def isUnit (u : Nat) : Bool := decide (u % 4096 < unitCount (u / 4096))

/-- Whether no ACTIVE unit serves a position. -/
def vacant (s : State) (kind i : Nat) : Bool :=
  match physOf s kind i with
  | none => true
  | some p => !((unit s (unitId kind p)).st == .active)

/-- STANDBY units that can take a position, its own first. -/
def spares (s : State) (kind i : Nat) : List Nat :=
  let ok := fun (p : Nat) => (unit s (unitId kind p)).st == .standby
  (if ok i then [i] else []) ++ (rivals kind i).filter fun p => p != i && ok p

/-- Poisons a whole memory unit (R163, R165). -/
def poisonUnit (u : Nat) (s : State) : State :=
  let i := u % 4096
  if u / 4096 = 6 then poisonRange (vaultKey i 0) (vaultKey i (3 * 2 ^ 26)) s
  else poisonRange (channelKey i 0) (channelKey i (2 ^ 31)) s

/-- Enables the disabled ways of a slice, INVALID (R142). -/
def enableWays (sl : Nat) (s : State) : State :=
  let mine := fun (e : Nat × Nat × Nat × Nat) => e.1 == sl
  let t := (s.repair.ways.filter mine).foldl (fun x e =>
    let v := slice x sl
    let k := setKey e.2.1 e.2.2.1
    let b := setOf x v k
    setSlice sl (putSet k { b with ways := modAt b.ways e.2.2.2 fun w => if w.st == .disabled then {} else w } v) x) s
  wr Reg.BASIN_DISABLED_CNT_WAYS sl 0 (addRepair (fun r => { r with ways := r.ways.filter fun e => !mine e }) t)

/-- Keeps the vault map in the retention store: logical vault `i` on physical vault `p`. -/
def mapVault (i p : Nat) (s : State) : State :=
  addRepair (fun r => { r with vaults := (if p = i then [] else [(i, p)]) ++ r.vaults.filter fun e => e.1 != i }) s

/-- A unit joins a position (R324, R325, 12 Table 14). -/
def joinUnit (kind i p : Nat) (s : State) : State :=
  let u := unitId kind p
  let t := setUnit u { unit s u with st := .active, prefer := false } s
  let m := { t with units := { t.units with
    pos := Sparse.set Pos.own t.units.pos (unitId kind i) (if p = i then .own else .phys p) } }
  match kind with
  | 4 => setSlice p { slice m p with txbFail := false } m
  | 5 => enableWays p m
  | 6 => mapVault i p (poisonUnit u m)
  | 7 => poisonUnit u m
  | _ => m

/-- Gives a vacant position its unit, where one stands by. -/
def fillPos (s : State) (e : Nat × Nat) : State :=
  if vacant s e.1 e.2 then
    match spares s e.1 e.2 with
    | [] => s
    | p :: _ => joinUnit e.1 e.2 p s
  else s

/-- Positions that a mapping epoch outside a reset fills: slices and rim lane pairs wait for their own (12 Table 14). -/
def openPositions (s : State) : List (Nat × Nat) :=
  [2, 3, 4, 5, 6, 7].flatMap fun k => ((positions k).filter fun i => vacant s k i && !(spares s k i).isEmpty).map fun i => (k, i)

/-- Counts a mapping epoch (R13, R324). -/
def countEpoch (s : State) : State := wr Reg.MAP_EPOCH_EPOCH 0 (satAdd 32 (rd Reg.MAP_EPOCH_EPOCH 0 s) 1) s

/-- MAPPING_EPOCH (R324). -/
def execMappingEpoch (s : State) : Host.Outcome State Fault Refusal :=
  done s (if (openPositions s).isEmpty then s else countEpoch ((openPositions s).foldl fillPos s))

/-- A unit goes OFFLINE. -/
def takeOffline (u : Nat) (s : State) : State := setUnit u { unit s u with st := .offline } s

/-- ACTION of a unit's failure: 6 where a unit stands by for its position, else 7. -/
def takeover (s : State) (kind i : Nat) : Nat := if (spares s kind i).isEmpty then 7 else 6

/-- A vault leaves service and still answers: the reads issued to it complete there (R324). -/
def keepReads (u : Nat) (s : State) : State :=
  let read := fun (f : Fetch) => match fetchTiles s f with | .ok x => { f with kept := some (u % 4096, x) } | .error _ => f
  { s with fetches := s.fetches.map fun f => if fetchIn s u f && f.kept.isNone then read f else f }

/-- Whether a queued row of a vault has no spare row (R163, R165). -/
def queuedShort (s : State) (vault : Nat) : Bool :=
  s.repair.queued.any fun e => e.1 == vault && decide (sparesUsed s vault e.2.1 ≥ 16)

/-- The logical vault of a physical one. -/
def logicalVault (s : State) (p : Nat) : Nat := ((positions 6).find? fun i => physOf s 6 i == some p).getD p

/-- VAULT_OUT (R165): cause 1 no answer, 2 error limit, 3 a queued row without a spare. -/
def execVaultOut (vault : BitVec 9) (cause : BitVec 2) (s : State) : Host.Outcome State Fault Refusal :=
  done s (
    let v := vault.toNat
    let u := unitId 6 v
    let l := logicalVault s v
    let info := l + cause.toNat * 2 ^ 8
    let holds := match cause.toNat with
      | 1 => true
      | 2 => decide ((memUnit s u).ues > rd Reg.CIST_SCRUB_VAULT_UE_LIMIT 0 s)
      | 3 => queuedShort s v
      | _ => false
    if v ≥ 260 || !holds || !unitServes s u then s
    else
      let t := if cause.toNat = 1 then silence u 0x0023 (takeover s 6 l) info s
        else logErr 0x0023 (takeover s 6 l) none u info (keepReads u s)
      takeOffline u t)

/-- CHANNEL_OUT (R304, R168). -/
def execChannelOut (channel : BitVec 8) (s : State) : Host.Outcome State Fault Refusal :=
  done s (
    let u := unitId 7 channel.toNat
    if !unitServes s u then s else takeOffline u (silence u 0x0024 7 0 s))

/-! ### UM_UNIT_CTRL (R323, R325) -/

/-- The unit in UM_UNIT_SEL. -/
def selUnit (s : State) : Nat := rd Reg.UNIT_SEL_KIND 0 s * 4096 + rd Reg.UNIT_SEL_INDEX 0 s

/-- The position an ACTIVE unit serves. -/
def servedBy (s : State) (u : Nat) : Option Nat := (positions (u / 4096)).find? fun i => physOf s (u / 4096) i == some (u % 4096)

/-- A write of OFFLINE: refused unless the unit is a basin way, or serves a position that a STANDBY unit can take. A slice leaves
at the next reset of its partition. -/
def offlineUnit (s : State) : State :=
  let u := selUnit s
  let x := unit s u
  if !isUnit u then s
  else
    let ok := x.st == .active && (u / 4096 == 5 || match servedBy s u with
      | some i => !(spares s (u / 4096) i).isEmpty
      | none => false)
    if !ok then wr Reg.UNIT_STAT_REFUSED u 1 s
    else if u / 4096 = 1 then setUnit u { x with leaving := true } s
    else takeOffline u (if u / 4096 = 6 then keepReads u s else s)

/-- UNIT_OFFLINE (R323). -/
def execUnitOffline (s : State) : Host.Outcome State Fault Refusal := done s (apWrite 0x20C8 s offlineUnit)

/-- A write of RESTORE: an OFFLINE unit enters SCRUB (R323). -/
def restoreUnit (s : State) : State :=
  let u := selUnit s
  if isUnit u && (unit s u).st == .offline then setUnit u { unit s u with st := .scrub } s else s

/-- UNIT_RESTORE (R323). -/
def execUnitRestore (s : State) : Host.Outcome State Fault Refusal := done s (apWrite 0x20C8 s restoreUnit)

/-- A write of PREFER: a STANDBY slice takes its own position back at the next reset of its partition (R325). -/
def preferUnit (s : State) : State :=
  let u := selUnit s
  if decide (u / 4096 = 1) && isUnit u && (unit s u).st == .standby then setUnit u { unit s u with prefer := true } s else s

/-- UNIT_PREFER (R325). -/
def execUnitPrefer (s : State) : Host.Outcome State Fault Refusal := done s (apWrite 0x20C8 s preferUnit)

/-- A slice after its SRAM is cleared: DISABLED ways and the TXB's failure stay. -/
def Slice.cleared (v : Slice) : Slice :=
  let bare := fun (b : BSet) =>
    if b.ways.any fun w => w.st == .disabled then ({ ways := b.ways.map fun w => if w.st == .disabled then w else {} } : BSet)
    else {}
  { sets := Sparse.mapVals {} (fun _ b => bare b) v.sets, txbFail := v.txbFail }

/-- The memory of a unit written with zeros, no byte of it poisoned (R323, R352). -/
def zeroUnit (u : Nat) (s : State) : State :=
  let i := u % 4096
  let lo := if u / 4096 = 6 then vaultKey i 0 else channelKey i 0
  let hi := if u / 4096 = 6 then vaultKey i (3 * 2 ^ 26) else channelKey i (2 ^ 31)
  { s with tiers :=
    { s.tiers with
      dram := s.tiers.dram.filter fun e => decide (e.1 < lo) || decide (e.1 ≥ hi)
      poison := s.tiers.poison.filter fun e => decide (e.1 < lo) || decide (e.1 ≥ hi) } }

/-- UNIT_SCRUB_DONE (R323): cleared state and zeroed memory; SELFTEST follows. -/
def execUnitScrubDone (unit : UnitId) (s : State) : Host.Outcome State Fault Refusal :=
  done s (
    let u := unit.toNat
    let x := Machine.unit s u
    if !(x.st == .scrub) then s
    else
      let t := setUnit u { x with st := .selftest } s
      match u / 4096 with
      | 1 => setSlice (u % 4096) (slice t (u % 4096)).cleared t
      | 6 => zeroUnit u (setMemUnit u { memUnit t u with found := [], ues := 0 } t)
      | 7 => zeroUnit u (setMemUnit u { memUnit t u with found := [], ues := 0 } t)
      | _ => t)

/-- The FAILS of a unit kept in the repair map. -/
def keepFails (u n : Nat) (s : State) : State :=
  addRepair (fun r => { r with failed := r.failed.filter (fun e => e.1 != u) ++ [(u, n)] }) s

/-- TXB_FAIL of the TXB that a unit is, if it is one (R233). -/
def markTxb (u : Nat) (s : State) : State :=
  if u / 4096 = 4 then setSlice (u % 4096) { slice s (u % 4096) with txbFail := true } s else s

/-- A failed self-test: OFFLINE with FAILS raised, or FAILED (R323). The lane test that fails a TXB sets TXB_FAIL and is recorded
(R233). -/
def failTest (u : Nat) (s : State) : State :=
  let x := unit s u
  let n := x.fails + 1
  let t := keepFails u n (setUnit u { x with fails := n, st := if n ≥ rd Reg.UNIT_CFG_MAX_TRIES 0 s then .failed else .offline } s)
  if u / 4096 = 4 then logErr 0x0050 7 none u 0 (markTxb u t) else t

/-- SELFTEST_DONE (R322 Table 14, R323): a memory unit comes out of its exerciser poisoned (R166); a lane test that fails a TXB is
recorded (R233). -/
def execSelftestDone (unit : UnitId) (pass : Bool) (s : State) : Host.Outcome State Fault Refusal :=
  done s (
    let u := unit.toNat
    let x := Machine.unit s u
    if !(x.st == .selftest) then s
    else
      let t := if u / 4096 = 6 ∨ u / 4096 = 7 then poisonUnit u s else s
      if pass then setUnit u { x with st := .standby } t
      else failTest u t)

/-! ### Exercisers (R166, R167) -/

/-- Bytes of a memory unit. -/
def unitBytes (u : Nat) : Nat := if u / 4096 = 6 then 3 * 2 ^ 26 else 2 ^ 31

/-- The unit in UM_EXER_SEL. -/
def selExer (s : State) : Nat := unitId (6 + rd Reg.EXER_SEL_KIND 0 s) (rd Reg.EXER_SEL_INDEX 0 s)

/-- The range a run covers: the whole rest of the unit where LEN is 0 (R397). -/
def exerRange (s : State) (u : Nat) : Nat × Nat :=
  let b := rd Reg.EXER_BASE_BASE u s * 256
  let n := rd Reg.EXER_LEN_LEN u s * 256
  (b, if n = 0 then unitBytes u - b else min n (unitBytes u - b))

/-- Whether an exerciser may start on a unit (R166). -/
def exerAllowed (s : State) (u : Nat) : Bool :=
  (unit s u).st == .offline || (unit s u).st == .selftest || !s.arb.used

/-- Whether UM_EXER_CFG of a unit holds an encoding that a run refuses (R397). -/
def exerBadCfg (s : State) (u : Nat) : Bool := decide (rd Reg.EXER_CFG_DATA u s > 5) || decide (rd Reg.EXER_CFG_OPS u s > 2)

/-- A write of START. -/
def startExer (s : State) : State :=
  let u := selExer s
  if !isUnit u then s
  else if !exerAllowed s u || (memUnit s u).exer.isSome || exerBadCfg s u then wr Reg.EXER_STAT_REFUSED u 1 s
  else
    let zero := fun (t : State) (f : Fld) => wr f u 0 t
    [Reg.EXER_ERR_CNT_COUNT, Reg.EXER_ERR_ADDR_ADDR, Reg.EXER_ERR_XOR_XOR, Reg.EXER_BYTES_BYTES, Reg.EXER_CYCLES_CYCLES,
      Reg.EXER_STAT_DONE, Reg.EXER_STAT_PASS].foldl zero
      (wr Reg.EXER_STAT_BUSY u 1 (setMemUnit u { memUnit s u with exer := some (exerRange s u) } s))

/-- EXER_START (R166, R397). -/
def execExerStart (s : State) : Host.Outcome State Fault Refusal := done s (apWrite 0x104C s startExer)

/-- The data word at a unit byte address under a pattern and seed (R167); a DATA above 5 is unstated (log entry 22). -/
def exerWord (pattern seed x : Nat) (free : Nat) : Nat :=
  match pattern with
  | 0 =>
    let w := ((x / 4) ^^^ (if seed = 0 then 1 else seed)) * 0x9E3779B9 % 2 ^ 32
    w ^^^ (w / 2 ^ 15)
  | 1 => x % 2 ^ 32
  | 2 => if x / 32 % 2 = 0 then 0x55555555 else 0xAAAAAAAA
  | 3 => 2 ^ (x / 4 % 32)
  | 4 => 0
  | 5 => 0xFFFFFFFF
  | _ => free

/-- Bytes of an access of an ORDER: a block, or a sector (log entry 88). -/
def exerSize (order : Nat) : Nat := if order = 1 then 256 else 32

/-- The units that RANDOM order visits, of `n` (R167). -/
def exerRandom (seed n : Nat) : List Nat :=
  let m := if n ≤ 1 then 1 else 2 ^ (Nat.log2 (n - 1) + 1)
  let step := fun (a : Nat × List Nat) (_ : Nat) =>
    let u := (5 * a.1 + 2 * seed + 1) % m
    (u, if u < n then u :: a.2 else a.2)
  ((List.range m).foldl step (0, [])).2.reverse

/-- Whether a unit address lies in the bank of another, in a DRAM row `k` beyond it; banks of a channel are of one pseudo-channel
(R146, R155). -/
def sameBank (channel : Bool) (b x k : Nat) : Bool :=
  (bankRow x).1 == (bankRow b).1 && (bankRow x).2 == (bankRow b).2 + k && (!channel || (pcSector x).1 == (pcSector b).1)

/-- Takes turns between two lists. -/
def takeTurns : List Nat → List Nat → List Nat
  | [], ys => ys
  | x :: xs, ys => match ys with
    | [] => x :: xs
    | y :: zs => x :: y :: takeTurns xs zs

/-- Unit addresses in the order in which a pass accesses the range of `n` bytes from `b` (R167, Table 7). DESIGN CHOICE: PING takes the
sectors of the range in the DRAM row of `b` and in the next row of its bank, in turn (log entry 88). -/
def exerVisits (channel : Bool) (order seed b n : Nat) : List Nat :=
  let k := n / exerSize order
  let at_ := fun (i : Nat) => b + i * exerSize order
  match order with
  | 0 => (List.range k).map at_
  | 3 =>
    let xs := (List.range k).map at_
    takeTurns (xs.filter fun x => sameBank channel b x 0) (xs.filter fun x => sameBank channel b x 1)
  | _ => (exerRandom seed k).map at_

/-- The accesses of a run that compare, in order (R167): under OPS 0 the read pass; under OPS 2 the reads of what the run has written
before. DEDUCED: a read-only run has written nothing, and compares against nothing (log entry 88). -/
def exerReads (ops pct : Nat) (visits : List Nat) : List Nat :=
  match ops with
  | 0 => visits
  | 1 => []
  | _ =>
    let step := fun (a : List Nat × List Nat) (e : Nat × Nat) =>
      if e.2 * 37 % 100 < pct then (e.1 :: a.1, a.2) else if e.1 ∈ a.1 then (a.1, a.2 ++ [e.1]) else a
    (visits.zipIdx.foldl step ([], [])).2

/-- Lowest of some faulty words by address. -/
def firstFault : List (Word × Word) → Option (Word × Word)
  | [] => none
  | e :: es => match firstFault es with
    | none => some e
    | some x => some (if x.1.toNat < e.1.toNat then x else e)

/-- The results of a run: the words that miscompare, the first of them in the order of the run, and its passes' bytes (R166, R167). -/
def exerResults (s : State) (u b n : Nat) (result : ExerResult) : List (Fld × Nat) :=
  let order := rd Reg.EXER_CFG_ORDER u s
  let ops := rd Reg.EXER_CFG_OPS u s
  let seed := rd Reg.EXER_SEED_SEED u s
  let want := fun (x : Word) => exerWord (rd Reg.EXER_CFG_DATA u s) seed x.toNat (freeWord s).toNat
  let visits := exerVisits (u / 4096 == 7) order (if seed = 0 then 1 else seed) b n
  let reads := exerReads ops (rd Reg.EXER_CFG_WRITE_PCT u s) visits
  let size := exerSize order
  let inside := fun (a : Nat) (e : Word × Word) => decide (a ≤ e.1.toNat) && decide (e.1.toNat < a + size)
  let wrong := result.faults.filter fun e => e.1.toNat % 4 == 0 && e.2.toNat != want e.1
  let met := wrong.filter fun e => reads.any fun a => inside a e
  let first := firstFault ((reads.find? fun a => wrong.any (inside a)).elim [] fun a => wrong.filter (inside a))
  [(Reg.EXER_STAT_BUSY, 0), (Reg.EXER_STAT_DONE, 1), (Reg.EXER_STAT_PASS, b2n met.isEmpty),
    (Reg.EXER_ERR_CNT_COUNT, min met.length (2 ^ 32 - 1)),
    (Reg.EXER_ERR_ADDR_ADDR, (first.map fun e => e.1.toNat).getD 0),
    (Reg.EXER_ERR_XOR_XOR, (first.map fun e => want e.1 ^^^ e.2.toNat).getD 0),
    (Reg.EXER_BYTES_BYTES, (if ops = 0 then 2 else 1) * visits.length * size),
    (Reg.EXER_CYCLES_CYCLES, result.cycles.toNat)]

/-- EXER_DONE (R166, R167): the run ends with its results, and its range is poisoned. -/
def execExerDone (kind : BitVec 1) (index : BitVec 9) (result : ExerResult) (s : State) : Host.Outcome State Fault Refusal :=
  done s (
    let u := unitId (6 + kind.toNat) index.toNat
    match (memUnit s u).exer with
    | none => s
    | some (b, n) =>
      let lo := if u / 4096 = 6 then vaultKey (u % 4096) b else channelKey (u % 4096) b
      let t := poisonRange lo (lo + n) (setMemUnit u { memUnit s u with exer := none } s)
      let v := (exerResults s u b n result).foldl (fun (x : State) (e : Fld × Nat) => wr e.1 u e.2 x) t
      if rd Reg.EXER_CFG_DATA u s > 5 then useFree 1 v else v)

end Sys2Proof.Machine
end

