-- ==== Sys2Proof/Machine/Hang.lean ====
section
/-! DEFINITION. The hang detector: what each stalled command waits for, and its class (R307 to R309). -/

namespace Sys2Proof.Machine

/-- Edges of a stalled node (12 Table 5). -/
structure Waits where
  /-- commands waited on -/
  nodes : List Nat := []
  /-- SOFTWARE -/
  software : Bool := false
  /-- EXTERNAL -/
  ext : Bool := false
  /-- RESOURCE -/
  resource : Bool := false
  deriving DecidableEq, Repr

/-- A wait for some commands, and for SOFTWARE when no such command exists. -/
def Waits.on (l : List Nat) : Waits := { nodes := l, software := l.isEmpty }

/-- A wait outside the engine. -/
def Waits.outside : Waits := { ext := true }

/-- A wait for a credit, a buffer, a reservation or a core. -/
def Waits.room : Waits := { resource := true }

/-- Both waits. -/
def Waits.and (a b : Waits) : Waits :=
  { nodes := a.nodes ++ b.nodes, software := a.software || b.software, ext := a.ext || b.ext, resource := a.resource || b.resource }

/-- `a` where `p` holds. -/
def Waits.when (p : Bool) (a : Waits) : Waits := if p then a else {}

/-- Numbers of the admitted commands `p` names. -/
def nodesOf (s : State) (p : Cmd → Bool) : List Nat := (s.cmds.filter fun d => !(d.phase == .reading) && p d).map (·.id)

/-! ### Waits on a valve -/

/-- Whether a program posts a valve. -/
def progPosts (p : List Word) (v : Nat) : Bool :=
  (List.range (ninstr p)).any fun i => insOp (slotAt p i) == 4 && insValve (slotAt p i) == v

/-- Whether the generation of a STREAM_ARM, current or pending, posts a valve. -/
def armPosts (s : State) (c : Cmd) (v : Nat) : Bool :=
  let d := desc s (descNo c)
  c.op == 0x18 && (if d.cmd = some c.id then progPosts d.prog v else d.pend.any fun e => e.1 == c.id && progPosts e.2 v)

/-- Commands and generations of a context that post a valve. -/
def posters (s : State) (k v : Nat) : List Nat :=
  nodesOf s fun d => d.ctx == k && ((Pkt.postEn d.words && Pkt.postValve d.words == v) || armPosts s d v)

/-! ### Waits by command -/

/-- Waits of a command that is not issued: the host path of a HELD queue, software where its queue is in OVERRUN, the command
before it in its queue, the orders of R36 and R37, its valve, or a free core. -/
def waitsAdmitted (s : State) (c : Cmd) : Waits :=
  let q := queue s c.queue
  let ahead := nodesOf s fun d => d.queue == c.queue && decide (d.id < c.id) && d.phase == .admitted
  let before := nodesOf s fun d => d.queue == c.queue && decide (d.id < c.id)
    && (Pkt.barrier c.words || ((d.op == 0x10 || d.op == 0x11) && (tablesOf c).contains (Pkt.table d.words)))
  let fwds := nodesOf s fun d => c.op == 3 && isForwardOf c d && (d.queue != c.queue || decide (d.id < c.id))
  let host := q.st == .held || (!(s.host.st == .opened) && q.cfg.policy == 0 && needsHost s c)
  let dry := Pkt.waitEn c.words && !c.waitOk && valve s (Pkt.waitValve c.words) == 0
  if host then .outside
  else if q.st == .overrun then { software := true }
  else if !ahead.isEmpty then { nodes := ahead }
  else if Pkt.barrier c.words && before.isEmpty && replyWaits s c then .outside
  else if !(before ++ fwds).isEmpty then { nodes := before ++ fwds }
  else if dry then .on (posters s c.ctx (Pkt.waitValve c.words))
  else .room

/-- Whether a row for a command is on its way from an outer tier. -/
def outerFetch (s : State) (c : Cmd) : Bool := s.fetches.any fun x => x.waiters.contains c.id && decide (x.place.tier ≥ 3)

/-- Waits for rows: an outer tier, or room. -/
def waitsRows (s : State) (c : Cmd) : Waits := if outerFetch s c then .outside else .room

/-- Waits of a forward command: the commits of R18, a cullet buffer or lehr space, peers, outer tiers, and its tower channels. -/
def waitsFwd (s : State) (c : Cmd) (f : Fwd) : Waits :=
  let late := dedup ((f.feats.filter fun g => g.trained && (table s g.table).step + 1 != Pkt.step c.words).map (·.table))
  let commit := fun t => Waits.on (nodesOf s fun d => d.op == 4 && Pkt.table d.words == t
    && Pkt.step d.words + 1 == Pkt.step c.words)
  if !f.intake then .room
  else if !f.reading then late.foldl (fun w t => w.and (commit t)) {}
  else
    let peers := s.remote.lookups.any fun l => l.cmd == c.id
    (Waits.when (outerFetch s c || peers || !f.frames.isEmpty || resultDone c f) .outside).and (.when (s.waits.any fun w => w.1 == c.id) .room)

/-- Waits of a SCATTER_GRAD: its forward command, its gradients, its peers, or space. -/
def waitsScatter (s : State) (c : Cmd) (g : Scatter) : Waits :=
  let fwds := nodesOf s (isForwardOf c)
  let inter := nodesOf s fun d => d.op == 3 && d.id != c.id && d.ctx == c.ctx && Pkt.feature d.words == 63
    && Pkt.fwdTag d.words == Pkt.fwdTag c.words && Pkt.step d.words == Pkt.step c.words
  if !g.started then
    if !fwds.isEmpty then { nodes := fwds }
    else if Pkt.feature c.words ≠ 63 ∧ !inter.isEmpty then { nodes := inter }
    else .room
  else if g.frames || !g.pushes.isEmpty || s.remote.lookups.any fun l => l.cmd == c.id then .outside
  else waitsRows s c

/-- Waits of a MERGE_APPLY: another merge, the SCATTER_GRADs of its step, the reads of R72, an earlier publish or ZERO_ROWS, the lookups and
partials of its peers, or the cullet buffer. -/
def waitsMerge (s : State) (c : Cmd) (m : Merge) : Waits :=
  let t := Pkt.table c.words
  let other := nodesOf s fun d => (table s t).merging == some d.id && d.id != c.id
  let scatters := nodesOf s fun d => d.op == 3 && Pkt.table d.words == t && Pkt.step d.words == Pkt.step c.words
  let readers := nodesOf s fun d => d.id != c.id &&
    (stillReading { s with cmds := [d], remote := { s.remote with served := [] } } t (Pkt.step c.words)
      || publishBefore { s with cmds := [d] } c || zeroWaits s t d)
  let peers := s.remote.served.any fun w => w.table == t && w.step.any fun k => decide (k ≤ Pkt.step c.words)
  if !m.merged then
    if !other.isEmpty then { nodes := other } else if !scatters.isEmpty then { nodes := scatters } else waitsRows s c
  else if !readers.isEmpty then { nodes := readers, ext := peers }
  else if peers then .outside
  else if (table s t).desc.adapter && !(missingB s t (Pkt.step c.words)).isEmpty then .outside
  else .room

/-- Waits of a STREAM_ARM: the generation before it, a translation, its valve, an engine, or the host path. -/
def waitsStream (s : State) (c : Cmd) : Waits :=
  let d := desc s (descNo c)
  let w := slotAt d.prog d.pc
  if d.cmd ≠ some c.id then { nodes := d.cmd.toList }
  else if d.st == .faulted then .outside
  else if !holdsEngine s d.order then .room
  else if insOp w = 5 then .on (posters s c.ctx (insValve w))
  else .outside

/-- Waits of a command whose row has run. -/
def waitsRunning (s : State) (c : Cmd) : Waits :=
  let t := Pkt.table c.words
  match c.op with
  | 0x01 => waitsFwd s c (fwdOf c)
  | 0x02 => waitsFwd s c (fwdOf c)
  | 0x03 => waitsScatter s c (scatterOf c)
  | 0x04 => waitsMerge s c (mergeOf c)
  | 0x05 =>
    if zeroReady s c then .on (nodesOf s fun d => d.op == 4 && Pkt.table d.words == t)
    else waitsRows s c
  | 0x06 => waitsRows s c
  | 0x07 => waitsRows s c
  | 0x15 => waitsRows s c
  | 0x08 => if s.remote.migs.any fun m => m.cmd == c.id then .outside else .room
  | 0x12 => { nodes := nodesOf s fun d => decide (d.id < c.id) && Pkt.table d.words == t
      && ((d.op == 0x14 && Pkt.w9 d.words == Pkt.w9 c.words) || (d.op == 4 && d.queue == c.queue && !(d.phase == .done))) }
  | 0x13 => { nodes := nodesOf s fun d => d.snaps.contains ⟨t, Pkt.w9 c.words⟩,
              ext := s.remote.served.any fun m => m.table == t && m.version == Pkt.w9 c.words }
  | 0x14 => { nodes := nodesOf s fun d => d.op == 0x12 && decide (d.id < c.id) && Pkt.table d.words == t
      && Pkt.w9 d.words == Pkt.w9 c.words && !(d.phase == .done) }
  | 0x18 => waitsStream s c
  | 0x19 => { nodes := (desc s (descNo c)).cmd.toList }
  | 0x1A => match (copyState c).2 with
    | some o => if holdsEngine s o then .outside else .room
    | none => .room
  | 0x20 => .on (posters s c.ctx (Pkt.valve c.words))
  | 0x28 => .outside
  | 0x29 => { nodes := nodesOf s fun d => d.ctx == Pkt.target c.words && d.id != c.id }
  | _ => .room

/-- Edges of a node (12 Table 5). A command with nothing else to wait for waits for its next turn in the engine. -/
def waitsOf (s : State) (c : Cmd) : Waits :=
  match c.phase with
  | .reading => {}
  | .admitted => waitsAdmitted s c
  | .issued => if c.use.fault.isSome then .outside else .room
  | .running =>
    let w := waitsRunning s c
    if c.use.fault.isSome then .outside else if w = {} then .room else w
  | .done => if awaitsEnd c || !flushed c.use then .outside else .room

/-! ### Classes -/

/-- Nodes of a closure reached through stalled nodes. -/
def reachNodes (ws : List (Nat × Waits)) : Nat → List Nat → List Nat
  | 0, l => l
  | n + 1, l =>
    let next := (ws.filter fun e => l.contains e.1).flatMap fun e => e.2.nodes
    reachNodes ws n (dedup (l ++ next))

/-- Nodes that a stalled node reaches over one edge or more. -/
def reached (ws : List (Nat × Waits)) (n : Nat) : List Nat :=
  reachNodes ws ws.length (((ws.find? fun e => e.1 == n).map (·.2.nodes)).getD [])

/-- The stalled nodes on cycles through a node: those it reaches that reach it. -/
def cycleOf (ws : List (Nat × Waits)) (n : Nat) : List Nat :=
  let r := reached ws n
  (ws.map (·.1)).filter fun m => r.contains m && (reached ws m).contains n

/-- The class of a stalled node, by the first row of 12 Table 6 that holds: 0 DEADLOCK, 1 SATURATED, 2 SOFTWARE, 3 EXTERNAL, 4
FROZEN. `lively`: a reply was posted in the last period. `frozen`: none was in STALL_PERIODS samples. A node that reaches
RESOURCE between the two has no class yet. -/
def classOf (ws : List (Nat × Waits)) (lively frozen : Bool) (n : Nat) : Option Nat :=
  let r := reached ws n
  let here := ws.filter fun e => e.1 == n || r.contains e.1
  let room := here.any fun e => e.2.resource
  if r.contains n then some 0
  else if (r.any fun m => !(ws.any fun e => e.1 == m)) || (room && lively) then some 1
  else if here.any fun e => e.2.software then some 2
  else if here.any fun e => e.2.ext then some 3
  else if !room || frozen then some 4
  else none

/-! ### A sample -/

/-- A node after a sample: samples without progress are counted from its admission (R307). -/
def sampleNode (s : State) (c : Cmd) : HangNode :=
  let x := (s.hang.nodes.find? fun h => h.cmd == c.id).getD { cmd := c.id, last := 0, periods := 0, cls := none }
  if x.last = c.progress then { x with periods := x.periods + 1 } else { x with last := c.progress, periods := 0, cls := none }

/-- The nodes after a sample, without their new classes. -/
def sampled (s : State) : List HangNode := (s.cmds.filter fun c => !(c.phase == .reading)).map (sampleNode s)

/-- Whether a node is stalled. -/
def stalled (s : State) (h : HangNode) : Bool := decide (h.periods ≥ rd Reg.HANG_CFG_STALL_PERIODS 0 s)

/-- The edges of the stalled nodes. -/
def stalledWaits (s : State) : List (Nat × Waits) :=
  (sampled s).filterMap fun h => if stalled s h then (cmd? s h.cmd).map fun c => (h.cmd, waitsOf s c) else none

/-- The counter of a class in UM_HANG_STAT. -/
def hangStat : Nat → Option Fld
  | 0 => some Reg.HANG_STAT_DEADLOCK
  | 1 => some Reg.HANG_STAT_SATURATED
  | 2 => some Reg.HANG_STAT_SOFTWARE
  | 3 => some Reg.HANG_STAT_EXTERNAL
  | 4 => some Reg.HANG_STAT_FROZEN
  | _ => none

/-- Samples without a reply, the last among them. -/
def quietSamples (s : State) : Nat := if s.hang.replies = s.hang.lastReplies then s.hang.quiet + 1 else 0

/-- The nodes after a sample, with their classes (R309). -/
def classed (s : State) : List HangNode :=
  let ws := stalledWaits s
  let frozen := decide (quietSamples s ≥ rd Reg.HANG_CFG_STALL_PERIODS 0 s)
  (sampled s).map fun h =>
    if ws.any fun e => e.1 == h.cmd then { h with cls := classOf ws (s.hang.replies != s.hang.lastReplies) frozen h.cmd } else h

/-- The node stalled longest, the oldest of several. -/
def oldestOf : List HangNode → Option HangNode
  | [] => none
  | h :: hs =>
    match oldestOf hs with
    | none => some h
    | some g => if g.periods > h.periods then some g else some h

/-- UM_HANG_OLDEST after a sample (R309). A stalled node without a class waits for a resource and shows SATURATED. -/
def showOldest (hs : List HangNode) (s : State) : State :=
  let show_ := fun (v q t k p : Nat) => wr Reg.HANG_OLDEST_VALID 0 v (wr Reg.HANG_OLDEST_QUEUE 0 q (wr Reg.HANG_OLDEST_TAG 0 t
    (wr Reg.HANG_OLDEST_CLASS 0 k (wr Reg.HANG_OLDEST_PERIODS 0 p s))))
  match oldestOf (hs.filter (stalled s)) with
  | none => show_ 0 0 0 0 0
  | some h =>
    match cmd? s h.cmd with
    | none => s
    | some c => show_ 1 c.queue (Pkt.tag c.words) (h.cls.getD 1) (min h.periods (2 ^ Reg.HANG_OLDEST_PERIODS.width - 1))

/-- Counts the nodes newly placed in each class (R309). -/
def countClasses (hs : List HangNode) (s : State) : State :=
  hs.foldl (fun t h =>
    let was := (s.hang.nodes.find? fun g => g.cmd == h.cmd).bind (·.cls)
    match h.cls.bind hangStat with
    | none => t
    | some f => if was = h.cls then t else bump f 0 1 t) s

/-- Cycles of this sample that were not recorded before, each with the progress counters of its commands (R309). -/
def newCycles (s : State) : List (List (Nat × Nat)) :=
  let ws := stalledWaits s
  let cs := dedup ((ws.map fun e => cycleOf ws e.1).filter fun l => !l.isEmpty)
  let now := cs.map fun l => l.map fun i => (i, ((cmd? s i).map (·.progress)).getD 0)
  now.filter fun l => !(s.hang.cycles.contains l)

/-- The detector after a sample. -/
def takeSample (s : State) : State :=
  let hs := classed s
  let t := countClasses hs (showOldest hs s)
  let live := fun (l : List (Nat × Nat)) => l.all fun e => (cmd? s e.1).any fun c => c.progress == e.2
  { t with hang :=
    { t.hang with
      nodes := hs, lastReplies := s.hang.replies, quiet := quietSamples s,
      cycles := s.hang.cycles.filter live ++ newCycles s } }

/-- INFO of a DEADLOCK record: nodes, lowest queue and its TAG (12 Table 3). -/
def cycleInfo (s : State) (l : List Nat) : Nat :=
  let cs := l.filterMap (cmd? s)
  let q := (cs.map (·.queue)).foldl min 1023
  let tag := ((cs.find? fun c => c.queue == q).map fun c => Pkt.tag c.words).getD 0
  min l.length 65535 + q * 2 ^ 16 + tag * 2 ^ 32

/-- Contexts of the nodes of a cycle. -/
def cycleCtxs (s : State) (l : List Nat) : List Nat := dedup ((l.filterMap (cmd? s)).map (·.ctx))

end Sys2Proof.Machine
end

