-- ==== Sys2Proof/Machine/Dump.lean ====
section
/-! DEFINITION. The crash dump: its sections, its collection and its store (R318 to R321). -/

namespace Sys2Proof.Machine

/-! ### Sections (12 Tables 11 to 13) -/

/-- A section: header and payload. -/
def sectionBytes (kind u count : Nat) (payload : List Byte) : List Byte :=
  toLE 1 kind ++ toLE 1 0 ++ toLE 2 u ++ toLE 4 payload.length ++ toLE 4 (if payload.isEmpty then 0 else crc32c payload)
  ++ toLE 4 count ++ List.replicate 16 0#8 ++ payload

/-- The section of a unit that did not answer: STATUS 1 without payload (R320). -/
def silentSection (kind u : Nat) : List Byte := toLE 1 kind ++ toLE 1 1 ++ toLE 2 u ++ List.replicate 28 0#8

/-- ERROR_LOG: the 1,024 slots in order; an unused slot is zero. -/
def logPayload (log : Sparse ErrRec) : List Byte :=
  (List.range 1024).flatMap fun i =>
    let r : ErrRec := Sparse.get {} log i
    if r.code = 0 then List.replicate 32 0#8 else bytesOf r.words

/-- The code of a unit state (12 Table 15). -/
def UState.code (x : UState) : Nat := x.ctorIdx

/-- Units of 12 Table 2 in order of kind and index. -/
def allUnits : List Nat := (List.range 9).flatMap fun k => (List.range (unitCount k)).map (unitId k)

/-- UNIT_STATUS: UNIT in bytes 0 and 1, state in byte 2, FAILS in byte 3 of each entry. -/
def unitPayload (s : State) : List Byte :=
  allUnits.flatMap fun u => toLE 2 u ++ toLE 1 (unit s u).st.code ++ toLE 1 (unit s u).fails

/-- The code of a context state (11 Table 2). -/
def CState.code (x : CState) : Nat := x.ctorIdx

/-- CONTEXT: 32 bytes for each context. -/
def ctxPayload (s : State) : List Byte :=
  (List.range 256).flatMap fun c =>
    let x := ctx s c
    toLE 4 (x.st.code + x.kind * 2 ^ 8 + x.part * 2 ^ 16) ++ toLE 4 x.gen ++ toLE 4 (rd Reg.CTX_JOB_JOB_ID c s)
    ++ toLE 4 (rd Reg.CTX_LATE_CNT_COUNT c s) ++ toLE 4 (s.cmds.filter fun d => d.ctx == c).length ++ List.replicate 12 0#8

/-- The code of a queue state (02 Table 1). -/
def QState.code (x : QState) : Nat := x.ctorIdx

/-- An entry of QUEUE (12 Table 13). -/
def queueEntry (s : State) (q : Nat) : List Byte :=
  let v := queue s q
  let cs := s.cmds.filter fun c => c.queue == q
  let old := match cs with | [] => 0 | c :: _ => Pkt.tag c.words + c.op * 2 ^ 16
  toLE 4 (q + v.st.code * 2 ^ 12 + v.cfg.ctx * 2 ^ 16) ++ toLE 4 (v.fetch + v.tail * 2 ^ 16) ++ toLE 4 (v.p1.pi + v.p1.ci * 2 ^ 16)
  ++ toLE 4 (v.p1.free + v.cfg.limit * 2 ^ 16) ++ toLE 4 v.seq ++ toLE 4 old ++ toLE 4 cs.length ++ toLE 4 0

/-- Queues that are not DISABLED. -/
def liveQueues (s : State) : List Nat := (s.queues.filter fun e => !(e.2.st == .disabled)).map (·.1)

/-- Stalled nodes that still have no reply, 256 at most. -/
def stalledNow (s : State) : List (HangNode × Cmd) :=
  (s.hang.nodes.filterMap fun h => if stalled s h then (cmd? s h.cmd).map fun c => (h, c) else none).take 256

/-- An entry of HANG: the first edge target by queue and TAG, or all ones. -/
def hangEntry (s : State) (e : HangNode × Cmd) : List Byte :=
  let node := match (waitsOf s e.2).nodes.filterMap (cmd? s) with
    | [] => 0xFFFFFFFF
    | d :: _ => d.queue + Pkt.tag d.words * 2 ^ 16
  toLE 4 (e.2.queue + e.1.cls.getD 1 * 2 ^ 16) ++ toLE 4 (Pkt.tag e.2.words + e.2.op * 2 ^ 16) ++ toLE 4 e.1.periods ++ toLE 4 node

/-- A section of a unit whose content the manual leaves to the firmware or does not lay out: free bytes, numbered from `base`. -/
def freeSection (s : State) (kind u n base : Nat) : List Byte :=
  if s.dump.silent.contains (BitVec.ofNat 16 u) then silentSection kind u
  else sectionBytes kind u 1 ((List.range n).map fun i => Config.freeByte (s.freeCtr + base + i))

/-- Free bytes a dump takes: nine cores, then the lehr and the slot area of 17 slices. -/
def dumpFree : Nat := 9 * 256 + 34 * 4096

/-- The sections of a dump, in the order of 12 Table 12. -/
def dumpSections (s : State) (c : Collect) : List (List Byte) :=
  [sectionBytes 1 0 1024 (logPayload c.log), sectionBytes 2 0 901 (unitPayload s), sectionBytes 3 0 256 (ctxPayload s),
   sectionBytes 4 0 (liveQueues s).length ((liveQueues s).flatMap (queueEntry s))]
  ++ ((List.range 9).map fun i => freeSection s 5 (unitId 2 i) 256 (256 * i))
  ++ ((List.range 17).map fun i => freeSection s 6 (unitId 1 i) 4096 (2304 + 4096 * i))
  ++ ((List.range 17).map fun i => freeSection s 7 (unitId 1 i) 4096 (71936 + 4096 * i))
  ++ [sectionBytes 8 0 (stalledNow s).length ((stalledNow s).flatMap (hangEntry s)), sectionBytes 0xFF 0 0 []]

/-! ### The dump -/

/-- The header of a dump (12 Table 10). -/
def dumpHeader (s : State) (c : Collect) (sections len sealing : Nat) : List Byte :=
  toLE 4 0x50444D55 ++ toLE 2 1 ++ toLE 2 sections ++ toLE 4 s.dump.taken ++ toLE 4 len ++ toLE 8 c.time ++ toLE 1 c.rung
  ++ toLE 1 c.part ++ toLE 2 0 ++ toLE 4 c.errSeq ++ toLE 4 c.head ++ toLE 4 s.dump.silent.length ++ toLE 8 sealing
  ++ List.replicate 16 0#8

/-- Begins a collection, where the stored dump was read or may be overwritten; otherwise it is counted as not taken (R318). -/
def beginDump (rung part errSeq : Nat) (s : State) : State :=
  if s.dump.unread && !rdb Reg.DUMP_CFG_OVERWRITE 0 s then bump Reg.DUMP_SKIP_CNT_COUNT 0 1 s
  else
    { s with dump :=
      { s.dump with
        silent := []
        collect := some { time := s.cycle, head := s.errs.head, log := s.errs.slots, rung := rung, part := part, errSeq := errSeq } } }

/-- The dump sealed into the store (R321); bytes of the store past its end stay. -/
def sealDump (c : Collect) (s : State) : State :=
  let secs := dumpSections s c
  let body := secs.flatten
  let len := 64 + body.length
  let crc := crc64 (dumpHeader s c secs.length len 0 ++ body)
  let bs := dumpHeader s c secs.length len crc ++ body
  useFree dumpFree
    { s with dump :=
      { s.dump with
        bytes := bs ++ s.dump.bytes.drop len, len := len, valid := true, unread := true, seq := s.dump.taken, sealing := crc,
        taken := s.dump.taken + 1, collect := none } }

/-! ### Commands -/

/-- A write of TRIGGER: ignored while a dump is being collected (R318). -/
def triggerDump (s : State) : State := if s.dump.collect.isSome then s else beginDump 0 0 noSeq s

/-- DUMP_TRIGGER (R318). -/
def execDumpTrigger (s : State) : Host.Outcome State Fault Refusal := done s (apWrite 0x2084 s triggerDump)

/-- DUMP_SKIP (R320): a core or slice that did not answer within UNIT_TMO_US; its later sections are not read either. -/
def execDumpSkip (unit : UnitId) (s : State) : Host.Outcome State Fault Refusal :=
  done s (
    let u := unit.toNat
    let asked := isUnit u && (u / 4096 == 1 || u / 4096 == 2)
    if s.dump.collect.isSome && asked && !s.dump.silent.contains unit then
      logErr 0x0063 0 none u (s.dump.taken % 2 ^ 32) { s with dump := { s.dump with silent := s.dump.silent ++ [unit] } }
    else s)

/-- A write of ACK clears UNREAD (R318). -/
def ackDump (s : State) : State := { s with dump := { s.dump with unread := false } }

/-- DUMP_ACK (R318). -/
def execDumpAck (s : State) : Host.Outcome State Fault Refusal := done s (apWrite 0x2084 s ackDump)

/-- The 4 bytes of the dump at an offset; at or beyond LEN, zero (R401). Bytes of the store that no dump has written read 0. -/
def dumpWord (s : State) : Nat :=
  let o := rd Reg.DUMP_OFFSET_OFFSET 0 s
  if o < s.dump.len then fromLE ((s.dump.bytes.drop o).take 4) else 0

/-- A read of UM_DUMP_DATA advances the offset by 4; at or beyond LEN it does not (R318, R401). -/
def advanceDump (s : State) : State :=
  let o := rd Reg.DUMP_OFFSET_OFFSET 0 s
  if o < s.dump.len then wr Reg.DUMP_OFFSET_OFFSET 0 (o + 4) s else s

/-- DUMP_DATA_READ (R318, R401). -/
def execDumpDataRead (s : State) : Host.Outcome State Fault Refusal :=
  done s (apReadWith 0x20A4 s fun t => (dumpWord t, advanceDump t))

end Sys2Proof.Machine
end

