-- ==== Sys2Proof/Machine/HostPath.lean ====
section
/-! DEFINITION. The host-path sluice: its closures and its re-attach (R268 to R273, R322, R358, R375). -/

namespace Sys2Proof.Machine

/-- Whether a command has made a host access or still has one to make (R269 step 2). -/
def needsSluice (s : State) (c : Cmd) : Bool :=
  c.use.touched || namesHost c ||
    (c.op == 0x18 &&
      let d := desc s (descNo c)
      let p := if d.cmd == some c.id then d.prog else (d.pend.map (·.2)).getD []
      programHost c p && !p.isEmpty)

/-- Whether a command is issued and without its reply. -/
def isIssued (c : Cmd) : Bool := c.phase == .issued || c.phase == .running || c.phase == .done

/-- Leaves the cursor of a generation at its first element not known delivered (R269 step 2). -/
def rewind (c : Cmd) (s : State) : State :=
  let k := descNo c
  let d := desc s k
  let n := knownBytes c / max 1 (elemOf d.prog)
  if c.op = 0x18 ∧ d.cmd = some c.id ∧ n < d.delivered then
    match d.marks[d.delivered - 1 - n]? with
    | some m => setDesc k { d with pc := m.1, idx := m.2, byteOff := 0, delivered := n } s
    | none => s
  else s

/-- Ends the issued commands that need the sluice, oldest first. -/
def endLost (s : State) : State :=
  let l := s.cmds.filter fun c => isIssued c && needsSluice s c
  endCommands (fun c => l.any fun d => d.id == c.id) lostVerdict (l.foldl (fun t c => rewind c t) s)

/-- A CASCADE whose feature records lie in host memory and are being read cannot be admitted. -/
def rejectReading (s : State) : State :=
  (s.cmds.filter fun c => c.phase == .reading && !isChip (Pkt.addrA c.words)).foldl
    (fun t c => rejectCmd c (.hostPathLost, 0, 0) t) s

/-- Fetches from tier 3 fail with the commands and the lookups of peers that wait for them (R189, R195). -/
def failTier3 (s : State) : State :=
  let fs := s.fetches.filter fun f => f.place.tier == 3
  fs.foldl (fun t f => f.waiters.foldl (fun u id => failServed 5 0 id u) (dropFetch f t))
    (endCommands (fun c => fs.any fun f => f.waiters.contains c.id) lostVerdict s)

/-- Write-backs to host-attached memory are held (R130). -/
def holdTier3 (s : State) : State :=
  let back := fun (e : Cull) => if e.issued && e.place.tier == 3 then { e with issued := false } else e
  mapSlices (fun v => { v with cullet := v.cullet.map back, hold := v.hold.map back }) s

/-- What a FAIL queue does as the sluice closes: its admitted, unissued commands that need the host path end (R270). -/
def failQueued (s : State) : State :=
  endCommands (fun c => c.phase == .admitted && (queue s c.queue).cfg.policy == 1 && needsHost s c)
    (fun _ => (.hostPathLost, 0, 0)) s

/-- Every queue under R270. -/
def holdQueues (s : State) : State := (Sparse.keys s.queues).foldl (fun t q => settleHold q t) s

/-- Translations as the sluice closes: the whole cache goes, and no read is waited for (R265, R269). -/
def dropTranslations (s : State) : State :=
  answerInvals { s with host := { s.host with
    atc := [], asked := [], invals := s.host.invals.map fun v => { v with waits := [] } } }

/-- The sluice closes for a cause while it is OPEN: CLOSING, its seven actions, CLOSED (R269, R270, R322). -/
def closeSluice (cause : Nat) (s : State) : State :=
  if s.host.st == .opened then
    let s1 := logErr 0x0040 0 none 0 (cause + s.host.epoch * 2 ^ 16)
      (dropTranslations { s with host := { s.host with st := .closing, cause := cause } })
    let s2 := failTier3 (rejectReading (endLost s1))
    let s3 := holdQueues (failQueued (holdTier3 s2))
    bump Reg.HOSTPATH_CLOSE_CNT_COUNT 0 1 { s3 with host := { s3.host with st := .closed } }
  else s

/-- The host path as the link or the function is reset: ATS and PRI are no longer enabled (R272 step 1). -/
def HostPath.unenabled (h : HostPath) : HostPath := { h with ats := false }

/-- LINK_DOWN (R269): CAUSE 1. -/
def execLinkDown (s : State) : Host.Outcome State Fault Refusal :=
  done s (closeSluice 1 { s with host := { s.host.unenabled with linkUp := false } })

/-- HOSTPATH_STALL (R269): CAUSE 2. -/
def execHostpathStall (s : State) : Host.Outcome State Fault Refusal := done s (closeSluice 2 s)

/-- HOST_RESET (R269, R322): CAUSE 3, and nothing more. -/
def execHostReset (s : State) : Host.Outcome State Fault Refusal :=
  done s (closeSluice 3 { s with host := s.host.unenabled })

/-- HOSTPATH_CLOSE (R269): CAUSE 4. -/
def execHostpathClose (s : State) : Host.Outcome State Fault Refusal :=
  done s (apWrite Reg.HOSTPATH_CTRL_CLOSE.off s (closeSluice 4))

/-- HELD queues return to ACTIVE. -/
def releaseQueues (s : State) : State :=
  { s with queues := Sparse.mapVals {} (fun _ v => if v.st == .held then { v with st := .active } else v) s.queues }

/-- Whether an address lies in one of the 4 KiB host pages that stay unresolved (R263). -/
def unresolvedAt (pages : List Dword) (addr : Nat) : Bool :=
  !isChip addr && pages.any fun p => p.toNat / 4096 == addr / 4096

/-- A reply record or mirror word that is not written: its error record and its count (R273). -/
def noteUnwritten (r : HeldReply) (seq : Nat) (s : State) : State :=
  bump Reg.HOSTPATH_UNWRITTEN_CNT_COUNT 0 1 (logErr 0x0004 0 (some r.ctx) 0 (r.queue + seq * 2 ^ 32) s)

/-- Writes a held reply and its mirror word after a re-attach, or passes over the one whose address stays unresolved; PI advances
and the credit returns either way (R271, R273). -/
def writeHeldReply (pages : List Dword) (r : HeldReply) (s : State) : State :=
  let v := queue s r.queue
  if unresolvedAt pages (replyAddr v v.p1.pi) then
    let u := advanceReply r (noteUnwritten r v.seq (checkPtrs r.queue s))
    if unresolvedAt pages (mirrorAddr v) then noteUnwritten r v.seq u
    else writeMem 0 (mirrorAddr v) (toLE 8 (queue u r.queue).mirror) u
  else if unresolvedAt pages (mirrorAddr v) then
    let t := checkPtrs r.queue s
    let w := queue t r.queue
    let u := advanceReply r (writeMem 0 (replyAddr w w.p1.pi) (replyBytes r w.seq w.phase s.cycle) t)
    noteUnwritten r w.seq { u with hang := { u.hang with replies := u.hang.replies + 1 } }
  else writeReply r s

/-- Writes the held replies in completion order (R271). Each is held until its turn, so that the comparison of R43 before it counts
its credit as taken. -/
def writeHeld (pages : List Dword) (s : State) : State :=
  let next := fun (u : State) (r : HeldReply) =>
    let x := checkPtrs r.queue u
    writeHeldReply pages r { x with host := { x.host with held := x.host.held.drop 1 } }
  let t := s.host.held.foldl next s
  (dedup (s.host.held.map (·.queue))).foldl (fun u q => settleQueue q u) t

/-- Sends the MSI-X message that waited, where its condition still holds (R375). -/
def sendMsix (s : State) : State :=
  let t := if s.host.msixPending && irqLevel s && s.host.msix then send .msix s else s
  { t with host := { t.host with msixPending := false } }

/-- What waited for the host path goes on once it is OPEN: HELD queues, held replies, write-backs to host-attached memory, and the
MSI-X message (R130, R271, R272, R375). -/
def releaseHost (pages : List Dword) (s : State) : State := sendMsix (issueWaiting (writeHeld pages (releaseQueues s)))

/-- HC_LINK_UP (R263, R358, R374): the link is up, with the page requests that the host lets be outstanding (log entry 64); the first time after power good or a chip reset it opens the sluice, after a chip
reset with EPOCH raised, and what waited for the host path goes on. -/
def execHcLinkUp (link : HostLink) (s : State) : Host.Outcome State Fault Refusal :=
  done s (
    let up := { s.host with linkUp := true, cxl := link.cxl, alloc := link.alloc.toNat }
    if s.pins.pwrGood && s.host.fresh && s.host.st == .closed then
      releaseHost [] { s with host := { up with st := .opened, fresh := false, afterReset := false,
                                                epoch := if s.host.afterReset then (s.host.epoch + 1) % 2 ^ 16 else s.host.epoch } }
    else { s with host := up })

/-- An accepted re-attach (R272), with the host pages that stay unresolved after it. -/
def reattach (pages : List Dword) (s : State) : State :=
  let s1 := wr Reg.PRI_STAT_STOPPED 0 0
    { s with host := { s.host with atc := [], asked := [], epoch := (s.host.epoch + 1) % 2 ^ 16, st := .opened } }
  let s2 := { s1 with cmds := s1.cmds.map fun c => { c with use := { c.use with fault := none } } }
  releaseHost pages s2

/-- A write of UM_HOSTPATH_REATTACH: accepted only when the sluice is CLOSED, the link is up and the value is EPOCH (R272). -/
def writeReattach (epoch : Nat) (pages : List Dword) (s : State) : State :=
  if s.host.st == .closed && s.host.linkUp && s.host.epoch == epoch && !s.host.fresh then reattach pages s
  else wr Reg.HOSTPATH_STAT_REATTACH_ERR 0 1 s

/-- HOSTPATH_REATTACH (R272): `unresolved` lists the host pages whose translation stays unresolved after it (R273). -/
def execHostpathReattach (epoch : BitVec 16) (unresolved : List Dword) (s : State) : Host.Outcome State Fault Refusal :=
  done s (apWrite Reg.HOSTPATH_REATTACH_EPOCH.off s (writeReattach epoch.toNat unresolved))

end Sys2Proof.Machine
end

