-- ==== Sys2Proof/Machine/Returns.lean ====
section
/-! DEFINITION. Data that returns: fetched rows, their second read and the other copy of a row, fills, and the weirs with their partials
(R55, R124 to R126, R139, R149 to R154, R161 to R164, R291). -/

namespace Sys2Proof.Machine

/-! ### The fetch of a row -/

/-- A fetch by number. -/
def fetch? (s : State) (id : Nat) : Option Fetch := s.fetches.find? fun f => f.id == id

/-- Whether a fetch's NVMe read is out. -/
def ioOut (s : State) (id : Nat) : Bool := s.remote.ios.any fun io => io.fetch == some id

/-- Contexts of the commands that wait for a fetch. -/
def Fetch.contexts (s : State) (f : Fetch) : List Nat := dedup (f.waiters.filterMap fun id => (cmd? s id).map (·.ctx))

/-- The fetch is over: its tag retires, and the slot it read may be freed (R180, R292). -/
def closeFetch (f : Fetch) (s : State) : State :=
  settleQuarantine f.ctx (retireOld f.id { s with fetches := s.fetches.filter fun g => g.id != f.id })

/-- Drops and counts the data of a fetch whose commands have all ended; its tag retires (R291, R292). -/
def dropLate (f : Fetch) (s : State) : State := settleQuarantine f.ctx (lateResponse f.ctx (dropFetch f s))

/-- Replaces what is kept of a fetch. -/
def putFetch (f : Fetch) (s : State) : State := { s with fetches := s.fetches.map fun g => if g.id == f.id then f else g }

/-- Reads a fetch once more from the same place, the tiles that failed first (R55, R124): a new request, to what serves it now. -/
def readAgain (f : Fetch) (fails : List Nat) (s : State) : State :=
  let g := { f with fails := f.fails + 1, order := fails ++ f.order.filter fun k => !fails.contains k, kept := none }
  requestFetch g (putFetch g s)

/-! ### Who waits for a row -/

/-- A row was delivered to a PREFETCH: the command is done when all have come (R139). -/
def takePrefetch (c : Cmd) (row : Nat) (s : State) : State :=
  match c.work with
  | .rows r =>
    let left := r.rows.filter (· != row)
    let t := progress c.id (modCmd c.id (fun d => { d with work := .rows { r with rows := left } }) s)
    if left.isEmpty then finish c.id okVerdict t else t
  | _ => s

/-- A command that reads whole rows goes on after one has come, or failed. -/
def rowsOn (id : Nat) (s : State) : State :=
  match cmd? s id with
  | none => s
  | some c =>
    if c.phase != .running then s
    else match c.op with
      | 0x04 => runMerge c s
      | 0x05 => zeroRun id s
      | 0x07 => pinAll id (trains s (Pkt.table c.words) c.ctx) s
      | 0x15 => saveRun id s
      | _ => s

/-- Hands a row to what waits for it: a pin that is refilled, a lookup of a peer, or a command (R70, R126). -/
def deliverRow (f : Fetch) (bs : List Byte) (s : State) (id : Nat) : State :=
  if id = refillId then refillArrived f bs s
  else if id ≥ lookupBase then settleLookup id (gotServed id f.row bs s)
  else match cmd? s id with
    | none => s
    | some c =>
      if c.phase == .done then s
      else match c.op with
        | 0x01 | 0x02 | 0x03 => goOn c (giveRow id f.table f.row (verOf (fwdOf c) f.table) bs s)
        | 0x06 => takePrefetch c f.row s
        | _ => rowsOn id (gotRow id f.row (some bs) s)

/-- A row that failed twice, with no other copy of it, fails what waits for it (R55, R195, R214, R217). -/
def corruptWaiter (f : Fetch) (s : State) (id : Nat) : State :=
  if id = refillId then { s with refills := s.refills.filter fun r => !(r.1 == f.table && r.2.2 == f.row) }
  else if id ≥ lookupBase then failServed 3 f.row id s
  else match cmd? s id with
    | none => s
    | some c =>
      if c.phase == .done then s
      else if c.op ∈ [0x04, 0x05, 0x07, 0x15] then rowsOn id (gotRow id f.row none s)
      else corruptCmd c f.slice f.table f.row s

/-- A row that cannot be reached any more ends what waits for it (R107, R191, R195, R269). -/
def loseWaiter (r : Reach) (s : State) (id : Nat) : State :=
  if id ≥ lookupBase && id != refillId then failServed 5 0 id s
  else match cmd? s id with
    | none => s
    | some c => if c.phase == .done then s else reachCmd c r s

/-- Ends everything that waits for a fetch, and the fetch. -/
def loseFetch (f : Fetch) (r : Reach) (s : State) : State := f.waiters.foldl (loseWaiter r) (settleQuarantine f.ctx (dropFetch f s))

/-- The tiles of a row that a waiter uses (R55): those that pooling uses, those that a ZERO_ROWS keeps, or all of them. -/
def tilesUsed (s : State) (d : Desc) (id : Nat) : Nat → Bool :=
  match cmd? s id with
  | some c =>
    if c.op = 5 then d.kept else if c.op = 1 ∨ c.op = 2 ∨ c.op = 3 then d.pools else everyTile
  | none => if id = refillId then everyTile else d.pools

/-! ### Fills -/

/-- Installs a filled row where it goes, with the range it has now (R115, R125). A row of which its slice has come to hold a copy, or
whose table bypasses by now, is put nowhere (R108, R111). -/
def installFill (f : Fetch) (bs : List Byte) (s : State) : State :=
  let ver := f.now s
  let r := rowRange s f.table ver f.row
  let cp : Copy := { table := f.table, row := f.row, lo := r.1, hi := r.2, bytes := bs }
  if (findSpot s (slice s f.slice) f.table f.row ver).isSome || bypasses s f.table then freeFill f s
  else match f.dest with
    | .way c k w =>
      let v := slice s f.slice
      let b := setOf s v (setKey c k)
      if (b.ways.getD w {}).st == .filling && (b.ways.getD w {}).owner == f.id then
        setSlice f.slice (putSet (setKey c k)
          { b with ways := modAt b.ways w fun x => { x with st := .clean, copy := cp, owner := 0 } } v) s
      else s
    | .gob => gobPut f.slice cp s
    | .none => s

/-- The row of a fetch has come whole: it is installed, and all that wait have it. -/
def wholeRow (f : Fetch) (bs : List Byte) (s : State) : State := f.waiters.foldl (deliverRow f bs) (installFill f bs (closeFetch f s))

/-- Hands what waits the other copy of a row that failed twice, or fails it (R55). -/
def deliverOther (f : Fetch) (bs : List Byte) (s : State) (id : Nat) : State :=
  match otherCopy s (tilesUsed s (table s f.table).desc id) f.table f.row f.place bs with
  | some cs => deliverRow f cs s id
  | none => corruptWaiter f s id

/-- Tiles of a fetch failed. Whoever uses none of them takes the row (R125). After the first read the row is read once more; after the second
the row's other copy stands for it, or those that use the tiles fail (R55). -/
def failedRow (f : Fetch) (bs : List Byte) (fails : List Nat) (s : State) : State :=
  let d := (table s f.table).desc
  let now := f.waiters.filter fun id => !(fails.any (tilesUsed s d id))
  let left := f.waiters.filter fun id => fails.any (tilesUsed s d id)
  if f.fails = 0 then
    now.foldl (deliverRow f bs) (readAgain { f with waiters := left, served := f.served || !now.isEmpty } fails s)
  else match otherCopy s everyTile f.table f.row f.place bs with
    | some cs => wholeRow f cs s
    | none =>
      left.foldl (deliverOther f bs) (now.foldl (deliverRow f bs) (settleQuarantine f.ctx (dropFetch f s)))

/-- FETCH_DATA_RETURN (R55, R124 to R126, R139, R291): a failed tile is read once more; what fails twice is taken from the row's
other copy, or fails what waits for it; data of a fetch nobody waits for is dropped and counted. `upset` names granules whose bytes fail
their check, and `ecc` what the DRAM found (R161 to R164): a tile with an uncorrected error fails. -/
def execFetchDataReturn (fetch : Nat) (upset : List Nat) (ecc : List EccFinding) (s0 : State) :
    Host.Outcome State Fault Refusal :=
  done s0 (match fetch? s0 fetch with
    | none => s0
    | some f =>
      let d := (table s0 f.table).desc
      if f.weir || ioOut s0 fetch then s0
      else
        let s := noteReads (f.contexts s0) d f.place ecc s0
        if f.waiters.isEmpty && !f.served then dropLate f s
        else match fetchTiles s f with
          | .error r => loseFetch f r s
          | .ok (bs, bad) =>
            let fails := dedup (d.spoilt (upset ++ eccFails ecc) ++ bad)
            if fails.isEmpty then wholeRow f bs s else failedRow f bs fails s)

/-! ### Weirs (R149 to R154) -/

/-- Physical vault of a cistern place. -/
def vaultOf (s : State) (p : Place) : Nat := ((dramUnit s p.tier p.addr).getD 0) % 4096

/-- Physical vault that serves a pool request. -/
def Fetch.vault (s : State) (f : Fetch) : Nat := match f.kept with | some k => k.1 | none => vaultOf s f.place

/-- Bytes of a partial as it travels: its header of 16 bytes and its payload, padded to 32 (R153). -/
def partialSize (fmt w : Nat) (p : Partial) : Nat := alignUp 32 (16 + (partialBytes fmt (formOf fmt p.terms) w p.terms).length)

/-- Closes a partial: it takes the first form that holds it (R153). -/
def closePartial (fmt : Nat) (p : Partial) : Partial := { p with closed := true, form := formOf fmt p.terms }

/-- FORMAT of the table of a partial's feature. -/
def partialFmt (s : State) (p : Partial) : Nat :=
  match cmd? s p.cmd with
  | some c => (((fwdOf c).feats[p.feature]?).map fun g => (table s g.table).desc.format).getD 0
  | none => 0

/-- Closes the partial opened first while a weir's store of 128 KiB is over its size (R151 case 2). DESIGN CHOICE: an open partial takes
the bytes that it would travel with in its present form, its positions two bytes wide (log entry 82). -/
def weirRoom (s : State) (v : Nat) : Nat → List Partial → List Partial
  | 0, ps => ps
  | f + 1, ps =>
    let here := ps.filter fun p => p.vault == some v && !p.closed
    if sumOf (here.map fun p => partialSize (partialFmt s p) 2 p) ≤ 131072 then ps
    else match here.head? with
      | none => ps
      | some p => weirRoom s v f (ps.map fun q => if q.id == p.id then closePartial (partialFmt s q) q else q)

/-- Adds terms to the open partial of a bag for a logical home slice, or opens one (R151). -/
def addPartial (id feat bag sl v : Nat) (t : Terms) (s : State) : State :=
  let mine := fun (p : Partial) =>
    p.cmd == id && p.feature == feat && p.bag == bag && p.slice == sl && p.vault == some v && !p.closed
  let fresh : Partial :=
    { id := s.nextPart, cmd := id, feature := feat, bag := bag, slice := sl, vault := some v, terms := t, closed := false, form := 0 }
  let put := fun (f : Partial → Partial) (p q : Partial) => if q.id == p.id then f q else q
  match s.partials.find? mine with
  | some p =>
    if termsFit (joinTerms p.terms t) then
      { s with partials := s.partials.map (put (fun q => { q with terms := joinTerms q.terms t }) p) }
    else
      { s with partials := s.partials.map (put (fun q => closePartial (partialFmt s q) q) p) ++ [fresh], nextPart := s.nextPart + 1 }
  | none => { s with partials := s.partials ++ [fresh], nextPart := s.nextPart + 1 }

/-- Adds a row to the partials of each of its uses under POOL 0, 1 and 3 (R150, R151). -/
def weirAdd (c : Cmd) (t row v : Nat) (elems : List F32) (s : State) : State :=
  (fwdOf c).feats.zipIdx.foldl (fun u e =>
    if e.1.table = t ∧ e.1.pool ≠ 2 then
      e.1.uses.zipIdx.foldl (fun x y =>
        if y.1.reason.isNone && y.1.row == row then
          let bag := (idxOf (fun o => decide (o > y.2)) (e.1.offs.drop 1)).getD 0
          addPartial c.id e.2 bag (logicalSlice x c.ctx (homeOf row)) v (useTerms e.1.pool elems 0#32 (y.2 - e.1.offs.getD bag 0)) x
        else x) u
    else u) s

/-- Closes a command's partials of a home slice in a vault once its last request from that slice is served there (R151 case 1). -/
def closeLast (id sl v : Nat) (s : State) : State :=
  if s.fetches.any fun f => f.weir && f.slice == sl && f.waiters.contains id && f.vault s == v then s
  else { s with partials := s.partials.map fun p =>
    if p.cmd == id && physSlice s p.slice == sl && p.vault == some v && !p.closed then closePartial (partialFmt s p) p else p }

/-- A row that a weir has read enters the partials of the command whose request it was; uses under POOL 2 have the row (R150). -/
def weirTake (f : Fetch) (bs : List Byte) (s : State) (id : Nat) : State :=
  match cmd? s id with
  | none => s
  | some c =>
    let v := f.vault s
    let x := rowElems (table s f.table).desc [] bs
    let u := weirAdd c f.table f.row v x s
    let t := closeLast id f.slice v { u with partials := weirRoom u v u.partials.length u.partials }
    let keep := if wholeUse (fwdOf c) f.table f.row then some x else none
    advanceFwd id (progress id (modRow id f.table f.row (fun r => { r with done := true, elems := keep }) t))

/-- A weir's row that failed twice is pooled at the home slice from its other copy, or ends the command (R154). -/
def weirFailed (f : Fetch) (bs : List Byte) (s : State) (id : Nat) : State :=
  let v := f.vault s
  match cmd? s id, otherCopy s (table s f.table).desc.pools f.table f.row f.place bs with
  | some c, some cs =>
    deliverRow f cs (closeLast id f.slice v (modRow c.id f.table f.row (fun r => { r with via := .lane }) s)) id
  | _, _ => corruptWaiter f s id

/-- What a weir has read: the first waiter is the command that asked it; a row that climbs whole is filled, and whoever joined has it. -/
def weirRow (f : Fetch) (bs : List Byte) (s : State) : State :=
  let t := closeFetch f s
  let u := if f.whole then installFill f bs t else t
  (f.waiters.drop 1).foldl (deliverRow f bs) ((f.waiters.take 1).foldl (weirTake f bs) u)

/-- WEIR_POOL_REQUEST (R151, R154): the weir reads and checks the row once, failed tiles once more, and adds it into its open partials. -/
def execWeirPoolRequest (fetch : Nat) (upset : List Nat) (ecc : List EccFinding) (s0 : State) :
    Host.Outcome State Fault Refusal :=
  done s0 (match fetch? s0 fetch with
    | none => s0
    | some f =>
      let d := (table s0 f.table).desc
      if !f.weir then s0
      else
        let s := noteReads (f.contexts s0) d f.place ecc s0
        if f.waiters.isEmpty then dropLate f s
        else match fetchTiles s f with
          | .error r => loseFetch f r s
          | .ok (bs, bad) =>
            let fails := (dedup (d.spoilt (upset ++ eccFails ecc) ++ bad)).filter fun k => f.whole || d.pools k
            if fails.isEmpty then weirRow f bs s
            else if f.fails = 0 then readAgain f fails s
            else if fails.any d.pools then
              (f.waiters.drop 1).foldl (deliverOther f bs) ((f.waiters.take 1).foldl (weirFailed f bs) (settleQuarantine f.ctx (dropFetch f s)))
            else weirRow { f with dest := .none } bs (freeFill f s))

/-- PARTIAL_ARRIVAL (R152): a closed partial reaches its home slice and enters its leaf as one exact term or candidate. -/
def execPartialArrival (part : Nat) (s : State) : Host.Outcome State Fault Refusal :=
  done s (match s.partials.find? fun p => p.id == part with
    | none => s
    | some p =>
      if !p.closed then s
      else
        let t := { s with partials := s.partials.filter fun q => q.id != part }
        match cmd? s p.cmd with
        | none => t
        | some c =>
          let f := fwdOf c
          advanceFwd p.cmd (progress p.cmd (setFwd p.cmd
            { f with terms := f.terms ++ [{ feature := p.feature, bag := p.bag, slice := p.slice, terms := p.terms }] } t)))

end Sys2Proof.Machine
end

