-- ==== Sys2Proof/Machine/Rim.lean ====
section
/-! DEFINITION. NVMe-oF targets, the queue pairs of peers and the rim ports (R190, R191, R193, R378 to R381). -/

namespace Sys2Proof.Machine

/-! ### NVMe commands -/

/-- An NVMe command by number. -/
def io? (s : State) (id : Nat) : Option NvmeIo := s.remote.ios.find? fun io => io.id == id

/-- Removes an NVMe command. -/
def dropIo (id : Nat) (s : State) : State :=
  { s with remote := { s.remote with ios := s.remote.ios.filter fun io => io.id != id } }

/-- An NVMe command is over; one that waited for room in the queues of its target goes out (R190). -/
def freeIo (io : NvmeIo) (s : State) : State :=
  if rdb Reg.NVMF_TGT_STAT_CONNECTED io.target s then sendWaiting io.target s else s

/-- The entry of a cullet buffer, or of a hold area (true), that an NVMe command writes. -/
def entryOf (s : State) (b : Nat × Nat × Nat × Nat) : Option (Bool × Nat × Cull) :=
  let v := slice s b.1
  let mine := fun (e : Cull) => e.issued && e.place.tier == 4 && e.copy.isId b.2.1 b.2.2.1 b.2.2.2
  let at_ := fun (l : List Cull) => (idxOf mine l).bind fun i => l[i]?.map fun e => (i, e)
  match at_ v.cullet with
  | some x => some (false, x)
  | none => (at_ v.hold).map fun x => (true, x)

/-- A write that ended with an error waits for reconnection: it is not issued again before (R191). -/
def writeFailed (b : Nat × Nat × Nat × Nat) (s : State) : State :=
  let v := slice s b.1
  let fail := fun (e : Cull) => { e with issued := false, failed := true }
  match entryOf s b with
  | none => s
  | some (false, i, _) => setSlice b.1 { v with cullet := modAt v.cullet i fail } s
  | some (true, i, _) => setSlice b.1 { v with hold := modAt v.hold i fail } s

/-- The use of an NVMe command ends without success (R191): a fetch ends what waits for it, a write-back waits, and a move reads its row
again when it is started again. `answered` tells that a response came. -/
def endIo (io : NvmeIo) (answered : Bool) (s : State) : State :=
  let t := dropIo io.id s
  freeIo io (match io.fetch, io.back, io.move with
    | some f, _, _ =>
      match fetch? t f with
      | none => t
      | some g => if g.waiters.isEmpty && !g.served && answered then dropLate g t else loseFetch g (.remote io.target) t
    | _, some b, _ => writeFailed b t
    | _, _, some m => modEntry m.1 m.2 (fun e => { e with read := none }) t
    | _, _, _ => t)

/-- Blocks with a row merged into them (R190). -/
def mergeBlocks (s : State) (io : NvmeIo) (addr : Nat) (row data : List Byte) : List Byte :=
  let d := padTo (io.blocks * lbaBytes s io.target) data
  let off := addr - io.lba * lbaBytes s io.target
  d.take off ++ row ++ d.drop (off + row.length)

/-- What the target answered to a read is what it holds. -/
def storeBlocks (io : NvmeIo) (data : List Byte) (s : State) : State :=
  writeTier ⟨4, io.target, io.lba * lbaBytes s io.target⟩ (padTo (io.blocks * lbaBytes s io.target) data) s

/-- The blocks that a write shares with other rows have been read: the row is merged into them and they are written (R190). -/
def writeMerged (io : NvmeIo) (addr : Nat) (row data : List Byte) (s : State) : State :=
  startIo { io with write := true, tries := 0 } (mergeBlocks s io addr row data) (storeBlocks io data s)

/-- An NVMe command of a cullet or hold entry has succeeded: the read is followed by its write, the write frees the entry (R128,
R179). -/
def backDone (io : NvmeIo) (b : Nat × Nat × Nat × Nat) (data : List Byte) (s : State) : State :=
  match entryOf s b with
  | none => s
  | some (hold, i, e) =>
    if !io.write then writeMerged io e.place.addr e.copy.bytes data s
    else if hold then holdDone b.1 i s else cullDone b.1 i s

/-- An NVMe command of a move has succeeded: the row is there, or its blocks are, or it is copied (R176). -/
def moveDone (io : NvmeIo) (m : Nat × Nat) (data : List Byte) (s : State) : State :=
  match pentry? s m.1 m.2 with
  | none => s
  | some e =>
    match e.read with
    | none =>
      let off := (homeNow s m.1 m.2).addr - io.lba * lbaBytes s io.target
      modEntry m.1 m.2 (fun x => { x with read := some ((padTo (io.blocks * lbaBytes s io.target) data).drop off |>.take (table s m.1).desc.stride) })
        (storeBlocks io data s)
    | some bs =>
      if !io.write then writeMerged io (moveTo s e).addr bs data s
      else modEntry m.1 m.2 (fun x => { x with copied := true, read := none }) (writeTier (moveTo s e) bs s)

/-- A successful NVMe command: a fetch's data is there for its return, a write-back or a move goes on (R128, R176, R190). -/
def ioDone (io : NvmeIo) (data : List Byte) (s : State) : State :=
  let t := dropIo io.id s
  freeIo io (match io.fetch, io.back, io.move with
    | some f, _, _ =>
      match fetch? t f with
      | none => t
      | some g => if g.waiters.isEmpty && !g.served then dropLate g t else storeBlocks io data t
    | _, some b, _ => backDone io b data t
    | _, _, some m => moveDone io m data t
    | _, _, _ => t)

/-- Sends an NVMe command again (R191). -/
def retryIo (io : NvmeIo) (s : State) : State :=
  send (.nvme io.id io.target io.lba io.blocks io.write io.data)
    { s with remote := { s.remote with ios := s.remote.ios.map fun x => if x.id == io.id then { x with tries := x.tries + 1 } else x } }

/-- NVME_COMPLETION (R191): an error whose DNR bit is clear is retried up to three times. -/
def execNvmeCompletion (io : Nat) (status : BitVec 8) (dnr : Bool) (data : List Byte) (s : State) :
    Host.Outcome State Fault Refusal :=
  done s (match io? s io with
    | none => s
    | some x =>
      if status = 0#8 then ioDone x data s
      else
        let t := wr Reg.NVMF_TGT_STAT_LAST_ERR x.target status.toNat s
        if dnr || decide (x.tries ≥ 3) then endIo x true t else retryIo x t)

/-- NVMF_TIMEOUT (R191): no completion within UM_NVMF_TMO. -/
def execNvmfTimeout (io : Nat) (s : State) : Host.Outcome State Fault Refusal :=
  done s (match io? s io with
    | none => s
    | some x => endIo x false s)

/-- The connection of a target goes: every use of it ends. -/
def loseTarget (t : Nat) (s : State) : State :=
  (s.remote.ios.filter fun io => io.target == t).foldl (fun x io => endIo io false x) (wr Reg.NVMF_TGT_STAT_CONNECTED t 0 s)

/-- NVMF_CONNECTION_LOST (R191). -/
def execNvmfConnectionLost (target : TargetNo) (s : State) : Host.Outcome State Fault Refusal :=
  done s (if rdb Reg.NVMF_TGT_STAT_CONNECTED target.toNat s then loseTarget target.toNat s else s)

/-- Whether a rim port of a target is up (R190). -/
def targetPort (s : State) (t : Nat) : Bool :=
  (List.range 4).any fun p => bit (rd Reg.NVMF_TGT_CFG_RIM_PORTS t s) p && rdb Reg.RIM_PORT_STAT_UP p s

/-- The writes that failed on a target are to be issued again (R191). -/
def retryFailed (t : Nat) (s : State) : State :=
  let again := fun (e : Cull) => if e.place.tier == 4 && e.place.target == t then { e with failed := false } else e
  mapSlices (fun v => { v with cullet := v.cullet.map again, hold := v.hold.map again }) s

/-- A write to CONNECT of the target in UM_NVMF_TGT_SEL: connects where the target answers, or disconnects; write-backs that
waited for the connection go out. -/
def connectTarget (on answered : Bool) (capacity : Nat) (s : State) : State :=
  let t := rd Reg.NVMF_TGT_SEL_TARGET 0 s
  let u := send (.nvmfConnect t on) (wr Reg.NVMF_TGT_CTRL_CONNECT t (b2n on) s)
  if !on then loseTarget t u
  else if answered && targetPort s t && !rdb Reg.NVMF_TGT_STAT_CONNECTED t s then
    issueWaiting (retryFailed t (wr Reg.NVMF_TGT_STAT_CAPACITY t capacity (wr Reg.NVMF_TGT_STAT_CONNECTED t 1 u)))
  else u

/-- NVMF_CONNECT (R190): the write, whether the target answered, and its capacity. Targets connect in READY (R358). -/
def execNvmfConnect (on : Bool) (answered : Bool) (capacity : Dword) (s : State) : Host.Outcome State Fault Refusal :=
  done s (apWrite 0x1830 s (connectTarget on (answered && isReady s) capacity.toNat))

/-- Targets that are connected. -/
def connectedTargets (s : State) : List Nat := (List.range 256).filter fun t => rdb Reg.NVMF_TGT_STAT_CONNECTED t s

/-- KEEP_ALIVE (R381): one to each connected target. -/
def execKeepAlive (s : State) : Host.Outcome State Fault Refusal :=
  done s ((connectedTargets s).foldl (fun t k => send (.keepAlive k) t) s)

/-! ### Queue pairs of peers (R379, R380) -/

/-- Queue pairs of a peer on a port. -/
def peerQps (s : State) (p k : Nat) : PeerQps := Sparse.get {} s.remote.qps (p * 4 + k)

/-- Replaces them. -/
def setPeerQps (p k : Nat) (v : PeerQps) (s : State) : State :=
  { s with remote := { s.remote with qps := Sparse.set {} s.remote.qps (p * 4 + k) v } }

/-- Whether this chip sends the REQ to a peer: the lower UM_CHIP_ID does. -/
def leads (s : State) (p : Nat) : Bool := decide (rd Reg.CHIP_ID_CHIP 0 s < p)

/-- Applies `f` to both queue pairs. -/
def PeerQps.map (f : Qp → Qp) (v : PeerQps) : PeerQps := { data := f v.data, abort := f v.abort }

/-- A queue pair that is to be connected begins to; a connected one stays. -/
def Qp.begin (v : Qp) : Qp := if v.st == .connected then v else { v with st := .connecting }

/-- A queue pair whose exchange has ended: connected, at line rate. -/
def Qp.join (v : Qp) : Qp := if v.st == .connecting then { st := .connected } else v

/-- Whether the queue pairs of a peer and port may be connected: CONNECT is 1 and the port is up. -/
def mayConnect (s : State) (p k : Nat) : Bool := rdb Reg.RIM_PEER_CTRL_CONNECT (p * 4 + k) s && rdb Reg.RIM_PORT_STAT_UP k s

/-- Starts the exchange for the queue pairs of a peer that are not connected. The chip with the higher number waits for the REQ. -/
def startExchange (p k : Nat) (s : State) : State :=
  let v := peerQps s p k
  if !mayConnect s p k || (v.data.st == .connected && v.abort.st == .connected) || !leads s p then s
  else send (.cm p k .req) (setPeerQps p k (v.map Qp.begin) s)

/-- A write of UM_RIM_PEER_CTRL.CONNECT for the peer and port in UM_RIM_PEER_SEL (R380). -/
def writePeerConnect (on : Bool) (s : State) : State :=
  let p := rd Reg.RIM_PEER_SEL_PEER 0 s
  let k := rd Reg.RIM_PEER_SEL_PORT 0 s
  let u := wr Reg.RIM_PEER_CTRL_CONNECT (p * 4 + k) (b2n on) s
  if on then startExchange p k u else setPeerQps p k {} u

/-- RIM_PEER_CONNECT (R380). -/
def execRimPeerConnect (on : Bool) (s : State) : Host.Outcome State Fault Refusal :=
  done s (apWrite 0x18C4 s (writePeerConnect on))

/-- QP_RECONNECT (R380): an attempt for the queue pairs in error. -/
def execQpReconnect (peer : ChipNo) (port : PortNo) (s : State) : Host.Outcome State Fault Refusal :=
  done s (startExchange peer.toNat port.toNat s)

/-- CM_MESSAGE (R380): a REQ is answered by a REP, a REP by an RTU, and the queue pairs connect. -/
def execCmMessage (peer : ChipNo) (port : PortNo) (kind : CmKind) (s : State) : Host.Outcome State Fault Refusal :=
  done s (
    let p := peer.toNat
    let k := port.toNat
    let v := peerQps s p k
    if !mayConnect s p k then s
    else match kind, leads s p with
      | .req, false => send (.cm p k .rep) (setPeerQps p k (v.map Qp.begin) s)
      | .rep, true =>
        if v.data.st == .connecting || v.abort.st == .connecting then
          send (.cm p k .rtu) (setPeerQps p k (v.map Qp.join) s)
        else s
      | .rtu, false => setPeerQps p k (v.map Qp.join) s
      | _, _ => s)

/-- Modifies the data or the abort queue pair. -/
def modQp (p k : Nat) (abort : Bool) (f : Qp → Qp) (s : State) : State :=
  let v := peerQps s p k
  setPeerQps p k (if abort then { v with abort := f v.abort } else { v with data := f v.data }) s

/-- QUEUE_PAIR_ERROR (R380): shown as ERROR until reconnected. -/
def execQueuePairError (peer : ChipNo) (port : PortNo) (abortQp : Bool) (s : State) : Host.Outcome State Fault Refusal :=
  done s (modQp peer.toNat port.toNat abortQp (fun q => if q.st == .down then q else { q with st := .error }) s)

/-- CNP (R379): the queue pair's send rate halves. -/
def execCnp (peer : ChipNo) (port : PortNo) (abortQp : Bool) (s : State) : Host.Outcome State Fault Refusal :=
  done s (modQp peer.toNat port.toNat abortQp
    (fun q => if q.st == .connected then { q with halvings := q.halvings + 1 } else q) s)

/-- A send rate 5 % of line rate higher, line rate at most (R379). -/
def Qp.recover (q : Qp) : Qp :=
  if q.num + 2 ^ q.halvings ≥ 20 * 2 ^ q.halvings then { q with num := 20, halvings := 0 }
  else { q with num := q.num + 2 ^ q.halvings }

/-- RATE_RECOVERY (R379). -/
def execRateRecovery (s : State) : Host.Outcome State Fault Refusal :=
  done s { s with remote :=
    { s.remote with qps := Sparse.mapVals {} (fun _ v => PeerQps.map Qp.recover v) s.remote.qps } }

/-! ### Rim ports (R193, R378) -/

/-- RIM_LINK_DOWN (R193). -/
def execRimLinkDown (port : PortNo) (s : State) : Host.Outcome State Fault Refusal :=
  done s (wr Reg.RIM_PORT_STAT_UP port.toNat 0 s)

/-- Positions of a port. -/
def portPositions (k : Nat) : List Nat := (List.range 8).map (9 * k + ·)

/-- The lane pairs of a port at its retrain: the spare takes the position of a failed pair (R378, 12 Table 14). -/
def fillPort (k : Nat) (s : State) : State :=
  let l := (portPositions k).filter fun i => vacant s 8 i && !(spares s 8 i).isEmpty
  if l.isEmpty then s else countEpoch (l.foldl (fun t i => fillPos t (8, i)) s)

/-- Whether a position of a port is served by its spare pair. -/
def spareUsed (s : State) (k : Nat) : Bool := (portPositions k).any fun i => physOf s 8 i == some (9 * k + 8)

/-- RIM_LINK_UP (R326, R378): a port with a position that no pair serves stays down. A port the supervisor took down at its trip
temperature stays down (R336), as do the ports of a failed reference (R366) and those of an engine in U3 (R333). -/
def execRimLinkUp (port : PortNo) (s : State) : Host.Outcome State Fault Refusal :=
  done s (
    let k := port.toNat
    let ref := if k < 2 then s.pins.rim0Fail else s.pins.rim1Fail
    if phaseOf s = 0 ∨ phaseOf s = 7 ∨ k ∈ s.sup.tripped ∨ ref ∨ asleep s then s
    else
      let t := fillPort k s
      if (portPositions k).any fun i => vacant t 8 i then t
      else wr Reg.RIM_PORT_STAT_SPARE_USED k (b2n (spareUsed t k)) (wr Reg.RIM_PORT_STAT_UP k 1 t))

end Sys2Proof.Machine
end

