-- ==== Sys2Proof/Machine/Reset.lean ====
section
/-! DEFINITION. The reset ladder: the request of a rung, its steps, and the tick of the clock in which a running rung goes on (R310
to R313, R325, R363). -/

namespace Sys2Proof.Machine

/-! ### Domains -/

/-- Whether a rung's domain holds a context (12 Table 7). -/
def Rung.covers (s : State) (r : Rung) (c : Nat) : Bool := r.rung != 3 || r.parts.contains (ctx s c).part

/-- Contexts of a rung's domain that are not FREE or QUARANTINED. -/
def domainCtxs (s : State) (r : Rung) : List Nat :=
  (s.ctxs.filter fun e => (e.2.st == .opened || e.2.st == .closing || e.2.st == .resetting) && r.covers s e.1).map (·.1)

/-- Logical slices of a rung's domain. -/
def domainPositions (s : State) (r : Rung) : List Nat :=
  if r.rung = 3 then r.parts.flatMap fun p => let e := (layoutOf s).getD p (0, 0); (List.range e.2).map (e.1 + ·)
  else List.range 16

/-- Physical slices of a rung's domain; a chip reset takes every slice. -/
def domainSlices (s : State) (r : Rung) : List Nat :=
  if r.rung = 3 then dedup ((domainPositions s r).filterMap (physOf s 1)) else List.range 17

/-! ### Steps 1 and 2 -/

/-- A chip reset closes the host-path sluice (R313). -/
def fenceHost (r : Rung) (s : State) : State :=
  if r.rung = 4 then dropTranslations { s with host := { s.host.unenabled with st := .closed } } else s

/-- Step 1 of a rung (R311, R312). -/
def fenceRung (r : Rung) (s : State) : State :=
  let t := { s with rung := some { r with step := 1 } }
  let open_ := (domainCtxs t r).filter fun c => (ctx t c).st == .opened
  fencePushes (fenceLookups (fenceHost r (open_.foldl (fun u c => fenceCtx c .resetting u) t)))

/-- Step 2: the rung's dump begins, once no other is being collected; without one the rung goes on (R318). -/
def dumpRung (s : State) : State :=
  match s.rung with
  | none => s
  | some r =>
    if s.dump.collect.isSome then s
    else
      let t := beginDump r.rung (if r.rung = 3 then r.part else 0) r.errSeq s
      { t with rung := some { r with step := if t.dump.collect.isSome then 2 else 3 } }

/-- Begins a rung; a held one only fences (R312). -/
def startRung (r : Rung) (s : State) : State := if r.held then fenceRung r s else dumpRung (fenceRung r s)

/-! ### Requests -/

/-- A request is ignored and shown as REFUSED. -/
def refuseRung (s : State) : State := wr Reg.RESET_STAT_REFUSED 0 1 s

/-- A request for rung 3 while rung 3 runs: the domains unite. -/
def widenRung (r q : Rung) (s : State) : State :=
  let more := q.parts.filter fun p => !r.parts.contains p
  if more.isEmpty then s
  else
    let n := { r with parts := r.parts ++ more, step := min r.step 3 }
    { fenceRung n s with rung := some n }

/-- A chip reset asked for during the start-up's own MEMORY phase lets the zeroing of R352 end first (R365). -/
def zeroFirst (q : Rung) (s : State) : State :=
  if q.rung = 4 ∧ phaseOf s = 1 then { s with tiers := { s.tiers with dram := [], poison := [] } } else s

/-- A request for a rung (R310, R312, R327, R365). `auto`: the engine's own, under the cap. Before READY rungs 2 and 3 are
refused; a chip reset restarts the start-up, which in SUPERVISOR and FAULT goes on. A narrower rung is absorbed, or refused
when software asks for it; a wider one takes over, a rung 3 that takes over a rung 2 for every partition; a held one runs once
software asks for it or for a wider one. -/
def requestRung (q : Rung) (auto : Bool) (s : State) : State :=
  if phaseOf s = 0 ∨ phaseOf s = 7 then s
  else if q.rung ≤ 3 ∧ !isReady s then (if auto then s else refuseRung s)
  else
    let n := { q with held := auto && overCap s q.rung }
    match s.rung with
    | none => startRung n (zeroFirst q s)
    | some r =>
      if q.rung < r.rung then (if auto then s else refuseRung s)
      else if q.rung > r.rung then
        startRung (if q.rung = 3 then { n with parts := List.range (layoutOf s).length } else n) s
      else if r.held && !auto then startRung { n with parts := dedup (r.parts ++ q.parts) } s
      else if q.rung = 3 then widenRung r q s
      else if q.rung = 4 ∧ r.step = 7 then startRung n s
      else s

/-- The rung that the engine requests itself, for a partition and the record behind it. -/
def autoRung (rung part err : Nat) (s : State) : State :=
  requestRung { rung := rung, parts := [part], part := part, step := 0, held := false, requester := 1, reload := false,
                errSeq := err } true s

/-- The rung that software or the tray controller requests. -/
def askRung (rung part requester : Nat) (reload : Bool) (s : State) : State :=
  requestRung { rung := rung, parts := [part], part := part, step := 0, held := false, requester := requester,
                reload := reload, errSeq := noSeq } false s

/-! ### Steps 3 to 5 -/

/-- The status that ends the commands of a rung's domain (12 Table 7). -/
def Rung.verdict (r : Rung) : Verdict := (.aborted, if r.rung = 3 then 4 else 3, 0)

/-- Step 4 for a context: its peers are told (R311, R316). A context that is CLOSING closes. -/
def endContext (r : Rung) (s : State) (c : Nat) : State :=
  let job := rd Reg.CTX_JOB_JOB_ID c s
  if (ctx s c).st == .closing then finishClose c (r.rung + 1) job r.errSeq s
  else abortCtx c (r.rung + 1) job r.errSeq (releaseCtx c s)

/-- Physical slices that no longer answer. -/
def isDead (s : State) (p : Nat) : Bool := (unit s (unitId 1 p)).dead

/-- Step 5 for a slice: its dirty copies are written back; those of a slice that does not answer are lost (R131, R304). -/
def emptySlice (s : State) (p : Nat) : State :=
  if isDead s p then
    logErr 0x0013 0 none (unitId 1 p) (0xFFF + 0xFFFFFFFF * 2 ^ 32) (setSlice p (slice s p).cleared s)
  else writeBackSlice s p

/-- The images of matrix B at step 5 (R362): written at rungs 3 and 4, and to be read back where no other partition keeps a
copy. -/
def keepImages (r : Rung) (s : State) : State :=
  if r.rung = 4 ∨ (r.rung = 3 ∧ (layoutOf s).length = 1) then stageImages s
  else if r.rung = 3 then (Sparse.keys s.tables).foldl (fun x k => writeImages k x) s
  else s

/-- Steps 3 to 5 of a rung (R311, R182). Steps 4 and 5 wait until every command that step 3 ended has posted its reply (R39). -/
def endDomain (r : Rung) (s : State) : State :=
  let l := domainCtxs s r
  let e := l.foldl (fun u c => endCtx c r.verdict u) s
  if l.any (hasCmds e) then e
  else
    let t := endMoves (l.foldl (endContext r) e)
    { keepImages r ((domainSlices t r).foldl emptySlice t) with rung := some { r with step := 6 } }

/-! ### Step 6 -/

/-- Fetches into some slices fill nothing any more; their data is dropped when it comes. -/
def looseFetches (p : Nat → Bool) (s : State) : State :=
  { s with fetches := s.fetches.map fun f => if p f.slice then { f with dest := .none } else f }

/-- What an engine reset clears (14 Table 7). -/
def resetEngine (s : State) : State :=
  let t := mapSlices (fun v => { v with slots := [] }) s
  { t with lehr := [], valves := [], mods := [], arb := { used := t.arb.used }, host := { t.host with atc := [] } }

/-- What a partition reset clears: the SRAM of its slices. -/
def resetSlices (r : Rung) (s : State) : State :=
  let l := domainSlices s r
  l.foldl (fun t p => setSlice p (slice t p).cleared t) (looseFetches (fun p => l.contains p) s)

/-- Connections and ports that a chip reset takes down (14 Table 7). -/
def resetLinks (s : State) : State :=
  let t := (connectedTargets s).foldl (fun x k => wr Reg.NVMF_TGT_STAT_CONNECTED k 0 x) s
  let u := (List.range 4).foldl (fun x k => wr Reg.RIM_PORT_STAT_UP k 0 x) t
  { u with
    remote := { nextIo := u.remote.nextIo }
    tower := {}
    host := { u.host with st := .closed, cause := 1, linkUp := false, fresh := true, afterReset := true, held := [], atc := [],
                          msixPending := false, ats := false, alloc := 0, asked := [], invals := [] } }

/-- What a chip reset and U3 clear beside the contexts (14 Table 7): every SRAM, the queues and what was in flight. -/
def resetSram (s : State) : State :=
  let t := mapSlices Slice.cleared s
  { t with
    lehr := [], drains := [], fetches := [], partials := [], flushing := [], queues := [], arb := { used := t.arb.used }
    place := { t.place with old := [] } }

/-- What a chip reset clears: every SRAM, the queues, the links and what was in flight. Start-up enters MEMORY (R359). -/
def resetChip (s : State) : State :=
  let t := resetLinks (resetSram s)
  wr Reg.BOOT_STAT_PHASE 0 1 (wr Reg.SUP_PSTATE_STAT_STATE 0 0
    { t with valves := [], mods := [], sup := { t.sup with pstate := 0, stopped := [], parked := [], staged := none } })

/-- A logical slice at the end of a reset of its partition: a slice that failed, or whose OFFLINE was accepted, leaves; one whose
own slice is preferred becomes STANDBY (R323, R325). -/
def leaveSlice (s : State) (i : Nat) : State :=
  match physOf s 1 i with
  | none => s
  | some p =>
    let x := unit s (unitId 1 p)
    let own := unit s (unitId 1 i)
    let gone := { x with st := .offline, dead := false, leaving := false }
    if x.dead then setUnit (unitId 1 p) gone s
    else if x.leaving then (if (spares s 1 i).isEmpty then s else setUnit (unitId 1 p) gone s)
    else if p ≠ i ∧ own.st == .standby ∧ own.prefer then setUnit (unitId 1 p) { x with st := .standby } s
    else s

/-- The mapping epoch that ends step 6 (R324): slices join at a partition reset alone. -/
def resetEpoch (r : Rung) (s : State) : State :=
  let l := if r.rung = 3 then domainPositions s r else []
  let t := l.foldl leaveSlice s
  countEpoch ((l.map (fun i => (1, i)) ++ openPositions t).foldl fillPos t)

/-! ### Step 7 -/

/-- The contexts of a rung's domain open again, and the rung is done (R311). -/
def reopenDomain (r : Rung) (s : State) : State :=
  let l := (domainCtxs s r).filter fun c => (ctx s c).st == .resetting
  resetDone r.rung (if r.rung = 3 then r.part else 0) r.requester { l.foldl (fun t c => reopenCtx c t) s with rung := none }

/-- Steps 6 and 7; a chip reset goes on with the start-up (R359). -/
def releaseDomain (r : Rung) (s : State) : State :=
  if r.rung = 2 then reopenDomain r (resetEpoch r (resetEngine s))
  else if r.rung = 3 then reopenDomain r (resetEpoch r (resetSlices r s))
  else if r.rung = 4 then { resetChip s with rung := some { r with step := 7 } }
  else s

/-! ### The tick -/

/-- A running rung goes on (R311): its dump, steps 3 to 5, steps 6 and 7. -/
def advanceRung (s : State) : State :=
  match s.rung with
  | none => s
  | some r =>
    if r.held then s
    else match r.step with
      | 1 => dumpRung s
      | 3 => endDomain r s
      | 6 => releaseDomain r s
      | _ => s

/-- A rung whose dump has been sealed. -/
def sealedRung (s : State) : State :=
  match s.rung with
  | none => s
  | some r => if r.held then s else if r.step = 1 then dumpRung s else if r.step = 2 then { s with rung := some { r with step := 3 } } else s

/-- One tick of UM_CYCLE_COUNT while power is good and no save has halted the engine (log entry 2): a dump that is being collected is sealed, or a running rung goes
on. -/
def tick (s : State) : State :=
  if !s.pins.pwrGood || s.sup.halted then s
  else
    let t := { s with cycle := (s.cycle + tickBy s) % 2 ^ 64, mods := [] }
    match t.dump.collect with
    | some c => sealedRung (sealDump c t)
    | none => advanceRung (tickCtxs t)

end Sys2Proof.Machine
end

