-- ==== Sys2Proof/Machine/Save.lean ====
section
/-! DEFINITION. Filtered monitor values, in-band interrupts, and the critical-state record: its layout, the save, its check and its
read (R329, R330, R342 to R346, R384). -/

namespace Sys2Proof.Machine

/-! ### Filtered values (R329, R330) -/

/-- A monitor, by kind and index. -/
def mon (s : State) (kind i : Nat) : Mon := Sparse.get {} s.sup.mons (kind * 512 + i)

/-- Replaces a monitor. -/
def setMon (kind i : Nat) (m : Mon) (s : State) : State :=
  { s with sup := { s.sup with mons := Sparse.set {} s.sup.mons (kind * 512 + i) m } }

/-- Sum of samples. -/
def sumInt (l : List Int) : Int := l.foldl (· + ·) 0

/-- The mean of the newest `n` samples, rounded down (log entry 25). -/
def meanOf (n : Nat) (l : List Int) : Int := if l.isEmpty then 0 else sumInt (l.take n) / ((l.take n).length : Int)

/-- The median of the newest five samples, the lower of the middle two (log entry 25). -/
def medianOf (l : List Int) : Int :=
  let r := sortBy (fun a b : Int => decide (a < b)) (l.take 5)
  r.getD ((r.length - 1) / 2) 0

/-- The value that a failed monitor takes (R330): its throttle limit, or the peak figure of its rail in units of 0.1 W. -/
def failedValue (s : State) (kind i : Nat) : Int :=
  match kind with
  | 0 => 4 * (rd Reg.SUP_THERM_LIMIT_SLICE 0 s : Int)
  | 1 => 4 * (rd Reg.SUP_THERM_LIMIT_CIST 0 s : Int)
  | 2 => 4 * (rd Reg.SUP_THERM_LIMIT_HBM 0 s : Int)
  | 3 => 420
  | 5 => [2000, 2000, 2560, 4900].getD i 0
  | _ => 0

/-- The filtered value of a monitor (13 Table 1). -/
def filtered (s : State) (kind i : Nat) : Int :=
  let m := mon s kind i
  if m.failed then failedValue s kind i
  else match kind with
    | 2 => m.samples.headD 0
    | 4 => sumInt (m.samples.take 50)
    | 5 => meanOf 5 m.samples
    | 6 => medianOf m.samples
    | _ => meanOf 4 m.samples

/-! ### In-band interrupts -/

/-- Raises an in-band interrupt while they are enabled (R384). -/
def raiseIbi (data : Nat) (s : State) : State := if s.i3c.events then send (.ibi data) s else s

/-! ### The record (13 Table 6) -/

/-- Values of a version register: those of R81 where there is no such version. -/
def verReg (v : Option Version) : Nat := (v.map (·.num)).getD noVersion

/-- The state of every table that the record keeps: PUB_VER, WORK_VER, COMMIT_STEP. -/
def tableStates (s : State) : List (Nat × Nat × Nat × Nat) :=
  (Sparse.keys s.tables).filterMap fun t =>
    let tb := table s t
    if tb.defined then some (t, verReg tb.published, verReg tb.working, tb.step) else none

/-- TABLES: 4,096 entries of 12 bytes. -/
def tableEntries (l : List (Nat × Nat × Nat × Nat)) : List Byte :=
  (List.range 4096).flatMap fun t =>
    let e := ((l.find? fun e => e.1 == t).map (·.2)).getD (noVersion, noVersion, 0)
    toLE 4 e.1 ++ toLE 4 e.2.1 ++ toLE 4 e.2.2

/-- Records in the record: the newest 508 at most. -/
def recordCount (s : State) : Nat := min 508 s.errs.head

/-- ERRORS: the newest records in ascending SEQ. -/
def errorEntries (s : State) : List Byte :=
  let n := recordCount s
  let rs := (List.range n).flatMap fun i => bytesOf (Sparse.get {} s.errs.slots ((s.errs.head - n + i) % 1024)).words
  rs ++ List.replicate (32 * (508 - n)) 0#8

/-- FLAGS bit 1: HOLD_FAIL, which shows before READY also while no test of the capacitor has passed (R348, R365). -/
def holdFail (s : State) : Bool :=
  rdb Reg.SUP_HOLD_STAT_FAIL 0 s || (!isReady s && rd Reg.SUP_HOLD_STAT_C_UF 0 s == 0)

/-- The record's header with a CRC. -/
def recordHeader (s : State) (cause seq crc : Nat) : List Byte :=
  let d := s.dump
  toLE 4 0x56534C4C ++ toLE 2 1 ++ toLE 2 cause ++ toLE 4 seq ++ toLE 4 65536 ++ toLE 8 s.cycle
  ++ toLE 2 (rd Reg.CHIP_ID_CHIP 0 s) ++ toLE 2 0 ++ toLE 4 s.errs.head ++ toLE 4 (recordCount s)
  ++ toLE 4 (if d.valid then d.seq else 0xFFFFFFFF) ++ toLE 8 (if d.valid then d.sealing else 0)
  ++ toLE 4 (rd Reg.SUP_HOLD_STAT_WEAK 0 s + 2 * b2n (holdFail s) + 4 * b2n d.collect.isSome)
  ++ toLE 4 (filtered s 7 0).toNat ++ List.replicate 64 0#8 ++ toLE 8 crc

/-- The record (R345): in U3 its table state is the copy staged at entry. -/
def recordBytes (s : State) (cause seq : Nat) : List Byte :=
  let body := tableEntries (s.sup.staged.getD (tableStates s)) ++ errorEntries s
  recordHeader s cause seq (crc64 (recordHeader s cause seq 0 ++ body)) ++ body

/-- SAVE_SEQ of a slot. -/
def recSeq (bs : List Byte) : Nat := fromLE ((bs.drop 8).take 4)

/-- CAUSE of a slot. -/
def recCause (bs : List Byte) : Nat := fromLE ((bs.drop 6).take 2)

/-- Whether a slot holds a valid record: MAGIC and CRC (R346). -/
def recValid (bs : List Byte) : Bool :=
  bs.length == 65536 && fromLE (bs.take 4) == 0x56534C4C
  && fromLE ((bs.drop 120).take 8) == crc64 (bs.take 120 ++ List.replicate 8 0#8 ++ bs.drop 128)

/-- A slot of the retention store: 0 is A, 1 is B. -/
def recSlot (s : State) (i : Nat) : List Byte := s.ret.recs.getD i []

/-- The slot of the valid record with the higher SAVE_SEQ. -/
def newestRec (s : State) : Option Nat :=
  let a := recValid (recSlot s 0)
  let b := recValid (recSlot s 1)
  if a && b then (if recSeq (recSlot s 1) > recSeq (recSlot s 0) then some 1 else some 0)
  else if a then some 0 else if b then some 1 else none

/-! ### The save (R344) -/

/-- A region as its write leaves it. -/
def storeRegion (r : Nat) (s : State) : Retention :=
  let v := { s.ret with counts := modAt s.ret.counts (r - 1) (· + 1) }
  match r with
  | 2 => { v with sec := s.fw.sec }
  | 3 => { v with repair := s.ret.staged }
  | _ => v

/-- A save follows a write of the security region that has not ended (R365). -/
def settleSecurity (s : State) : State :=
  if s.ret.writing.contains 2 then { s with ret := { storeRegion 2 s with writing := s.ret.writing.filter (· != 2) } } else s

/-- Steps 1 to 5 of a save, after a security write: the record is written to the slot that does not hold the newest valid one, and the engine halts. -/
def saveRecord (cause : Nat) (s : State) : State :=
  let seq := match newestRec s with | none => 0 | some i => recSeq (recSlot s i) + 1
  let slot := match newestRec s with | some 0 => 1 | _ => 0
  { s with
    ret := { (settleSecurity s).ret with recs := setAt s.ret.recs slot (recordBytes s cause seq) }
    sup := { s.sup with halted := true } }

/-- A save of CAUSE 2 or 4 and the request for a power cycle (R313, R336, R384). -/
def saveAndAsk (cause : Nat) (s : State) : State :=
  let t := saveRecord cause s
  raiseIbi 1 { t with i3c := { t.i3c with cycleAsked := true } }

/-- SAG_CONFIRM (R343, R344): the second low sample confirms a sag; a single one is counted. -/
def execSagConfirm (secondLow : Bool) (s : State) : Host.Outcome State Fault Refusal :=
  done s (if !s.pins.pwrGood then s
    else if secondLow then saveRecord 1 s else bump Reg.SUP_SAG_GLITCH_CNT_COUNT 0 1 s)

/-! ### The record found at start-up (R346) -/

/-- The slot whose record the last start-up took: UM_SUP_REC_STAT shows its SAVE_SEQ. -/
def takenRec (s : State) : List Byte :=
  if !rdb Reg.SUP_REC_STAT_VALID 0 s then []
  else ((s.ret.recs.find? fun r => recValid r && recSeq r == rd Reg.SUP_REC_STAT_SAVE_SEQ 0 s)).getD []

/-- `n` bytes of the record taken; bytes outside it read 0. -/
def recBytes (s : State) (o n : Nat) : List Byte := (List.range n).map fun i => (takenRec s).getD (o + i) 0#8

/-- A SAVE_INCOMPLETE record for a slot with a higher SAVE_SEQ whose check fails. -/
def noteIncomplete (best : Option Nat) (s : State) (i : Nat) : State :=
  let r := recSlot s i
  let higher := match best with | none => true | some b => decide (recSeq r > recSeq (recSlot s b))
  if r.isEmpty || recValid r || !higher then s else logSup 0xB (recCause r) (recSeq r) 0 s

/-- The supervisor's check of the two slots at start-up. -/
def findRecord (s : State) : State :=
  let best := newestRec s
  let t := match best with
    | none => s
    | some i =>
      let r := recSlot s i
      logSup 0xA (recCause r) (recSeq r) 0 (wr Reg.SUP_REC_STAT_VALID 0 1 (wr Reg.SUP_REC_STAT_CAUSE 0 (recCause r)
        (wr Reg.SUP_REC_STAT_SAVE_SEQ 0 (recSeq r) s)))
  [0, 1].foldl (noteIncomplete best) t

/-- The 4 bytes of the record at UM_SUP_REC_OFFSET (R346). -/
def recWord (s : State) : Nat := fromLE (recBytes s (rd Reg.SUP_REC_OFFSET_OFFSET 0 s) 4)

/-- A read of UM_SUP_REC_DATA advances the offset by 4 (R346, R402). -/
def advanceRec (s : State) : State := wr Reg.SUP_REC_OFFSET_OFFSET 0 (rd Reg.SUP_REC_OFFSET_OFFSET 0 s + 4) s

/-- SUP_REC_DATA_READ (R346). -/
def execSupRecDataRead (s : State) : Host.Outcome State Fault Refusal :=
  done s (apReadWith 0x2484 s fun t => (recWord t, advanceRec t))

end Sys2Proof.Machine
end

