-- ==== Sys2Proof/Machine/Faults.lean ====
section
/-! DEFINITION. The conditions that need a reset rung or take a unit out of service, and the commands that request a rung (R304 to
R313, R326). -/

namespace Sys2Proof.Machine

/-! ### Requests for a rung -/

/-- ENGINE_RESET (R310, R311): UM_RESET_CTRL with RUNG 2. -/
def execEngineReset (s : State) : Host.Outcome State Fault Refusal := done s (apWrite 0x2060 s (askRung 2 0 0 false))

/-- PARTITION_RESET (R310, R311): UM_RESET_CTRL with RUNG 3; a PART that the layout does not have names no partition. -/
def execPartitionReset (part : BitVec 2) (s : State) : Host.Outcome State Fault Refusal :=
  done s (apWrite 0x2060 s fun t => if part.toNat < (layoutOf t).length then askRung 3 part.toNat 0 false t else t)

/-- CHIP_RESET (R310, R311, R356): UM_RESET_CTRL with RUNG 4. -/
def execChipReset (fwReload : Bool) (s : State) : Host.Outcome State Fault Refusal :=
  done s (apWrite 0x2060 s (askRung 4 0 0 fwReload))

/-- CHIP_RST_N (R385): held low for at least 1 µs it requests rung 4. -/
def execChipRstN (lowNs : Nat) (s : State) : Host.Outcome State Fault Refusal :=
  done s (if lowNs < 1000 then s else askRung 4 0 2 false s)

/-! ### Escalation (R312, R313) -/

/-- The rung after one that timed out: rung 3 then runs for every partition. -/
def nextRung (r : Rung) (err : Nat) (s : State) : State :=
  let q : Rung := { r with rung := r.rung + 1, parts := List.range (layoutOf s).length, part := 0, step := 0, held := false,
                           requester := 1, errSeq := err }
  if r.rung < 4 then requestRung q true s
  else if overCap s 5 then { s with rung := some { q with held := true } }
  else saveAndAsk 2 s

/-- RUNG_TIMEOUT (R312): a rung that runs and has its dump sealed, or took none. -/
def execRungTimeout (s : State) : Host.Outcome State Fault Refusal :=
  done s (match s.rung with
    | none => s
    | some r =>
      if r.held || decide (r.step < 3) then s
      else nextRung r s.errs.head (logErr 0x0064 (rungAction s (r.rung + 1)) none 0 r.rung s))

/-! ### Units that do not answer (R307, R326) -/

/-- The partition of a logical slice. -/
def partOfSlice (s : State) (i : Nat) : Nat :=
  (idxOf (fun (e : Nat × Nat) => decide (e.1 ≤ i) && decide (i < e.1 + e.2)) (layoutOf s)).getD 0

/-- A slice that does not answer: its partition is reset; without a spare the chip is (R326). -/
def sliceDead (p : Nat) (s : State) : State :=
  let u := unitId 1 p
  match servedBy s u with
  | none => s
  | some i =>
    let rung := if (spares s 1 i).isEmpty then 4 else 3
    autoRung rung (partOfSlice s i) s.errs.head
      (logErr 0x0062 (rungAction s rung) none u 0 (setUnit u { unit s u with dead := true } s))

/-- NOT_RESPONDING (R307): a slice in service, or a shared block: 1 arbiter, 2 valve unit, 3 dispatch, 4 reset controller path. -/
def execNotResponding (unit : UnitId) (block : Byte) (s : State) : Host.Outcome State Fault Refusal :=
  done s (
    let u := unit.toNat
    if !isReady s then s
    else if u = 0 then
      if block.toNat = 0 ∨ block.toNat > 4 then s
      else autoRung 2 0 s.errs.head (logErr 0x0062 (rungAction s 2) none 0 block.toNat s)
    else if u / 4096 = 1 ∧ isUnit u ∧ (Machine.unit s u).st = .active ∧ !(Machine.unit s u).dead then sliceDead (u % 4096) s
    else s)

/-! ### The hang detector (R309) -/

/-- The record of a cycle for a context, and the reset of the context (R309, R316, R327). -/
def breakCycle (info : Nat) (s : State) (c : Nat) : State :=
  let act := rdb Reg.HANG_CFG_DEADLOCK_ACT 0 s && decide (c ≠ 0) && (ctx s c).st == .opened
  let t := logErr 0x0061 (if act then rungAction s 1 else 0) (some c) 0 info s
  if act then autoResetCtx c (.aborted, 1, 0) (rd Reg.CTX_JOB_JOB_ID c s) s.errs.head t else t

/-- The records of a new cycle. -/
def breakCycles (s0 s : State) (l : List (Nat × Nat)) : State :=
  let ids := l.map (·.1)
  (cycleCtxs s0 ids).foldl (breakCycle (cycleInfo s0 ids)) s

/-- Nodes that a sample newly places in FROZEN. -/
def newFrozen (s : State) : List Cmd :=
  ((classed s).filter fun h => h.cls == some 4 && !(s.hang.nodes.any fun g => g.cmd == h.cmd && g.cls == some 4)).filterMap
    fun h => cmd? s h.cmd

/-- Frozen nodes: one record per context, whose block the manual does not name (log entry 26), and an engine reset. -/
def unfreeze (cs : List Cmd) (s : State) : State :=
  if cs.isEmpty then s
  else
    let ks := dedup (cs.map (·.ctx))
    let block := (Config.freeByte s.freeCtr).toNat
    autoRung 2 0 s.errs.head (ks.foldl (fun t k => logErr 0x0062 (rungAction s 2) (some k) 0 block t) (useFree 1 s))

/-- HANG_SAMPLE (R307 to R309). -/
def execHangSample (s : State) : Host.Outcome State Fault Refusal :=
  done s (if isReady s then unfreeze (newFrozen s) ((newCycles s).foldl (breakCycles s) (takeSample s)) else s)

/-! ### Sequencer cores (R306) -/

/-- Commands that a core holds. -/
def heldBy (s : State) (p : Nat) : List Cmd :=
  match servedBy s (unitId 2 p) with
  | none => []
  | some i => s.cmds.filter fun c => c.core == some i

/-- A core that fails a check: OFFLINE, its commands end; with no core left the chip is reset. -/
def coreFails (check : Nat) (s : State) (p : Nat) : State :=
  let u := unitId 2 p
  let x := unit s u
  if !(x.st == .active || x.st == .standby) then s
  else
    let last := (List.range 9).all fun k => k == p || !((unit s (unitId 2 k)).st == .active || (unit s (unitId 2 k)).st == .standby)
    let act := if last then rungAction s 4 else takeover s 2 ((servedBy s u).getD 8)
    let t := takeOffline u (endHw (if x.st == .active then heldBy s p else []) 0x0060 act u check s)
    if last then autoRung 4 0 s.errs.head t else t

/-- CORE_FAULT (R306): check 1, an uncorrected memory error, or 3, a mismatch at a command boundary. -/
def execCoreFault (core check : BitVec 4) (s : State) : Host.Outcome State Fault Refusal :=
  done s (if core.toNat < 9 ∧ (check = 1#4 ∨ check = 3#4) then coreFails check.toNat s core.toNat else s)

/-- CORE_WATCHDOG_EXPIRY (R306): check 2, while the core holds a command. -/
def execCoreWatchdogExpiry (core : BitVec 4) (s : State) : Host.Outcome State Fault Refusal :=
  done s (if core.toNat < 9 ∧ !(heldBy s core.toNat).isEmpty then coreFails 2 s core.toNat else s)

/-- CORE_IMAGE_CHECK (R306): check 4 of the cores whose image differs from its CRC-32C. -/
def execCoreImageCheck (bad : List Nat) (s : State) : Host.Outcome State Fault Refusal :=
  done s ((bad.filter (· < 9)).foldl (coreFails 4) s)

/-! ### SRAM and lane groups (R305, R304) -/

/-- The weir whose partial store holds a word address: 128 KiB each, in vault order (log entry 27). -/
def weirOf (addr : Nat) : Nat := addr / 2 ^ 14

/-- Commands with a partial open in a weir. -/
def openInWeir (s : State) (v : Nat) : List Cmd :=
  s.cmds.filter fun c => s.partials.any fun p => p.cmd == c.id && p.vault == some v && !p.closed

/-- An uncorrected error in the SRAM of a slice: its partition is reset; a slice that serves no position is in none. -/
def sliceSram (sl info : Nat) (s : State) : State :=
  match servedBy s (unitId 1 sl) with
  | none => if sl < 17 then logErr 0x0052 0 none (unitId 1 sl) info s else s
  | some i => autoRung 3 (partOfSlice s i) s.errs.head (logErr 0x0052 (rungAction s 3) none (unitId 1 sl) info s)

/-- SRAM_UE (R305, 12 Table 4); structure 0 is the row SRAM, whose upsets the tile checks find (R141, log entry 20). -/
def execSramUe (slice : BitVec 5) (code : BitVec 4) (addr : BitVec 24) (s : State) : Host.Outcome State Fault Refusal :=
  done s (
    let a := addr.toNat
    let info := code.toNat + a * 2 ^ 8
    match code.toNat with
    | 0 => upsetWays slice.toNat a s.geom 0 s
    | 1 => sliceSram slice.toNat info s
    | 2 => sliceSram slice.toNat info s
    | 3 => sliceSram slice.toNat info s
    | 4 => sliceSram slice.toNat info s
    | 5 => endHw (openInWeir s (weirOf a)) 0x0052 0 0 info s
    | 6 => logErr 0x0052 0 none 0 info { s with host := { s.host with atc := s.host.atc.eraseIdx (a % max 1 s.host.atc.length) } }
    | 7 => logErr 0x0052 0 none 0 info s
    | 8 => autoRung 2 0 s.errs.head (logErr 0x0052 (rungAction s 2) none 0 info s)
    | 9 => autoRung 2 0 s.errs.head (logErr 0x0052 (rungAction s 2) none 0 info s)
    | _ => s)

/-- LANE_GROUP_FAULT (R304, R326): the group is OFFLINE; without a spare its slice is treated as not responding. -/
def execLaneGroupFault (slice group : BitVec 5) (s : State) : Host.Outcome State Fault Refusal :=
  done s (
    let sl := slice.toNat
    let u := unitId 3 (17 * sl + group.toNat)
    match servedBy s u with
    | none => s
    | some i =>
      if sl ≥ 17 ∨ group.toNat ≥ 17 ∨ (unit s u).st ≠ .active then s
      else
        let t := takeOffline u (logErr 0x0051 (takeover s 3 i) none u 0 s)
        if (spares s 3 i).isEmpty then sliceDead sl t else t)

end Sys2Proof.Machine
end

