-- ==== Sys2Proof/Machine/Supervisor.lean ====
section
/-! DEFINITION. The supervisor: monitors, power and thermal limits, voltage, ageing, link equalisation, clocks on demand, the power
states and the hold-up test (R328 to R341, R347, R348). -/

namespace Sys2Proof.Machine

/-! ### Samples (R329, R330) -/

/-- Monitors of a kind (13 Table 1). -/
def monCount (kind : Nat) : Nat :=
  match kind with
  | 0 => 17 | 1 => 260 | 2 => 8 | 3 => 4 | 4 => 17 | 5 => 4 | 6 => 68 | 7 => 1 | _ => 0

/-- Whether a sample lies in its monitor's range. -/
def inRange (kind : Nat) (v : Int) : Bool :=
  match kind with
  | 0 => decide (-160 ≤ v ∧ v ≤ 600)
  | 1 => decide (-160 ≤ v ∧ v ≤ 600)
  | 3 => decide (-160 ≤ v ∧ v ≤ 600)
  | 4 => decide (0 ≤ v)
  | 5 => decide (0 ≤ v ∧ v ≤ 10000)
  | 7 => decide (0 ≤ v ∧ v ≤ 4000)
  | _ => true

/-- Samples a monitor's filter keeps. -/
def monWindow (kind : Nat) : Nat :=
  match kind with
  | 2 => 1 | 4 => 50 | 5 => 5 | 6 => 5 | _ => 4

/-- A monitor after a valid sample; a failed one recovers at the sixteenth. -/
def Mon.valid (m : Mon) (kind : Nat) (v : Int) : Mon :=
  let n := { m with samples := (v :: m.samples).take (monWindow kind), bad := 0, since := min 50 (m.since + 1) }
  if !m.failed then n
  else if m.good + 1 ≥ 16 then { n with failed := false, good := 0 }
  else { n with good := m.good + 1 }

/-- The unit field of a SUPERVISOR record for a monitor (R341). -/
def monUnit (kind i : Nat) : Nat := kind * 4096 + i

/-- Value of a SUPERVISOR record. -/
def supValue (v : Int) : Nat := (v % 4294967296).toNat

/-- Sets HOLD_FAIL, with its record and interrupt where it was clear (R348, R384). -/
def setHoldFail (s : State) : State :=
  if rdb Reg.SUP_HOLD_STAT_FAIL 0 s then s
  else raiseIbi 5 (logSup 8 0x7000 (rd Reg.SUP_HOLD_STAT_E_UJ 0 s) 0 (wr Reg.SUP_HOLD_STAT_FAIL 0 1 s))

/-- A period without a valid sample; the third in a row fails the monitor. -/
def badSample (kind i : Nat) (s : State) : State :=
  let m := mon s kind i
  let n := { m with bad := m.bad + 1, good := 0 }
  if n.bad ≥ 3 ∧ !m.failed then
    let t := logSup 4 (monUnit kind i) 0 0 (setMon kind i { n with failed := true } s)
    if kind = 7 then setHoldFail t else t
  else setMon kind i n s

/-- The value a sample enters with: a droop detector's counts the events that DROOP_EVENT announced since (log entry 28). -/
def sampleValue (s : State) (kind i : Nat) (v : Int) : Int :=
  if kind = 4 then v + ((s.sup.stretched.filter (· == i)).length : Int) else v

/-- One sample of one monitor. -/
def takeMon (s : State) (x : MonSample) : State :=
  let k := x.kind.toNat
  let i := x.index.toNat
  if i ≥ monCount k then s
  else match x.value with
    | none => badSample k i s
    | some v => if inRange k v then setMon k i ((mon s k i).valid k (sampleValue s k i v)) s else badSample k i s

/-! ### Throttling (R22, R335 to R337) -/

/-- FMAX in force. -/
def fmax (s : State) : Nat := rd Reg.SUP_AGE_STAT_FMAX 0 s

/-- FMIN in force. -/
def fminNow (s : State) : Nat := rd Reg.SUP_VF_LIMIT_FMIN 0 s

/-- Whether a monitor of a kind throttles. -/
def anyThrottled (s : State) (kind : Nat) : Bool := (List.range (monCount kind)).any fun i => (mon s kind i).throttled

/-- UM_THROTTLE_STAT.CAUSE (R337). -/
def throttleCause (s : State) : Nat :=
  let power := decide (s.sup.hbm < 100) || decide (s.sup.cist < 100) || decide (s.sup.clk < fmax s)
  let tray := decide (rd Reg.SUP_TRAY_LIMIT_W 0 s < rd Reg.SUP_PWR_LIMIT_W 0 s)
  b2n (power && !tray) + 2 * b2n (power && tray) + 4 * b2n (anyThrottled s 0) + 8 * b2n (anyThrottled s 1)
  + 16 * b2n (anyThrottled s 2) + 32 * b2n (!s.sup.stretched.isEmpty)

/-- Shows the reductions in force (R337). -/
def showThrottle (s : State) : State :=
  wr Reg.THROTTLE_STAT_CAUSE 0 (throttleCause s)
    (wr Reg.THROTTLE_STAT_HBM_PCT 0 (min s.sup.hbm s.sup.therm.2.2)
      (wr Reg.THROTTLE_STAT_CIST_PCT 0 (min s.sup.cist s.sup.therm.2.1)
        (wr Reg.THROTTLE_STAT_CLK_MHZ 0 (min (fmax s) (min s.sup.clk s.sup.therm.1)) s)))

/-- Throttle limit of a temperature monitor, in 0.25 °C (13 Table 4). -/
def throttleLimit (s : State) (kind : Nat) : Int := failedValue s kind 0

/-- Trip of a temperature monitor, in 0.25 °C (13 Table 4). -/
def tripLimit (kind : Nat) : Int :=
  match kind with
  | 0 => 500 | 1 => 460 | 2 => 420 | _ => 460

/-- A rim port at its trip goes down; it may return 10 °C below (R336). -/
def tripPort (i : Nat) (t : Int) (s : State) : State :=
  if t ≥ tripLimit 3 then
    wr Reg.RIM_PORT_STAT_UP i 0 (if i ∈ s.sup.tripped then s else { s with sup := { s.sup with tripped := i :: s.sup.tripped } })
  else if t ≤ tripLimit 3 - 40 then { s with sup := { s.sup with tripped := s.sup.tripped.filter (· != i) } }
  else s

/-- The throttle of one temperature monitor (R336). -/
def throttleMon (kind i : Nat) (s : State) : State :=
  let m := mon s kind i
  let t := filtered s kind i
  let u := if kind = 3 then tripPort i t s else s
  if t > throttleLimit s kind ∧ !m.throttled then
    logSup 1 (monUnit kind i) (supValue t) 0 (setMon kind i { m with throttled := true } u)
  else if t ≤ throttleLimit s kind - 12 then setMon kind i { m with throttled := false } u
  else u

/-- Whether a slice, vault or stack has reached its trip. -/
def tripped (s : State) (e : Nat × Nat) : Bool := decide (e.1 < 3) && decide (filtered s e.1 e.2 ≥ tripLimit e.1)

/-- The trip of the engine (R336): its record, the fence of a chip reset, the save of CAUSE 4, the request for a power cycle. -/
def tripEngine (e : Nat × Nat) (s : State) : State :=
  let t := logSup 2 (monUnit e.1 e.2) (supValue (filtered s e.1 e.2)) 5 s
  saveAndAsk 4 (fenceRung { rung := 4, parts := [], part := 0, step := 1, held := true, requester := 1, reload := false,
                            errSeq := s.errs.head } t)

/-- One step down while a monitor throttles, one step up after (R336, log entry 23). -/
def stepTo (throttled : Bool) (now lo hi by_ : Nat) : Nat := if throttled then max lo (now - by_) else min hi (now + by_)

/-- The thermal reductions after a sample. -/
def thermStep (s : State) : Nat × Nat × Nat :=
  (stepTo (anyThrottled s 0) s.sup.therm.1 (fminNow s) 1000 25, stepTo (anyThrottled s 1) s.sup.therm.2.1 10 100 1,
   stepTo (anyThrottled s 2) s.sup.therm.2.2 10 100 1)

/-- The engine's power in 0.1 W: the sum of the rail monitors (R334). -/
def powerNow (s : State) : Nat := (sumInt ((List.range 4).map (filtered s 5))).toNat

/-- The power limit in force in 0.1 W (R334). -/
def powerLimit (s : State) : Nat := 10 * min (rd Reg.SUP_PWR_LIMIT_W 0 s) (rd Reg.SUP_TRAY_LIMIT_W 0 s)

/-- Reduces supply for an excess, in the order of R22; what each per cent saves is taken from 01 Table 4 (log entry 23). -/
def reduceSupply (e : Nat) (v : Sup) (fmin_ : Nat) : Sup :=
  let h := max (min v.hbm 50) (v.hbm - ceilDiv (100 * e) 4200)
  let e2 := e - 42 * (v.hbm - h)
  let c := max (min v.cist 50) (v.cist - ceilDiv (100 * e2) 2560)
  let e3 := e2 - 256 * (v.cist - c) / 10
  { v with hbm := h, cist := c, clk := if e3 = 0 then v.clk else max (min v.clk fmin_) (v.clk - 25), below := 0, limited := true }

/-- Restores supply by one step in the reverse order (R335). -/
def restoreSupply (v : Sup) (fmax_ : Nat) : Sup :=
  if v.clk < fmax_ then { v with clk := min fmax_ (v.clk + 25) }
  else if v.cist < 100 then { v with cist := v.cist + 1 }
  else if v.hbm < 100 then { v with hbm := v.hbm + 1 }
  else v

/-- The power loop at a sample (R335). -/
def powerStep (s : State) : Sup :=
  let p := powerNow s
  let l := powerLimit s
  let v : Sup := { s.sup with limited := false }
  if p > l then reduceSupply (p - l) v (fminNow s)
  else if 100 * p ≤ 97 * l then
    let w : Sup := { v with below := v.below + 1 }
    if w.below ≥ 10 then restoreSupply w (fmax s) else w
  else { v with below := 0 }

/-! ### Voltage and droop (R338) -/

/-- The core rail's target: the voltage floor, the droop steps, and 25 mV while a droop detector has failed, within VMIN to VMAX and
the absolute range. -/
def voltTarget (s : State) : Nat :=
  let bad := (List.range 17).any fun i => (mon s 4 i).failed
  let v := rd Reg.SUP_AGE_STAT_VFLOOR 0 s + 5 * s.sup.droop + (if bad then 25 else 0)
  min (max v (max (rd Reg.SUP_VF_LIMIT_VMIN 0 s) (rd Reg.RET_CFG_VOLT_V_ABS_MIN 0 s)))
    (min (rd Reg.SUP_VF_LIMIT_VMAX 0 s) (rd Reg.RET_CFG_VOLT_V_ABS_MAX 0 s))

/-- The set-point word of the core rail, rail 0, in steps of 5 mV (R386). -/
def coreWord (mv : Nat) : Nat := mv / 5 % 4096

/-- Moves the set point by one step, at most once per millisecond (R338). -/
def voltStep (s : State) : State :=
  let v := s.sup.vset
  let goal := voltTarget s
  let t := { s with sup := { s.sup with vage := min 50 (s.sup.vage + 1) } }
  if v = goal ∨ t.sup.vage < 50 then t
  else
    let w := if v < goal then v + 5 else v - 5
    send (.vreg 0 (coreWord w))
      { t with sup := { t.sup with vset := w, vage := 0 }, pins := { t.pins with vregTries := Sparse.set 0 t.pins.vregTries 0 0 } }

/-- The droop rule for a slice: one step in a millisecond in which its events exceed RATE (R338). -/
def droopRule (i : Nat) (s : State) : State :=
  let m := mon s 4 i
  let n := filtered s 4 i
  if n > (rd Reg.SUP_DROOP_CFG_RATE 0 s : Int) ∧ m.since ≥ 50 then
    logSup 3 (monUnit 4 i) (supValue n) 0
      (setMon 4 i { m with since := 0 } { s with sup := { s.sup with droop := s.sup.droop + 1 } })
  else s

/-- DROOP_EVENT (R338): the slice's clock is stretched until its 32 cycles are over, which the next sample sees; the event is
counted. -/
def execDroopEvent (slice : BitVec 5) (s : State) : Host.Outcome State Fault Refusal :=
  done s (if slice.toNat < 17 ∧ s.pins.pwrGood ∧ !asleep s then
      showThrottle { s with sup := { s.sup with stretched := slice.toNat :: s.sup.stretched } }
    else s)

/-- DROOP_STEP_REMOVE (R338): one step less after 100 ms in which no slice exceeded RATE. -/
def execDroopStepRemove (s : State) : Host.Outcome State Fault Refusal :=
  done s (
    let high := (List.range 17).any fun i => decide (filtered s 4 i > (rd Reg.SUP_DROOP_CFG_RATE 0 s : Int))
    if high then s else { s with sup := { s.sup with droop := s.sup.droop - 1 } })

/-! ### Refresh (R159, R160) -/

/-- The band of a vault for a reading in 0.25 °C: a hotter one at once, a cooler one 3 °C below its boundary (R159). -/
def bandFor (t : Int) (band : Nat) : Nat :=
  let hot := if t > 380 then 2 else if t > 340 then 1 else 0
  let cool := if t > 368 then 2 else if t > 328 then 1 else 0
  if hot > band then hot else min band cool

/-- Sets the band of a vault. -/
def setBand (i : Nat) (s : State) : State :=
  let u := unitId 6 i
  setMemUnit u { memUnit s u with band := bandFor (filtered s 1 i) (memUnit s u).band } s

/-- CISTERN_REFRESH (R159): a refresh of a vault, at the interval of its band. -/
def execCisternRefresh (vault : BitVec 9) (s : State) : Host.Outcome State Fault Refusal :=
  done s (if vault.toNat < 260 then setBand vault.toNat s else s)

/-- HBM_REFRESH (R160): the rate that a stack reports for its 32 channels. -/
def execHbmRefresh (stack rate : BitVec 3) (s : State) : Host.Outcome State Fault Refusal :=
  done s ((List.range 32).foldl (fun t j =>
    let u := unitId 7 (32 * stack.toNat + j)
    setMemUnit u { memUnit t u with rate := rate.toNat } t) s)

/-! ### MONITOR_SAMPLE -/

/-- What follows one monitor's sample. -/
def afterSample (s : State) (x : MonSample) : State :=
  let k := x.kind.toNat
  let i := x.index.toNat
  if i ≥ monCount k then s
  else if k = 1 then setBand i (throttleMon k i s)
  else if k ≤ 3 then throttleMon k i s
  else if k = 4 then droopRule i s
  else s

/-- The supply after a sample: thermal steps, the power loop, the voltage, and what UM_THROTTLE_STAT shows. -/
def settleSupply (s : State) : State :=
  let t := { s with sup := { s.sup with therm := thermStep s, stretched := [] } }
  showThrottle (voltStep { t with sup := powerStep t })

/-- Counts the 20 µs of a sample period in which a reduction was in force (R337). -/
def countThrottle (s : State) : State :=
  if rd Reg.THROTTLE_STAT_CAUSE 0 s = 0 then s else bump Reg.THROTTLE_TIME_US_US 0 20 s

/-- What one sample period changes; in U3, where nothing is throttled, only the filtered values (R349). -/
def takeSamples (samples : List MonSample) (s : State) : State :=
  let t := samples.foldl takeMon (countThrottle s)
  if asleep s then t else samples.foldl afterSample t

/-- MONITOR_SAMPLE (R329, R335 to R338): the samples of one 20 µs period. -/
def execMonitorSample (samples : List MonSample) (s : State) : Host.Outcome State Fault Refusal :=
  done s (
    if !s.pins.pwrGood then s
    else
      let t := takeSamples samples s
      match (samples.map fun x => (x.kind.toNat, x.index.toNat)).find? fun e => decide (e.2 < monCount e.1) && tripped t e with
      | some e => tripEngine e t
      | none => if asleep s then t else settleSupply t)

/-! ### Ageing (R339) -/

/-- The worst slack of the ageing monitors that are not failed. -/
def worstSlack (s : State) : Option Int :=
  (List.range 68).foldl (fun (w : Option Int) i =>
    let m := mon s 6 i
    if m.failed || m.samples.isEmpty then w
    else some (match w with | none => filtered s 6 i | some v => min v (filtered s 6 i))) none

/-- FMIN after a re-plan: raised to an FMAX below it for as long as that stands. -/
def raiseFmin (f : Nat) (s : State) : State :=
  let want := s.sup.fmin.getD (fminNow s)
  let t := wr Reg.SUP_VF_LIMIT_FMIN 0 (min f want) s
  { t with sup := { t.sup with fmin := if f < want then some want else none } }

/-- The re-plan: VFLOOR and FMAX, a record where FMAX changes, and the ageing history (R339). -/
def replan (s : State) : State :=
  let w := worstSlack s
  let m := rd Reg.SUP_AGE_CFG_MARGIN_PCT 0 s
  let vmax := rd Reg.SUP_VF_LIMIT_VMAX 0 s
  let v := 5 * Config.vfloorCode w m
  let vf := min v vmax
  let f := min (rd Reg.RET_CFG_MISC_FMAX_CAP 0 s) (if v ≤ vmax then 1000 else min 1000 (25 * Config.fmaxSteps w m vmax))
  let t := if f = fmax s then s else logSup 5 0 (f + vf * 2 ^ 16) 0 s
  let u := wr Reg.SUP_AGE_STAT_FMAX 0 f (wr Reg.SUP_AGE_STAT_VFLOOR 0 vf (wr Reg.SUP_AGE_STAT_TIME 0 s.cycle t))
  showThrottle (raiseFmin f (dueWrite 4 { u with ret := { u.ret with ageing := w.toList ++ u.ret.ageing },
                                                 sup := { u.sup with clk := min u.sup.clk f } }))

/-- AGE_REPLAN (R339). -/
def execAgeReplan (s : State) : Host.Outcome State Fault Refusal := done s (if s.pins.pwrGood then replan s else s)

/-! ### Link equalisation (R340) -/

/-- Cycles of UM_CYCLE_COUNT in an hour at 1.0 GHz. -/
def hourCycles : Nat := 3600000000000

/-- RIM_EYE_CHECK (R340): a low margin retrains the port; a pair still low after three retrains within an hour is reported and
leaves service. -/
def execRimEyeCheck (port : PortNo) (pair : BitVec 4) (margin : Nat) (s : State) : Host.Outcome State Fault Refusal :=
  done s (
    let k := port.toNat
    let i := 9 * k + pair.toNat
    let u := unitId 8 i
    if pair.toNat ≥ 9 ∨ margin ≥ rd Reg.SUP_EQ_CFG_RIM_MIN 0 s ∨ !rdb Reg.RIM_PORT_STAT_UP k s then s
    else match servedBy s u with
    | none => s
    | some pos =>
      let recent := s.sup.retrains.filter fun e => decide (e.2 + hourCycles > s.cycle)
      let low := (recent.filter fun e => e.1 == i).length
      let t := bump Reg.RIM_PORT_STAT_RETRAINS k 1 (wr Reg.RIM_PORT_STAT_UP k 0 s)
      if low ≥ 3 then
        takeOffline u (logErr 0x0034 (takeover s 8 pos) none u 0
          { t with sup := { t.sup with retrains := recent.filter fun e => e.1 != i } })
      else logSup 6 u margin 0 { t with sup := { t.sup with retrains := (i, s.cycle) :: recent } })

/-- HBM_TRAINING (R340): accesses wait at most 1 µs; nothing else changes. -/
def execHbmTraining (_channel : BitVec 8) (s : State) : Host.Outcome State Fault Refusal := done s s

/-! ### The hold-up capacitor (R348) -/

/-- HOLD_TEST (R348): the fall of the hold-up voltage in µV and the charged voltage in mV give C and E. -/
def execHoldTest (dropUv : Nat) (chargedMv : Nat) (s : State) : Host.Outcome State Fault Refusal :=
  done s (
    if !s.pins.pwrGood then s
    else
      let c := if dropUv = 0 then 65535 else min 65535 (100000000 / dropUv)
      let num := 50 * (chargedMv * chargedMv - 3240000)
      let e := if dropUv = 0 then 65535 else min 65535 (num / dropUv)
      let weak := decide (100000000 < 3300 * dropUv)
      let fail := decide (num < 6000 * dropUv) || (mon s 7 0).failed
      let t := [(Reg.SUP_HOLD_STAT_C_UF, c), (Reg.SUP_HOLD_STAT_V_MV, min 65535 chargedMv), (Reg.SUP_HOLD_STAT_E_UJ, e),
        (Reg.SUP_HOLD_STAT_WEAK, b2n weak), (Reg.SUP_HOLD_STAT_FAIL, b2n fail)].foldl
        (fun (x : State) (f : Fld × Nat) => wr f.1 0 f.2 x) s
      let u := if weak then logSup 7 0x7000 c 0 t else t
      if fail then
        let v := logSup 8 0x7000 e 0 u
        if rdb Reg.SUP_HOLD_STAT_FAIL 0 s then v else raiseIbi 5 v
      else u)

/-! ### Clocks on demand (R331, R332) -/

/-- Key of a clock domain: a kind of 12 Table 2, or 9 for a rill engine. -/
def domainKey : Domain → Nat
  | .slice i => 512 + i.toNat
  | .core i => 2 * 512 + i.toNat
  | .vault i => 6 * 512 + i.toNat
  | .channel i => 7 * 512 + i.toNat
  | .rill i => 9 * 512 + i.toNat

/-- Clock domains whose units are in service. -/
def liveDomains (s : State) : List Nat :=
  ([1, 2, 6, 7].flatMap fun k => ((List.range (unitCount k)).filter fun i => (unit s (unitId k i)).st == .active).map (k * 512 + ·))
  ++ (List.range 64).map (9 * 512 + ·)

/-- U1 once every domain is stopped, U2 once every active slice is PARKED as well (13 Table 3). -/
def settlePower (s : State) : State :=
  let stopped := (liveDomains s).all fun k => s.sup.stopped.contains k
  let slices := (List.range 17).filter fun i => (unit s (unitId 1 i)).st == .active
  let p := if !stopped then 0 else if slices.all fun i => s.sup.parked.contains i then 2 else 1
  if s.sup.pstate = 3 then s else wr Reg.SUP_PSTATE_STAT_STATE 0 p { s with sup := { s.sup with pstate := p } }

/-- DOMAIN_GATE (R331): an idle domain's clock stops. -/
def execDomainGate (dom : Domain) (s : State) : Host.Outcome State Fault Refusal :=
  done s (
    let k := domainKey dom
    if !isReady s || s.sup.stopped.contains k then s
    else settlePower { s with sup := { s.sup with stopped := k :: s.sup.stopped } })

/-- DOMAIN_RESTART (R331): a request reaches a stopped domain, and its clock runs again. -/
def execDomainRestart (dom : Domain) (s : State) : Host.Outcome State Fault Refusal :=
  done s (
    let k := domainKey dom
    if s.sup.stopped.contains k then
      settlePower { s with sup :=
        { s.sup with stopped := s.sup.stopped.filter (· != k)
                     parked := match dom with | .slice i => s.sup.parked.filter (· != i.toNat) | _ => s.sup.parked } }
    else s)

/-- Whether a slice holds any of the records of R332. -/
def holdsRecords (s : State) (p : Nat) : Bool :=
  let v := slice s p
  let logical := servedBy s (unitId 1 p)
  !v.slots.isEmpty || !v.hold.isEmpty || !v.cullet.isEmpty || !v.kept.isEmpty
  || (s.lehr.any fun r => r.held.any fun h => some h.2.1 == logical)
  || (v.sets.any fun b => b.2.ways.any fun w => w.st == .pending) || (v.punty.any fun e => !e.pend.isEmpty)
  || s.fetches.any fun f => f.slice == p && decide (f.dest = .gob)

/-- SLICE_PARK (R332): an idle slice without records keeps its basin and punty entries and loses its gob buffer. -/
def execSlicePark (slice : BitVec 5) (s : State) : Host.Outcome State Fault Refusal :=
  done s (
    let i := slice.toNat
    if !isReady s || asleep s || decide (i ≥ 17) || rd Reg.SUP_IDLE_CFG_PARK_US 0 s == 0 || holdsRecords s i
        || s.sup.parked.contains i then s
    else
      let t := setSlice i { Machine.slice s i with gob := [] } s
      settlePower { t with sup := { t.sup with parked := i :: t.sup.parked,
                                               stopped := if t.sup.stopped.contains (512 + i) then t.sup.stopped
                                                 else (512 + i) :: t.sup.stopped } })

/-! ### U3 (R333) -/

/-- Why U3 is refused: 1 queue, 2 descriptor, 3 move, 4 fold, 5 unread dump; 0 where it is accepted. -/
def u3Reason (s : State) : Nat :=
  if s.queues.any fun e => !(e.2.st == .disabled) then 1
  else if s.descs.any fun e => !(e.2.st == .idle) then 2
  else if s.place.entries.any (·.moving) then 3
  else if s.tables.any fun e => e.2.defined && !e.2.toFold.isEmpty then 4
  else if s.dump.unread then 5
  else 0

/-- Versions without commands in flight. -/
def clearInflight (s : State) : State :=
  { s with tables := Sparse.mapVals {} (fun _ x => { x with vers := x.vers.map fun v => { v with inflight := 0 } }) s.tables }

/-- U3 entry (R333, R362, R363): write-backs, the staged table state, self-refresh, and power removed from slices, cores and shared
logic. -/
def enterU3 (s : State) : State :=
  let t := stageImages ((List.range 17).foldl writeBackSlice s)
  let u := clearInflight (resetSram { t with sup := { t.sup with staged := some (tableStates t) } })
  let v := (connectedTargets u).foldl (fun x k => wr Reg.NVMF_TGT_STAT_CONNECTED k 0 x) u
  let w := (List.range 4).foldl (fun x k => wr Reg.RIM_PORT_STAT_UP k 0 x) v
  let x := wr Reg.SUP_PSTATE_STAT_ASLEEP_CNT 0 0 (wr Reg.SUP_PSTATE_STAT_STATE 0 3 w)
  showThrottle { x with
    remote := { nextIo := x.remote.nextIo }
    host := { x.host with atc := [] }
    sup := { x.sup with pstate := 3, stopped := [], parked := [], clk := fmax x, hbm := 100, cist := 100, therm := (1000, 100, 100),
                        below := 0, stretched := [],
                        mons := Sparse.mapVals {} (fun _ m => { m with throttled := false }) x.sup.mons } }

/-- A request for U3, by software or the tray controller: accepted, or refused with its reason (R333, R384). -/
def askU3 (s : State) : State :=
  if !isReady s || s.rung.isSome || s.sup.pstate == 3 then s
  else if u3Reason s = 0 then raiseIbi 4 (enterU3 s)
  else raiseIbi 4 (wr Reg.SUP_PSTATE_STAT_REFUSED 0 1 (wr Reg.SUP_PSTATE_STAT_REASON 0 (u3Reason s) s))

/-- U3_ENTRY (R333): a write of 3 to TARGET. -/
def execU3Entry (s : State) : Host.Outcome State Fault Refusal := done s (apWrite 0x2434 s askU3)

/-- A wake from U3 (R333): the engine is in U0; its rim ports train again. -/
def wakeU3 (s : State) : State :=
  if s.sup.pstate == 3 then
    wr Reg.SUP_PSTATE_STAT_STATE 0 0 { s with sup := { s.sup with pstate := 0, staged := none } }
  else s

/-- U3_WAKE (R333): a write of 0 to TARGET. -/
def execU3Wake (s : State) : Host.Outcome State Fault Refusal := done s (apWrite 0x2434 s wakeU3)

/-! ### Regulator words (R386) -/

/-- VREG_WORD_UNACKNOWLEDGED (R386): the word is sent again up to three times, then recorded as MON_FAIL of the rail's power
monitor: logic for the core rail, SRAM for the SRAM rail. -/
def execVregWordUnacknowledged (rail : BitVec 4) (s : State) : Host.Outcome State Fault Refusal :=
  done s (
    let r := rail.toNat
    let n := Sparse.get 0 s.pins.vregTries r
    if r > 1 then s
    else
      let set := fun (k : Nat) => { s with pins := { s.pins with vregTries := Sparse.set 0 s.pins.vregTries r k } }
      if n < 3 then send (.vreg r (if r = 0 then coreWord s.sup.vset else 150)) (set (n + 1))
      else logSup 4 (monUnit 5 r) 0 0 (set 0))

end Sys2Proof.Machine
end

