-- ==== Sys2Proof/Machine/Boot.lean ====
section
/-! DEFINITION. Start-up, signed firmware, the restart after a chip reset, power loss, and the retention store (R350 to R363). -/

namespace Sys2Proof.Machine

/-- Sets the start-up phase (14 Table 1). -/
def setPhase (p : Nat) (s : State) : State := wr Reg.BOOT_STAT_PHASE 0 p s

/-- Start-up stops in FAULT (14 Table 2). -/
def bootFault (err count : Nat) (s : State) : State :=
  wr Reg.BOOT_STAT_ERR 0 err (wr Reg.BOOT_STAT_COUNT 0 count (setPhase 7 s))

/-! ### Power (R350, R360, R361, R385) -/

/-- The vault map of the retention store, installed. -/
def installVaults (s : State) : State :=
  s.repair.vaults.foldl (fun t e => { t with units := { t.units with
    pos := Sparse.set Pos.own t.units.pos (unitId 6 e.1) (.phys e.2) } }) s

/-- SUPERVISOR: the retention store's regions, the record found, the re-plan and the core rail; then MEMORY, or FAULT where the
configuration region fails its check or the rail cannot reach VFLOOR in its absolute range. -/
def runSupervisor (railOk : Bool) (s : State) : State :=
  let t := installVaults { s with repair := s.ret.repair, fw := { s.fw with sec := s.ret.sec } }
  let u := replan (findRecord t)
  if !s.ret.cfgValid then bootFault 1 0 t
  else if !railOk || decide (rd Reg.SUP_AGE_STAT_VFLOOR 0 u > rd Reg.RET_CFG_VOLT_V_ABS_MAX 0 u) then bootFault 4 0 u
  else setPhase 1 (showPending (send (.vreg 0 (coreWord (voltTarget u))) { u with sup := { u.sup with vset := voltTarget u } }))

/-- PWR_GOOD_RISE (R350, R366): SUPERVISOR runs; a failed SUP_REFCLK holds start-up in it. -/
def execPwrGoodRise (railOk : Bool) (s : State) : Host.Outcome State Fault Refusal :=
  doneAlways s (
    if s.pins.pwrGood then s
    else
      let t := { s with pins := { s.pins with pwrGood := true }, cycle := 0 }
      if t.pins.supFail then t else runSupervisor railOk t)

/-- What a loss of power leaves (14 Table 7): the retention store, and the memories outside the engine. A write of the retention store
that was running is lost (R361). -/
def powerLoss (s : State) : State :=
  { State.reset with
    pending := s.pending, freeCtr := s.freeCtr, sent := s.sent, mem := s.mem
    tiers := { host := s.tiers.host, flash := s.tiers.flash }
    ret := { s.ret with writing := [], staged := s.ret.repair }
    fw := { sec := s.ret.sec, keys := s.fw.keys }
    pins := { s.pins with pwrGood := false, vregTries := [] } }

/-- PWR_GOOD_FALL (R385): a power loss, whatever else runs. -/
def execPwrGoodFall (s : State) : Host.Outcome State Fault Refusal :=
  doneAlways s (if s.pins.pwrGood then powerLoss s else s)

/-- REFCLK_FAIL (R366): a failed RIM_REFCLK takes its two ports down. -/
def execRefclkFail (which : RefClk) (s : State) : Host.Outcome State Fault Refusal :=
  done s (match which with
    | .sup => { s with pins := { s.pins with supFail := true } }
    | .rim0 => wr Reg.RIM_PORT_STAT_UP 0 0 (wr Reg.RIM_PORT_STAT_UP 1 0 { s with pins := { s.pins with rim0Fail := true } })
    | .rim1 => wr Reg.RIM_PORT_STAT_UP 2 0 (wr Reg.RIM_PORT_STAT_UP 3 0 { s with pins := { s.pins with rim1Fail := true } }))

/-! ### MEMORY (R352, R353) -/

/-- The self-test of a unit that the repair map does not mark FAILED. -/
def testUnit (bad : List UnitId) (s : State) (u : Nat) : State :=
  let f := ((s.repair.failed.find? fun e => e.1 == u).map (·.2)).getD 0
  if f ≥ rd Reg.UNIT_CFG_MAX_TRIES 0 s then markTxb u (setUnit u { st := .failed, fails := f } s)
  else if bad.any fun b => b.toNat == u then failTest u (setUnit u { st := .selftest, fails := f } s)
  else setUnit u { st := .standby, fails := f } s

/-- A passing unit serves a position; a TXB that passes its lane test has TXB_FAIL clear (R233). -/
def serveBy (kind i p : Nat) (s : State) : State :=
  let t := setUnit (unitId kind p) { unit s (unitId kind p) with st := .active } s
  let u := { t with units := { t.units with pos := Sparse.set Pos.own t.units.pos (unitId kind i) (if p = i then .own else .phys p) } }
  if kind = 4 then setSlice p { slice u p with txbFail := false } u else u

/-- A position without a unit. -/
def leaveVacant (kind : Nat) (s : State) (i : Nat) : State :=
  { s with units := { s.units with pos := Sparse.set Pos.own s.units.pos (unitId kind i) .vacant } }

/-- Passing units fill the positions of a group in ascending physical order; a unit that passes keeps the position it serves, and the
rest stand by (R353, log entry 29). -/
def fillGroup (kind : Nat) (members pos : List Nat) (s : State) : State :=
  let ok := fun (t : State) (p : Nat) => (unit t (unitId kind p)).st == .standby
  let kept := pos.filter fun i => (physOf s kind i).any (ok s)
  let t := kept.foldl (fun x i => serveBy kind i ((physOf s kind i).getD i) x) s
  let free := members.filter (ok t)
  let rest := pos.filter fun i => !kept.contains i
  let u := (rest.zip free).foldl (fun x e => serveBy kind e.1 e.2 x) t
  (rest.drop free.length).foldl (leaveVacant kind) u

/-- The groups of units that share spares: kind, members and positions (12 Table 14). -/
def unitGroups : List (Nat × List Nat × List Nat) :=
  [(1, List.range 17, List.range 16), (2, List.range 9, List.range 8), (6, List.range 260, List.range 256)]
  ++ (List.range 17).map (fun s => (3, (List.range 17).map (17 * s + ·), (List.range 16).map (17 * s + ·)))
  ++ (List.range 4).map (fun p => (8, (List.range 9).map (9 * p + ·), (List.range 8).map (9 * p + ·)))
  ++ (List.range 17).map (fun i => (4, [i], [i])) ++ (List.range 17).map (fun i => (5, [i], [i]))
  ++ (List.range 256).map (fun i => (7, [i], [i]))

/-- Keeps the vault map as the selection left it. -/
def keepVaultMap (s : State) : State :=
  let l := (List.range 256).filterMap fun i => match physOf s 6 i with
    | some p => if p = i then none else some (i, p)
    | none => none
  if s.repair.vaults = l then s else addRepair (fun r => { r with vaults := l }) s

/-- Units that fail their self-test: a vault has none where its exerciser does not run (R353); a channel may fail its training. -/
def failing (bad : List UnitId) (exer : Bool) : List UnitId := bad.filter fun u => exer || u.toNat / 4096 != 6

/-- Self-tests and maps every unit. A memory unit that enters service anew is poisoned (R165). -/
def selectUnits (bad : List UnitId) (s : State) : State :=
  let old := (allUnits.filter fun u => u / 4096 == 6 || u / 4096 == 7).filter fun u => (unit s u).st == .active
  let t := allUnits.foldl (testUnit bad) s
  let v := unitGroups.foldl (fun x g => fillGroup g.1 g.2.1 g.2.2 x) t
  let fresh := allUnits.filter fun u => (u / 4096 == 6 || u / 4096 == 7) && (unit v u).st == .active && !old.contains u
  wr Reg.MAP_EPOCH_EPOCH 0 0 (keepVaultMap (fresh.foldl (fun x u => poisonUnit u x) v))

/-- Maps each queued cistern row to a free spare, whose bytes are poisoned; one without a spare stays in use and is recorded (R163). -/
def applyQueued (s : State) (e : Nat × Nat × Nat) : State :=
  let lo := vaultKey e.1 (e.2.2 * 65536 + e.2.1 * 2048)
  if sparesUsed s e.1 e.2.1 < 16 then
    showPending (bump Reg.CIST_REMAP_CNT_COUNT 0 1 (addRepair (fun r =>
      { r with remaps := r.remaps ++ [e], queued := r.queued.filter (· != e) }) (poisonRange lo (lo + 2048) s)))
  else logErr 0x0021 0 none (unitId 6 e.1) (e.2.1 + e.2.2 * 2 ^ 32) s

/-- MEMORY: SRAM, units, repairs; at a start from power good alone exercisers may run and the DRAM is zeroed (R352, R353, R359). Disabled ways stay disabled. -/
def runMemory (bad : List UnitId) (zero : Bool) (s : State) : State :=
  let exer := zero && rdb Reg.RET_CFG_MISC_BOOT_EXER 0 s
  let t := selectUnits (failing bad exer) (s.repair.ways.foldl disableWay s)
  let u := if zero then { t with tiers := { t.tiers with dram := [], poison := [] } } else t
  s.repair.queued.foldl applyQueued u

/-- Slices that passed their self-test. -/
def goodSlices (s : State) : Nat :=
  ((List.range 17).filter fun i => (unit s (unitId 1 i)).st == .active || (unit s (unitId 1 i)).st == .standby).length

/-- The phase after MEMORY (14 Tables 1 and 2). -/
def afterMemory (s : State) : State :=
  if goodSlices s < 16 then bootFault 2 (goodSlices s) s else setPhase (if s.fw.image.isSome then 4 else 2) s

/-- MEMORY_PHASE (R352, R353). -/
def execMemoryPhase (bad : List UnitId) (s : State) : Host.Outcome State Fault Refusal :=
  done s (if phaseOf s = 1 ∧ s.rung.isNone then afterMemory (runMemory bad true s) else s)

/-! ### CORES and READY (R350, R358) -/

/-- Context 0 OPEN under a new generation (R275). -/
def openRoot (s : State) : State :=
  let x := ctx s 0
  setCtx 0 { st := .opened, kind := 2, gen := (x.gen + 1) % 2 ^ 32, seq := x.seq, tags := x.tags } s

/-- CORES: the cores' self-tests, and context 0; without a core start-up stops. -/
def runCores (bad : List UnitId) (s : State) : State :=
  let cores := (List.range 9).map (unitId 2)
  let failing := cores.filter fun u => (bad.any fun b => b.toNat == u) && ((unit s u).st == .active || (unit s u).st == .standby)
  let t := failing.foldl (fun x u => failTest u x) s
  let v := (List.range 8).foldl (fun x i => fillPos x (2, i)) t
  if cores.any fun u => (unit v u).st == .active then openRoot v else bootFault 3 0 v

/-- CORES_PHASE (R350, R353). -/
def execCoresPhase (bad : List UnitId) (s : State) : Host.Outcome State Fault Refusal :=
  done s (if phaseOf s = 4 ∧ (ctx s 0).st ≠ .opened then runCores bad s else s)

/-- Entry to READY (R358): a chip reset that runs is done, and its other contexts are OPEN. -/
def enterReady (s : State) : State :=
  let t := raiseIbi 3 (setPhase 5 { s with arb := { s.arb with used := false } })
  match t.rung with
  | none => t
  | some r => reopenDomain r t

/-- READY (R350): once context 0 is OPEN in CORES. -/
def execReady (s : State) : Host.Outcome State Fault Refusal :=
  done s (if phaseOf s = 4 ∧ (ctx s 0).st = .opened then enterReady s else s)

/-- The image of the firmware store after a chip reset: discarded under FW_RELOAD, or where it does not match its CRC-32C (R356). -/
def reuseImage (r : Rung) (s : State) : State :=
  match s.fw.image with
  | none => s
  | some m => if r.reload || crc32c m.body != m.crc then { s with fw := { s.fw with image := none } } else s

/-- CHIP_RESTART (R359): MEMORY without the zeroing, then CORES and READY, or FW_WAIT without an image. -/
def execChipRestart (bad : List UnitId) (s : State) : Host.Outcome State Fault Refusal :=
  done s (match s.rung with
    | none => s
    | some r =>
      if r.rung ≠ 4 ∨ r.step ≠ 7 ∨ phaseOf s ≠ 1 then s
      else
        let t := afterMemory (reuseImage r (runMemory bad false s))
        if phaseOf t ≠ 4 then t
        else
          let u := runCores bad t
          if (ctx u 0).st = .opened then enterReady u else u)

/-! ### Firmware (R354 to R357) -/

/-- Bytes `o` to `o + n` of an image. -/
def imgBytes (m : List Byte) (o n : Nat) : List Byte := (m.drop o).take n

/-- An unsigned field of the header (R9). -/
def imgField (m : List Byte) (o n : Nat) : Nat := fromLE (imgBytes m o n)

/-- BODY_LEN -/
def bodyLen (m : List Byte) : Nat := imgField m 12 4

/-- The body. -/
def imgBody (m : List Byte) : List Byte := imgBytes m 512 (bodyLen m)

/-- Check 2 (14 Table 4): MAGIC, FORMAT, BODY_LEN and the reserved bytes. -/
def headerOk (m : List Byte) : Bool :=
  imgField m 0 4 == 0x4F4E5944 && imgField m 4 2 == 1 && bodyLen m % 64 == 0 && decide (64 ≤ bodyLen m)
  && decide (bodyLen m ≤ 1048064) && imgField m 169 7 == 0 && imgField m 272 240 == 0

/-- Check 3: a slot that is not revoked, with the hash of PUBKEY. -/
def keyOk (s : State) (m : List Byte) : Bool :=
  let k := imgField m 6 2
  decide (k < 4) && !s.fw.sec.revoked.contains k && Sha384.hash (imgBytes m 72 97) == s.fw.keys.getD k []

/-- Check 6: the signature over header bytes 0 to 175; the public point begins with 0x04. -/
def signatureOk (m : List Byte) : Bool :=
  imgField m 72 1 == 4
  && P384.verify (Sha384.fromBE (Sha384.hash (imgBytes m 0 176))) (Sha384.fromBE (imgBytes m 176 48))
    (Sha384.fromBE (imgBytes m 224 48)) (Sha384.fromBE (imgBytes m 73 48)) (Sha384.fromBE (imgBytes m 121 48))

/-- The RESULT of the checks of 14 Table 4, in order; 1 is a pass. -/
def checkImage (s : State) (m : List Byte) (nocError : Bool) : Nat :=
  if nocError || decide (m.length < 512) then 6
  else if !headerOk m then 2
  else if m.length < 512 + bodyLen m then 6
  else if !keyOk s m then 3
  else if imgField m 8 4 < s.fw.sec.minSvn then 5
  else if Sha384.hash (imgBody m) != imgBytes m 24 48 then 4
  else if !signatureOk m then 4
  else 1

/-- The image as the firmware store holds it. -/
def storedImage (m : List Byte) : Image :=
  { body := imgBody m, key := imgField m 6 2, svn := imgField m 8 4, build := imgField m 16 8, crc := crc32c (imgBody m) }

/-- A write of LOAD (R355): accepted in FW_WAIT alone. -/
def loadImage (m : List Byte) (nocError : Bool) (s : State) : State :=
  if phaseOf s ≠ 2 then wr Reg.FW_STAT_REFUSED 0 1 s
  else
    let r := checkImage s m nocError
    let t := wr Reg.FW_STAT_RESULT 0 r s
    if r = 1 then setPhase 4 { t with fw := { t.fw with image := some (storedImage m) } }
    else bump Reg.FW_FAIL_CNT_COUNT 0 1 t

/-- FW_LOAD (R355): the bytes read at UM_FW_IMAGE_ADDR. -/
def execFwLoad (image : List Byte) (nocError : Bool) (s : State) : Host.Outcome State Fault Refusal :=
  done s (apWrite 0x28 s (loadImage image nocError))

/-- Whether UM_RET_STAT.BUSY is set (R361). -/
def retBusy (s : State) : Bool := !s.ret.writing.isEmpty

/-- A write of COMMIT_SVN (R357). -/
def commitSvn (s : State) : State :=
  match s.fw.image with
  | none => s
  | some m =>
    if retBusy s then s
    else dueWrite 2 { s with fw := { s.fw with sec := { s.fw.sec with minSvn := max s.fw.sec.minSvn m.svn } } }

/-- COMMIT_SVN (R357). -/
def execCommitSvn (s : State) : Host.Outcome State Fault Refusal := done s (apWrite 0x28 s commitSvn)

/-- Whether a revocation is accepted (R357). -/
def revokeOk (s : State) (k : Nat) : Bool :=
  isReady s && !retBusy s && (s.fw.image.any fun m => m.key != k)
  && (List.range 4).any fun j => j != k && !s.fw.sec.revoked.contains j

/-- A write to UM_FW_KEY_REVOKE (R357). -/
def revokeKey (k : Nat) (s : State) : State :=
  if revokeOk s k then
    let r := s.fw.sec.revoked
    dueWrite 2 { s with fw := { s.fw with sec := { s.fw.sec with revoked := if r.contains k then r else k :: r } } }
  else s

/-- FW_KEY_REVOKE (R357). -/
def execFwKeyRevoke (slot : BitVec 2) (s : State) : Host.Outcome State Fault Refusal :=
  done s (apWrite 0x34 s (revokeKey slot.toNat))

/-! ### The retention store (R361) -/

/-- RETENTION_WRITE_DONE (R361): the running write ends; a failed one leaves the copy before it. -/
def execRetentionWriteDone (ok : Bool) (s : State) : Host.Outcome State Fault Refusal :=
  done s (match s.ret.writing with
    | [] => s
    | r :: rest =>
      if ok then { s with ret := { storeRegion r s with writing := rest } }
      else wr Reg.RET_STAT_FAILED_REGION 0 r { s with ret := { s.ret with writing := rest } })

end Sys2Proof.Machine
end

