-- ==== Sys2Proof/Machine/Aperture.lean ====
section
/-! DEFINITION. The control aperture (R368, R388 to R405): what each register reads, which writes its fields take, the latches of
multi-word registers, and the actions that a write starts. A register with a command of its own acts here through the same
operation as that command. -/

namespace Sys2Proof.Machine

/-! ### Selected objects (R390) -/

/-- The field of the selected target's NQN at a word of 0x1A00 to 0x1BFF (R399). -/
def nqnFld (o : Nat) : Fld := ⟨o, 0, 32, 0, .rw, .target, 0, 2 ^ 32 - 1⟩

/-- The fields of the word at an offset. -/
def fieldsOf (o : Nat) : List Fld := if 0x1A00 ≤ o ∧ o < 0x1C00 then [nqnFld o] else fieldsAt o

/-- A number below a bound. -/
def below (n b : Nat) : Option Nat := if n < b then some n else none

/-- A memory unit under a selector: KIND 0 vault, 1 channel. -/
def memSel (kind index : Nat) : Option Nat := let u := unitId (6 + kind) index; if isUnit u then some u else none

/-- The object that a register's selector names; none where it names none (R390). -/
def selObj (s : State) (x : Sel) : Option Nat :=
  match x with
  | .none => some 0
  | .ctx => some (rd Reg.CTX_SEL_CTX 0 s)
  | .valve => some (rd Reg.VALVE_SEL_VALVE 0 s)
  | .table => some (rd Reg.TBL_SEL_TABLE 0 s)
  | .cls => some (rd Reg.BASIN_CLASS_SEL_CLASS 0 s)
  | .slice => below (rd Reg.BASIN_SLICE_SEL_SLICE 0 s) 17
  | .sliceCls => (below (rd Reg.BASIN_SLICE_SEL_SLICE 0 s) 17).map fun sl => sliceClass sl (rd Reg.BASIN_CLASS_SEL_CLASS 0 s)
  | .conf => below (rd Reg.CONF_SEL_SLICE 0 s) 17
  | .lehrCtx => some (rd Reg.LEHR_CTX_SEL_CTX 0 s)
  | .fnSlot => some (rd Reg.FN_SLOT_SEL_SLOT 0 s)
  | .fnEntry => some (fnObj (rd Reg.FN_SLOT_SEL_SLOT 0 s) (rd Reg.FN_ENTRY_SEL_TABLE 0 s) (rd Reg.FN_ENTRY_SEL_INDEX 0 s)
      (rd Reg.FN_ENTRY_SEL_WORD 0 s))
  | .fnCtx => some (rd Reg.FN_CTX_SEL_CTX 0 s)
  | .memUnit => memSel (rd Reg.MEM_UNIT_SEL_KIND 0 s) (rd Reg.MEM_UNIT_SEL_INDEX 0 s)
  | .exer => memSel (rd Reg.EXER_SEL_KIND 0 s) (rd Reg.EXER_SEL_INDEX 0 s)
  | .pool => let t := rd Reg.PLACE_POOL_SEL_TIER 0 s; if 1 ≤ t ∧ t ≤ 4 then some t else none
  | .skimTable => some (rd Reg.SKIM_TABLE_SEL_TABLE 0 s)
  | .cxl => some (rd Reg.CXL_REGION_SEL_REGION 0 s)
  | .target => some (rd Reg.NVMF_TGT_SEL_TARGET 0 s)
  | .port => some (rd Reg.RIM_PORT_SEL_PORT 0 s)
  | .peer => some (rd Reg.RIM_PEER_SEL_PEER 0 s * 4 + rd Reg.RIM_PEER_SEL_PORT 0 s)
  | .desc => some (rd Reg.STREAM_DESC_SEL_DESC 0 s)
  | .unit => if isUnit (selUnit s) then some (selUnit s) else none
  | .mon =>
    let k := rd Reg.SUP_MON_SEL_KIND 0 s
    (below (rd Reg.SUP_MON_SEL_INDEX 0 s) (monCount k)).map fun i => k * 512 + i

/-! ### What registers read -/

/-- Code of a sluice state. -/
def SState.code (x : SState) : Nat := x.ctorIdx

/-- Code of a descriptor state. -/
def DState.code (x : DState) : Nat := x.ctorIdx

/-- Code of a queue pair's state. -/
def QpState.code (x : QpState) : Nat := x.ctorIdx

/-- A signed value in `n` bits. -/
def signedIn (n : Nat) (v : Int) : Nat := (v % 2 ^ n).toNat

/-- A version register: "no version" where there is none (R81). -/
def versionReg (t : Table) (v : Option Version) : Nat := if t.defined then (v.map (·.num)).getD noVersion else noVersion

/-- The logical slice that a physical one serves. -/
def servedSlice (s : State) (p : Nat) : Option Nat := (List.range 16).find? fun i => physOf s 1 i == some p

/-- Tiles of the cullet buffer that wait for the host path (R130). -/
def hostHeld (s : State) (sl : Nat) : Nat :=
  tilesOf (((slice s sl).cullet.filter fun e => e.hostBound s && !e.issued).map fun e => e.copy.bytes)

/-- A field of the load record that UM_SKIM_LOAD_SEL names, in the last complete window (R183). -/
def lastLoadOf (s : State) (fld : Nat) : Nat :=
  let t := rd Reg.SKIM_LOAD_SEL_TABLE 0 s
  if rdb Reg.SKIM_TABLE_CFG_TRACK t s then
    loadCount s.place.lastLoad (rd Reg.SKIM_TABLE_CFG_RECORD_BASE t s + rd Reg.SKIM_LOAD_SEL_SHARD 0 s) fld
  else 0

/-- Registers of Tables 2 and 3 that show other state. -/
def shown2 (s : State) (f : Fld) (i : Nat) : Option Nat :=
  match f.off, f.lsb with
  | 0x0008, _ => some s.cycle
  | 0x0038, _ => some ((s.fw.image.map (·.build)).getD 0)
  | 0x0040, 0 => some s.fw.sec.minSvn
  | 0x0040, 32 => some ((s.fw.image.map (·.svn)).getD 0)
  | 0x0040, 64 => some (sumOf ((List.range 4).map fun k => b2n (s.fw.sec.revoked.contains k) * 2 ^ k))
  | 0x0040, 72 => some ((s.fw.image.map (·.key)).getD 0)
  | 0x0050, 0 => some (b2n (retBusy s))
  | 0x0400, _ => some (poolFree s)
  | 0x0418, 0 => some (ctx s i).st.code
  | 0x0418, 8 => some (ctx s i).kind
  | 0x0418, 16 => some (ctx s i).part
  | 0x0418, 32 => some (ctx s i).gen
  | 0x0444, _ => some (valve s i)
  | _, _ => none

/-- Registers of Tables 4 and 5 that show other state. -/
def shown4 (s : State) (f : Fld) (i : Nat) : Option Nat :=
  let tb := table s i
  match f.off, f.lsb with
  | 0x0808, _ => some tb.step
  | 0x080C, _ => some (versionReg tb tb.published)
  | 0x0810, _ => some (versionReg tb tb.working)
  | 0x0814, _ => some (versionReg tb tb.vers.head?)
  | 0x0818, _ => some (tb.stateCode (rd Reg.TBL_VER_SEL_VERSION 0 s))
  | 0x081C, _ => some (((tb.version? (rd Reg.TBL_VER_SEL_VERSION 0 s)).map (·.inflight)).getD 0)
  | 0x082C, _ => some tb.delta.length
  | 0x0830, _ => some tb.toFold.length
  | 0x0838, _ => some (signedIn 8 tb.gradExp)
  | 0x083C, _ => some tb.amax.toNat
  | 0x0C0C, 16 => some (freeGranules s)
  | 0x0C24, _ => some (puntyUsed (slice s i))
  | 0x0C34, _ => some (hostHeld s i)
  | 0x0C44, _ => some (slotArea - confUsed s (slice s i))
  | 0x0C4C, _ => some (((servedSlice s i).map fun k => lehrFree s k / 1024).getD 4096)
  | 0x0C54, 0 => some (b2n (slice s i).txbFail)
  | 0x0C54, 1 => some (b2n (!rdb Reg.LANE_CTRL_TXB_EN 0 s || (slice s i).txbFail))
  | 0x0C7C, _ => some (ceilDiv ((spillUsed s i).length * 64) 1024)
  | _, _ => none

/-- Registers of Tables 6 to 9 that show other state. -/
def shown6 (s : State) (f : Fld) (i : Nat) : Option Nat :=
  let q := Sparse.get {} s.remote.qps i
  let d := desc s i
  match f.off, f.lsb with
  | 0x1020, 0 => some (if i / 4096 = 6 then (memUnit s i).band else 0)
  | 0x1020, 8 => some (if i / 4096 = 7 then (memUnit s i).rate else 0)
  | 0x140C, _ => some (movingCount s)
  | 0x1434, _ => some (poolFreeKib s i)
  | 0x1480, 0 => some (lastLoadOf s 0)
  | 0x1480, 32 => some (lastLoadOf s 1)
  | 0x1480, 64 => some (lastLoadOf s 2)
  | 0x1480, 96 => some (lastLoadOf s 3)
  | 0x18C8, 0 => some q.data.st.code
  | 0x18C8, 4 => some q.abort.st.code
  | 0x1C08, 0 => some d.st.code
  | 0x1C08, 2 => some (b2n d.pend.isSome)
  | 0x1C08, 32 => some d.gen
  | 0x1C10, 0 => some d.pc
  | 0x1C10, 16 => some d.byteOff
  | 0x1C30, _ => some d.delivered
  | 0x1C48, 16 => some ((s.cmds.filter fun c => c.use.fault.any (·.sent)).length)
  | 0x1C58, 0 => some s.host.st.code
  | 0x1C58, 4 => some s.host.cause
  | 0x1C58, 16 => some s.host.epoch
  | 0x1C68, _ => some s.host.held.length
  | _, _ => none

/-- Registers of Tables 10 and 11 that show other state. -/
def shown10 (s : State) (f : Fld) (i : Nat) : Option Nat :=
  let ofRung := fun (g : Rung → Nat) => (s.rung.map g).getD 0
  match f.off, f.lsb with
  | 0x2000, _ => some s.errs.head
  | 0x2064, 0 => some (ofRung fun r => b2n (!r.held))
  | 0x2064, 2 => some (ofRung fun r => b2n r.held)
  | 0x2064, 4 => some (ofRung (·.rung))
  | 0x2064, 8 => some (ofRung (·.step))
  | 0x2064, 12 => some (ofRung (·.part))
  | 0x2090, 0 => some (b2n s.dump.valid)
  | 0x2090, 1 => some (b2n s.dump.unread)
  | 0x2090, 2 => some (b2n s.dump.collect.isSome)
  | 0x2090, 32 => some s.dump.seq
  | 0x2090, 64 => some s.dump.len
  | 0x20A4, _ => some (dumpWord s)
  | 0x20C4, 0 => some (unit s i).st.code
  | 0x20C4, 4 => some (unit s i).fails
  | 0x2408, 0 => some (signedIn 32 (filtered s (i / 512) (i % 512)))
  | 0x2408, 32 => some (b2n (mon s (i / 512) (i % 512)).failed)
  | 0x2484, _ => some (recWord s)
  | _, _ => none

/-- What a field of object `i` reads, where it shows other state. -/
def shown (s : State) (f : Fld) (i : Nat) : Option Nat :=
  if f.off < 0x0800 then shown2 s f i
  else if f.off < 0x1000 then shown4 s f i
  else if f.off < 0x2000 then shown6 s f i
  else shown10 s f i

/-- What a field reads (R11, R390): a WO field and a field of no object read as zero. -/
def fieldValue (s : State) (f : Fld) : Nat :=
  match f.acc, selObj s f.sel with
  | .wo, _ => 0
  | _, none => 0
  | _, some i => (shown s f i).getD (rd f i s) % 2 ^ f.width

/-- Bits of a field in the word at an offset of its register (R389). -/
def inWord (o : Nat) (f : Fld) (v : Nat) : Nat := v * 2 ^ f.lsb / 2 ^ (8 * (o - f.off)) % 2 ^ 32

/-- The word at an offset of Tables 2 to 11; offsets of no register read as zero (R5). -/
def regWord (s : State) (o : Nat) : Nat := sumOf ((fieldsOf o).map fun f => inWord o f (fieldValue s f))

/-- A word of a key hash of the retention store (R393). -/
def keyWord (s : State) (k n : Nat) : Nat := fromLE (((s.fw.keys.getD k []).drop (4 * n)).take 4)

/-- UM_Q_STAT (R403). -/
def queueStat (v : Queue) : Nat :=
  v.st.code + b2n v.flags.cfgErr * 2 ^ 4 + b2n v.flags.dbOverrun * 2 ^ 5 + b2n (v.p1.pi == v.p1.ci) * 2 ^ 6
    + b2n v.flags.underrun * 2 ^ 7 + b2n v.flags.resetRefused * 2 ^ 8 + v.ptrFault % 2 ^ 4 * 2 ^ 12

/-- UM_Q_CFG (R403). -/
def queueCfg (g : QCfg) : Nat := g.depthLog2 + g.policy * 2 ^ 5 + g.ctx * 2 ^ 8 + g.weight * 2 ^ 16 + g.limit * 2 ^ 20

/-- A word of a queue's base entry. -/
def baseWord (v : Queue) (k : Nat) : Nat :=
  match k with
  | 0 => v.base % 2 ^ 32
  | 1 => v.base / 2 ^ 32 % 2 ^ 32
  | 2 => v.replyBase % 2 ^ 32
  | _ => v.replyBase / 2 ^ 32 % 2 ^ 32

/-- A word of a queue's control window. -/
def ctlWord (v : Queue) (k : Nat) : Nat :=
  match k with
  | 1 => v.p1.ci
  | 2 => v.p1.pi
  | 3 => v.p1.free
  | 4 => queueStat v
  | 5 => b2n (enableReads v)
  | 6 => queueCfg v.cfg
  | 7 => v.underruns
  | _ => 0

/-- The word that an aperture offset holds now. -/
def liveWord (s : State) (o : Nat) : Nat :=
  if o ≥ 0x8000 then ctlWord (queue s ((o - 0x8000) / 32)) (o % 32 / 4)
  else if o ≥ 0x4000 then baseWord (queue s ((o - 0x4000) / 16)) (o % 16 / 4)
  else if 0x0300 ≤ o ∧ o < 0x03C0 then keyWord s ((o - 0x0300) / 48) ((o - 0x0300) % 48 / 4)
  else if 0x1C14 ≤ o ∧ o < 0x1C2C then
    (desc s (rd Reg.STREAM_DESC_SEL_DESC 0 s)).idx.getD ((o - 0x1C14) / 4) 0 % 2 ^ 24
  else if 0x2020 ≤ o ∧ o < 0x2040 then
    wordAt (Sparse.get {} s.errs.slots (rd Reg.ERR_LOG_SEL_SLOT 0 s)).words ((o - 0x2020) / 4)
  else regWord s o

/-! ### Reads (R11, R368, R389, R401, R402) -/

/-- Words of a multi-word RO or RC register after its lowest; none where the offset does not begin one. -/
def highWords (o : Nat) : List Nat :=
  if 0x0300 ≤ o ∧ o < 0x03C0 then
    (if (o - 0x0300) % 48 = 0 then (List.range 11).map fun i => o + 4 * (i + 1) else [])
  else
    let fs := (fieldsOf o).filter fun f => f.off == o && (f.acc == .ro || f.acc == .rc)
    let all := Reg.all.filter fun f => f.off == o && (f.acc == .ro || f.acc == .rc)
    let n := (all.map fun f => (f.lsb + f.width + 31) / 32).foldl max 1
    if fs.isEmpty then [] else (List.range (n - 1)).map fun i => o + 4 * (i + 1)

/-- Whether an offset is a word after the lowest of a multi-word RO or RC register. -/
def isHigh (o : Nat) : Bool :=
  (decide (0x0300 ≤ o ∧ o < 0x03C0) && (o - 0x0300) % 48 != 0)
  || (decide (o < 0x4000) && (fieldsOf o).any fun f => decide (f.off < o) && (f.acc == .ro || f.acc == .rc))

/-- What a read of a word does besides returning it: an RC register clears, an offset advances. -/
def readEffect (o : Nat) (s : State) : State :=
  if o ≥ 0x8000 then
    let q := (o - 0x8000) / 32
    if o % 32 = 28 then setQueue q { queue s q with underruns := 0 } s else s
  else if o = 0x20A4 then advanceDump s
  else if o = 0x2484 then advanceRec s
  else
    (Reg.all.filter fun f => f.off == o && f.acc == .rc).foldl
      (fun t f => match selObj t f.sel with
        | none => t
        | some i => wr f i 0 t) s

/-- Latches the high words of the register that begins at an offset (R389). -/
def latchHigh (o : Nat) (s : State) : State :=
  { s with bus := { s.bus with latch := (highWords o).foldl (fun m k => Sparse.set 0 m k (liveWord s k)) s.bus.latch } }

/-- A 4-byte read: a high word returns what the last read of its lowest word latched. -/
def readWord (o : Nat) (s : State) : Nat × State :=
  if isHigh o then (Sparse.get 0 s.bus.latch o, s) else (liveWord s o, readEffect o (latchHigh o s))

/-- An 8-byte read: both words of one cycle. -/
def readPair (o : Nat) (s : State) : Nat × State :=
  ((if served s o then liveWord s o else 0) + (if served s (o + 4) then liveWord s (o + 4) else 0) * 2 ^ 32,
    let t := if served s o then readEffect o s else s
    if served s (o + 4) then readEffect (o + 4) t else t)

/-- Whether an access is 4 bytes aligned to 4, or 8 bytes aligned to 8 (R368). -/
def accessOk (o size : Nat) : Bool := (size == 4 && o % 4 == 0) || (size == 8 && o % 8 == 0)

/-- An access of another size or alignment: NT_ERR, and no effect (R368). -/
def badAccess (s : State) : State := { s with bus := { s.bus with rdata := 0, err := true } }

/-- An aperture read. -/
def apertureRead (o size : Nat) (s : State) : State :=
  if !accessOk o size then badAccess s
  else if size = 4 then apReadWith o s (readWord o)
  else apReadWith (if served s o then o else o + 4) s (readPair o)

/-- RC_REGISTER_READ (R11, R12): an aperture read, which clears an RC register after returning it. -/
def execRcRegisterRead (off : Offset) (size : Nat) (s : State) : Host.Outcome State Fault Refusal :=
  done s (apertureRead off.toNat size s)

/-- MULTIWORD_LOW_READ (R389): a 4-byte read, which latches the high words of the register that begins there. -/
def execMultiwordLowRead (off : Offset) (s : State) : Host.Outcome State Fault Refusal := done s (apertureRead off.toNat 4 s)

/-! ### Writes of fields -/

/-- What becomes of a value written to a field. -/
inductive Taken
  /-- the field takes it -/
  | yes
  /-- it is ignored -/
  | no
  /-- it is ignored and a flag is set -/
  | flag (f : Fld) (i : Nat)
  deriving DecidableEq, Repr

/-- Taken where a condition holds, else ignored. -/
def takeIf (b : Bool) : Taken := if b then .yes else .no

/-- The range that the owning rule gives a field, where it is narrower than its bits; others take any value. -/
def rangeOk (f : Fld) (v : Nat) : Bool :=
  let within := fun (lo hi : Nat) => decide (lo ≤ v) && decide (v ≤ hi)
  match f.off, f.lsb with
  | 0x0C04, 0 => within 0 384
  | 0x0C04, 12 => within 2 16
  | 0x0C04, 20 => within 7 16
  | 0x1044, 4 => within 0 5
  | 0x1044, 8 => within 0 2
  | 0x1044, 16 => within 0 100
  | 0x1450, 2 => within 1 2
  | 0x1450, 16 => within 1 1000
  | 0x1450, 48 => within 20 100
  | 0x1450, 64 => within 1 65535
  | 0x1450, 80 => within 1 65535
  | 0x1828, 8 => v == 9 || v == 12
  | 0x1828, 16 => within 1 8
  | 0x1828, 20 => within 1 256
  | 0x1C50, 8 => within 64 1048576
  | 0x20A0, _ => v % 4 == 0
  | 0x2410, _ => within 100 900
  | 0x2418, 0 => within 500 1000
  | 0x2418, 10 => within 600 850 && v % 5 == 0
  | 0x2418, 20 => within 600 850 && v % 5 == 0
  | 0x241C, 0 => within 85 115
  | 0x241C, 8 => within 95 110
  | 0x241C, 16 => within 85 95
  | 0x2430, 0 => within 16 65535
  | 0x243C, _ => within 1 255
  | 0x2440, 0 => within 1 255
  | 0x2440, 8 => within 2 20
  | 0x2460, 16 => within 10 10000
  | 0x2464, 0 => within 1 16
  | 0x2464, 8 => within 1 4
  | 0x2468, _ => within 40 54
  | 0x2470, _ => within 1 255
  | 0x2480, _ => v % 4 == 0
  | _, _ => within f.lo f.hi

/-- A value outside a field's range is ignored; a supervisor register then sets CFG_ERR (R328), an exerciser its REFUSED (R397). -/
def outOfRange (f : Fld) (i : Nat) : Taken :=
  if isSup f.off then .flag Reg.SUP_STAT_CFG_ERR 0
  else if f.off = 0x1044 then .flag Reg.EXER_STAT_REFUSED i
  else .no

/-- Whether an open context names a function slot (R239). -/
def fnBusy (s : State) (slot : Nat) : Bool :=
  s.ctxs.any fun e => e.2.st == .opened && rd Reg.FN_CTX_SLOT_SLOT e.1 s == slot

/-- A write to a function slot: ignored with BUSY_ERR while an open context names it; LOG2_STEP runs from −24 to 24 (R239). -/
def takeFn (s : State) (f : Fld) (v : Nat) : Taken :=
  if fnBusy s (rd Reg.FN_SLOT_SEL_SLOT 0 s) then .flag Reg.FN_STAT_BUSY_ERR 0
  else if f.off = 0x0C98 ∧ 24 < v ∧ v < 40 then .flag Reg.FN_STAT_CFG_ERR 0
  else .yes

/-- What the owning rule says of a value `v` written to a field of object `i`. -/
def taken (s : State) (f : Fld) (i v : Nat) : Taken :=
  if !rangeOk f v then outOfRange f i
  else match f.off with
    | 0x0424 => takeIf ((ctx s i).st == .free)
    | 0x0430 => .no
    | 0x0C04 => takeIf (!rdb Reg.BASIN_STAT_APPLY_BUSY 0 s)
    | 0x0C70 => takeIf (!((ctx s i).st == .opened))
    | 0x0C78 => takeIf (!((ctx s i).st == .opened))
    | 0x0C94 => takeFn s f v
    | 0x0C98 => takeFn s f v
    | 0x0CA4 => takeFn s f v
    | 0x0CAC => takeIf (!((ctx s i).st == .opened))
    | 0x1400 => takeIf (!s.tables.any fun e => e.2.defined)
    | 0x1450 => takeIf (f.lsb != 0)
    | 0x146C => .no
    | 0x1498 => takeIf (rd Reg.SKIM_CFG_MODE 0 s != 1)
    | 0x14A0 => takeIf (rd Reg.SKIM_CFG_MODE 0 s != 1)
    | 0x1818 => if v = 1 ∧ !s.host.cxl then .flag Reg.CXL_REGION_CTRL_CFG_ERR i else .yes
    | 0x1830 => .no
    | 0x18A0 => takeIf (s.remote.qps.all fun e => e.1 % 4 != i || (e.2.data.st == .down && e.2.abort.st == .down))
    | 0x18C4 => .no
    | 0x1C04 => takeIf ((desc s i).st == .idle)
    | o =>
      if (o = 0x1828 ∨ o = 0x1850 ∨ 0x1A00 ≤ o ∧ o < 0x1C00) ∧ rdb Reg.NVMF_TGT_CTRL_CONNECT i s then .no else .yes

/-- A field's value once a word of its register has been written. -/
def mergeWord (o v : Nat) (f : Fld) (old : Nat) : Nat :=
  let lo := 8 * (o - f.off)
  let r := old * 2 ^ f.lsb
  (r / 2 ^ (lo + 32) * 2 ^ (lo + 32) + v * 2 ^ lo + r % 2 ^ lo) / 2 ^ f.lsb % 2 ^ f.width

/-- A word written to one field (R3, R11): RW takes it, W1C clears where the bit is 1, the rest ignore it. -/
def writeField (o v : Nat) (s : State) (f : Fld) : State :=
  match f.acc, selObj s f.sel with
  | _, none => s
  | .rw, some i =>
    let n := mergeWord o v f (rd f i s)
    match taken s f i n with
    | .yes => wr f i n s
    | .no => s
    | .flag g j => wr g j 1 s
  | .w1c, some i => if inWord o f 1 &&& v = 0 then s else wr f i 0 s
  | _, _ => s

/-! ### Writes with an action -/

/-- The image at UM_FW_IMAGE_ADDR: its header, and the body where the header is valid (R355). -/
def imageAt (s : State) : List Byte :=
  let a := rd Reg.FW_IMAGE_ADDR_ADDR 0 s * 4096
  let h := readMem s 0 a 512
  if headerOk h then readMem s 0 a (512 + bodyLen h) else h

/-- UM_FW_CTRL: LOAD, then COMMIT_SVN. -/
def writeFwCtrl (v : Nat) (s : State) : State :=
  let t := if bit v 0 then loadImage (imageAt s) false s else s
  if bit v 1 then commitSvn t else t

/-- UM_RESET_CTRL: RUNG 2 to 4; other values are ignored. -/
def writeResetCtrl (v : Nat) (s : State) : State :=
  match v % 8 with
  | 2 => askRung 2 0 0 false s
  | 3 => if v / 16 % 4 < (layoutOf s).length then askRung 3 (v / 16 % 4) 0 false s else s
  | 4 => askRung 4 0 0 (bit v 8) s
  | _ => s

/-- UM_UNIT_CTRL: one bit acts; more than one is ignored and sets REFUSED (R401). -/
def writeUnitCtrl (v : Nat) (s : State) : State :=
  match v % 8 with
  | 0 => s
  | 1 => offlineUnit s
  | 2 => restoreUnit s
  | 4 => preferUnit s
  | _ => if isUnit (selUnit s) then wr Reg.UNIT_STAT_REFUSED (selUnit s) 1 s else s

/-- Load records of a table from a base: one for each shard (R183). -/
def recordSpan (s : State) (t base : Nat) : Nat × Nat := (base, base + (table s t).shards.length)

/-- Whether a table's load records would leave the space or meet those of another tracked table (R183). -/
def recordsClash (s : State) (t base : Nat) : Bool :=
  let r := recordSpan s t base
  decide (r.2 > 524288)
  || s.tables.any fun e => e.1 != t && rdb Reg.SKIM_TABLE_CFG_TRACK e.1 s &&
      let x := recordSpan s e.1 (rd Reg.SKIM_TABLE_CFG_RECORD_BASE e.1 s)
      decide (x.1 < r.2) && decide (r.1 < x.2)

/-- UM_SKIM_TABLE_CFG: refused with CFG_ERR where the records of a table to be tracked have no room (R183). -/
def writeSkimTable (v : Nat) (s : State) : State :=
  let t := rd Reg.SKIM_TABLE_SEL_TABLE 0 s
  let base := v / 2 ^ 10 % 2 ^ 19
  if bit v 0 && recordsClash s t base then wr Reg.SKIM_STAT_CFG_ERR 0 1 s
  else
    wr Reg.SKIM_TABLE_CFG_TRACK t (v % 2) (wr Reg.SKIM_TABLE_CFG_PROMOTE t (v / 2 % 2)
      (wr Reg.SKIM_TABLE_CFG_RECORD_BASE t base s))

/-- A written FMIN stands above FMAX only as the value to return to (R339). -/
def limitFmin (s : State) : State :=
  let f := rd Reg.SUP_AGE_STAT_FMAX 0 s
  let v := fminNow s
  if f < v then wr Reg.SUP_VF_LIMIT_FMIN 0 f { s with sup := { s.sup with fmin := some v } }
  else { s with sup := { s.sup with fmin := none } }

/-- What a word written at an offset starts, once its fields are written. -/
def wordAction (o v : Nat) (s : State) : State :=
  match o with
  | 0x0018 => driveIrq s
  | 0x0028 => writeFwCtrl v s
  | 0x0034 => revokeKey (v % 4) s
  | 0x0428 => writeCtxReset (v % 256) (bit v 8) s
  | 0x0430 => writeLayout (v % 16) s
  | 0x0C08 =>
    let t := if bit v 0 then startApply s else s
    if bit v 1 then startFlush t else t
  | 0x104C => if bit v 0 then startExer s else s
  | 0x1438 => lookupPlace (rd Reg.PLACE_ROW_SEL_TABLE 0 s) (rd Reg.PLACE_ROW_SEL_ROW 0 s) s
  | 0x143C => lookupPlace (rd Reg.PLACE_ROW_SEL_TABLE 0 s) (rd Reg.PLACE_ROW_SEL_ROW 0 s) s
  | 0x1450 => writeMode (v % 4) s
  | 0x146C => writeSkimTable v s
  | 0x1830 => connectTarget (bit v 0) false 0 s
  | 0x18C4 => writePeerConnect (bit v 0) s
  | 0x1C5C => if bit v 0 then closeSluice 4 s else s
  | 0x1C60 => writeReattach (v % 2 ^ 16) [] s
  | 0x200C => driveIrq s
  | 0x2060 => writeResetCtrl v s
  | 0x2074 => sendFabricAbort v s
  | 0x2084 =>
    let t := if bit v 0 then triggerDump s else s
    if bit v 1 then ackDump t else t
  | 0x20C8 => writeUnitCtrl v s
  | 0x2418 => limitFmin s
  | 0x2434 => if v % 4 = 3 then askU3 s else if v % 4 = 0 then wakeU3 s else s
  | 0x2444 => if bit v 0 then replan s else s
  | _ => s

/-! ### Queue registers (R27, R403, R404) -/

/-- Replaces word `k` of a 64-bit address that is aligned to 4 KiB. -/
def putAddrWord (a k v : Nat) : Nat :=
  (if k = 0 then a / 2 ^ 32 * 2 ^ 32 + v else v * 2 ^ 32 + a % 2 ^ 32) / 4096 * 4096

/-- A word of a queue's base entry: ignored unless the queue is DISABLED (R27). -/
def writeBase (q k v : Nat) (s : State) : State :=
  let w := queue s q
  if !(w.st == .disabled) then s
  else if k < 2 then setQueue q { w with base := putAddrWord w.base k v } s
  else setQueue q { w with replyBase := putAddrWord w.replyBase (k - 2) v } s

/-- UM_Q_STAT: the W1C bits; clearing DB_OVERRUN returns an OVERRUN queue to ACTIVE (R29). -/
def writeStat (q v : Nat) (s : State) : State :=
  let w := queue s q
  let t := setQueue q
    { w with flags :=
      { w.flags with cfgErr := w.flags.cfgErr && !bit v 4, underrun := w.flags.underrun && !bit v 7
                     resetRefused := w.flags.resetRefused && !bit v 8 } } s
  if bit v 5 then clearOverrun q t else t

/-- UM_Q_CTRL (R404, R407). -/
def writeCtrl (q v : Nat) (s : State) : State :=
  if bit v 1 then replyResetWrite q (bit v 0) s else if bit v 0 then enableQueue q s else disableQueue q s

/-- UM_Q_CFG: ignored unless the queue is DISABLED (R27). -/
def writeCfg (q v : Nat) (s : State) : State :=
  let w := queue s q
  if !(w.st == .disabled) then s
  else setQueue q
    { w with cfg :=
      { depthLog2 := v % 32, policy := v / 2 ^ 5 % 4, ctx := v / 2 ^ 8 % 256, weight := v / 2 ^ 16 % 16
        limit := v / 2 ^ 20 % 2048 } } s

/-- A word of a queue's control window. -/
def writeCtl (q k v : Nat) (s : State) : State :=
  match k with
  | 0 => writeDoorbell q (v % 2 ^ 16) s
  | 1 => writeCi q (v % 2 ^ 16) s
  | 4 => writeStat q v s
  | 5 => writeCtrl q v s
  | 6 => writeCfg q v s
  | _ => s

/-! ### Writes -/

/-- A word written at an aperture offset. -/
def writeWord (o v : Nat) (s : State) : State :=
  if o ≥ 0x8000 then writeCtl ((o - 0x8000) / 32) (o % 32 / 4) v s
  else if o ≥ 0x4000 then writeBase ((o - 0x4000) / 16) (o % 16 / 4) v s
  else wordAction o v ((fieldsOf o).foldl (writeField o v) s)

/-- The two words of an 8-byte write, the lower first. -/
def writePair (o v : Nat) (s : State) : State :=
  let hi := served s (o + 4)
  let t := if served s o then writeWord o (v % 2 ^ 32) s else s
  if hi then writeWord (o + 4) (v / 2 ^ 32) t else t

/-- An aperture write. -/
def apertureWrite (o size v : Nat) (s : State) : State :=
  if !accessOk o size then badAccess s
  else if size = 4 then apWrite o s (writeWord o (v % 2 ^ 32))
  else apWrite (if served s o then o else o + 4) s (writePair o v)

/-- REGISTER_WRITE (R2, R3, R5, R11, R368, R389, R390). -/
def execRegisterWrite (off : Offset) (size : Nat) (value : Dword) (s : State) : Host.Outcome State Fault Refusal :=
  done s (apertureWrite off.toNat size value.toNat s)

end Sys2Proof.Machine
end

