-- ==== Sys2Proof/Machine/I3c.lean ====
section
/-! DEFINITION. The I3C target: the commands of the tray controller and the common command codes (R382 to R384, R334, R333). It is
served in every state from power good, a halted supervisor included. -/

namespace Sys2Proof.Machine

/-- A command of the tray controller: with power good it is served; it wakes the engine from U1 or U2 (13 Table 3). -/
def i3cServe (s : State) (f : State → State) : Host.Outcome State Fault Refusal :=
  doneAlways s (if s.pins.pwrGood then f (if s.sup.halted then s else wakeUp s) else s)

/-- A command with an effect on the engine: a halted supervisor has none (R344). -/
def unlessHalted (f : State → State) (s : State) : State := if s.sup.halted then s else f s

/-- Sets CMD_ERR (R383). -/
def cmdError (s : State) : State := { s with i3c := { s.i3c with cmdErr := true } }

/-- Bytes returned in the next private read. -/
def i3cReturn (bs : List Byte) (s : State) : State := send (.i3c bs) s

/-- Filtered values of every temperature monitor, in 0.25 °C. -/
def temperatures (s : State) : List Int :=
  [0, 1, 2, 3].flatMap fun k => (List.range (monCount k)).map fun i => filtered s k i

/-- The hottest filtered temperature in whole °C, rounded down (log entry 31). -/
def hottest (s : State) : Int :=
  match temperatures s with
  | [] => 0
  | x :: l => l.foldl max x / 4

/-- The flags byte of GET_STATUS. -/
def statusFlags (s : State) : Nat :=
  rd Reg.SUP_HOLD_STAT_WEAK 0 s + rd Reg.SUP_HOLD_STAT_FAIL 0 s * 2 + b2n s.i3c.saveDone * 4 + b2n s.i3c.cmdErr * 8
    + rd Reg.SUP_PSTATE_STAT_REFUSED 0 s * 16 + b2n s.i3c.cycleAsked * 32

/-- The status bytes (15 Table 8). -/
def statusBytes (s : State) : List Byte :=
  [BitVec.ofNat 8 (phaseOf s), BitVec.ofNat 8 (rd Reg.BOOT_STAT_ERR 0 s), BitVec.ofNat 8 s.sup.pstate,
   BitVec.ofNat 8 (rd Reg.THROTTLE_STAT_CAUSE 0 s), BitVec.ofInt 8 (hottest s)]
    ++ toLE 2 (powerNow s / 10) ++ [BitVec.ofNat 8 (statusFlags s)]

/-- GET_STATUS (R383): CMD_ERR clears once read. -/
def execGetStatus (s : State) : Host.Outcome State Fault Refusal :=
  i3cServe s fun t => i3cReturn (statusBytes t) { t with i3c := { t.i3c with cmdErr := false } }

/-- A new tray limit, in range; a change of it writes TRAY_LIMIT (R334). -/
def writeTray (w : Nat) (s : State) : State :=
  let t := wr Reg.SUP_TRAY_LIMIT_W 0 w s
  if rd Reg.SUP_TRAY_LIMIT_W 0 s = w then t else logSup 9 0 w 0 t

/-- SET_TRAY_LIMIT (R334, R383): 100 to 900 W. -/
def execSetTrayLimit (watts : BitVec 16) (s : State) : Host.Outcome State Fault Refusal :=
  i3cServe s fun t => if watts.toNat < 100 ∨ 900 < watts.toNat then cmdError t else unlessHalted (writeTray watts.toNat) t

/-- CHIP_RESET (R383): with its key it requests rung 4. -/
def execI3cChipReset (key : Byte) (s : State) : Host.Outcome State Fault Refusal :=
  i3cServe s fun t => if key ≠ 0x5A#8 then cmdError t else unlessHalted (askRung 4 0 2 false) t

/-- The save of CAUSE 3, and its interrupt (R344, R384). -/
def powerCycleSave (s : State) : State :=
  let t := saveRecord 3 s
  raiseIbi 2 { t with i3c := { t.i3c with saveDone := true } }

/-- POWER_CYCLE (R383): with its key it starts the save of CAUSE 3. -/
def execPowerCycle (key : Byte) (s : State) : Host.Outcome State Fault Refusal :=
  i3cServe s fun t => if key ≠ 0xA5#8 then cmdError t else unlessHalted powerCycleSave t

/-- ENTER_U3 (R333, R383). -/
def execEnterU3 (s : State) : Host.Outcome State Fault Refusal := i3cServe s (unlessHalted askU3)

/-- WAKE (R333, R383). -/
def execWake (s : State) : Host.Outcome State Fault Refusal := i3cServe s (unlessHalted wakeU3)

/-- REC_OFFSET (R383): an offset into the record of 65,536 bytes. -/
def execRecOffset (offset : Word) (s : State) : Host.Outcome State Fault Refusal :=
  i3cServe s fun t => if offset.toNat ≥ 65536 then cmdError t else { t with i3c := { t.i3c with recOff := offset.toNat } }

/-- REC_READ (R383): 64 bytes at the offset, which advances by 64. -/
def execRecRead (s : State) : Host.Outcome State Fault Refusal :=
  i3cServe s fun t =>
    i3cReturn (recBytes t t.i3c.recOff 64) { t with i3c := { t.i3c with recOff := t.i3c.recOff + 64 } }

/-- Whether a monitor exists (R329). -/
def monExists (kind index : Nat) : Bool := decide (index < monCount kind)

/-- MONITOR (R383): the filtered value as a word. -/
def execMonitor (kind : Byte) (index : Byte) (s : State) : Host.Outcome State Fault Refusal :=
  i3cServe s fun t =>
    if monExists kind.toNat index.toNat then i3cReturn (toLE 4 ((filtered t kind.toNat index.toNat % 2 ^ 32).toNat)) t
    else cmdError t

/-! ### Common command codes (R382) -/

/-- The dynamic address, where none has been assigned. -/
def assignAddr (a : Nat) (s : State) : State :=
  if s.i3c.addr.isNone then { s with i3c := { s.i3c with addr := some a } } else s

/-- Returns `n` bytes whose value the spec does not state. -/
def returnFree (n : Nat) (s : State) : State := useFree n (i3cReturn (freeBytes s n) s)

/-- I3C_CCC (R382): the address, the enable of in-band interrupts, and the identity reads, whose bytes are free (log entry 32). -/
def execI3cCcc (code : I3cCode) (s : State) : Host.Outcome State Fault Refusal :=
  i3cServe s fun t =>
    match code with
    | .entdaa a => assignAddr a.toNat t
    | .setdasa a => assignAddr a.toNat t
    | .rstdaa => { t with i3c := { t.i3c with addr := none } }
    | .enec => { t with i3c := { t.i3c with events := true } }
    | .disec => { t with i3c := { t.i3c with events := false } }
    | .getpid => returnFree 6 t
    | .getbcr => returnFree 1 t
    | .getdcr => returnFree 1 t
    | .getstatus => returnFree 2 t

/-- Whether the bytes of a private write are a command of Table 8 with a value in range. -/
def i3cValid (bs : List Byte) : Bool :=
  let code := (bs.headD 0#8).toNat
  let arg := fromLE (bs.drop 1)
  match bs.length, code with
  | 1, 0x01 => true
  | 3, 0x02 => decide (100 ≤ arg ∧ arg ≤ 900)
  | 2, 0x03 => arg == 0x5A
  | 2, 0x04 => arg == 0xA5
  | 1, 0x05 => true
  | 1, 0x06 => true
  | 5, 0x07 => decide (arg < 65536)
  | 1, 0x08 => true
  | 3, 0x09 => monExists (arg % 256) (arg / 256)
  | _, _ => false

/-- I3C_UNKNOWN_CODE (R383): a private write that is no command of Table 8 is ignored and sets CMD_ERR. -/
def execI3cUnknownCode (bytes : List Byte) (s : State) : Host.Outcome State Fault Refusal :=
  i3cServe s fun t => if i3cValid bytes then t else cmdError t

end Sys2Proof.Machine
end

