-- ==== Sys2Proof/Machine/Intake.lean ====
section
/-! DEFINITION. The fetch of a command packet, and what a command does as it is admitted (R28, R30, R33, R40, R175). -/

namespace Sys2Proof.Machine

/-- PACKET_FETCH (R28, R30, R33, R40): with `starts` the fetch of the next packet begins; otherwise the packet at the fetch index
arrives (log entry 71); a ROW_MIGRATE among them reserves as it is admitted (R175). -/
def execPacketFetch (q : QueueNo) (starts : Bool) (words : List Word) (s : State) : Host.Outcome State Fault Refusal :=
  done s (
    if starts then beginFetch q.toNat s
    else if fetchable s q.toNat words then migrateAdmitted s.nextId (fetchPacket q.toNat words s)
    else if lacksExtension s q.toNat words then giveUpFetch q.toNat s
    else s)

end Sys2Proof.Machine
end

