-- ==== Sys2Proof/Machine/Dispatch.lean ====
section
/-! DEFINITION. The dispatcher: one arm for each command, each one call of its meaning. -/

namespace Sys2Proof.Machine

/-- The effect of a command on everything but the queue of waiting commands. -/
def exec (i : Instr) (s : State) : Host.Outcome State Fault Refusal :=
  match i with
  | .nop cmd => Sys2Proof.Machine.execNop cmd s
  | .gatherPool cmd => Sys2Proof.Machine.execGatherPool cmd s
  | .cascade cmd => Sys2Proof.Machine.execCascade cmd s
  | .scatterGrad cmd => Sys2Proof.Machine.execScatterGrad cmd s
  | .interactionScatterGrad cmd => Sys2Proof.Machine.execInteractionScatterGrad cmd s
  | .mergeApply cmd => Sys2Proof.Machine.execMergeApply cmd s
  | .zeroRows cmd => Sys2Proof.Machine.execZeroRows cmd s
  | .prefetch cmd => Sys2Proof.Machine.execPrefetch cmd s
  | .pinRows cmd => Sys2Proof.Machine.execPinRows cmd s
  | .unpin cmd => Sys2Proof.Machine.execUnpin cmd s
  | .rowMigrate cmd => Sys2Proof.Machine.execRowMigrate cmd s
  | .tableDefine cmd => Sys2Proof.Machine.execTableDefine cmd s
  | .versionOpen cmd => Sys2Proof.Machine.execVersionOpen cmd s
  | .tablePublish cmd => Sys2Proof.Machine.execTablePublish cmd s
  | .tableRetire cmd => Sys2Proof.Machine.execTableRetire cmd s
  | .tableLoad cmd => Sys2Proof.Machine.execTableLoad cmd s
  | .tableSave cmd => Sys2Proof.Machine.execTableSave cmd s
  | .streamArm cmd => Sys2Proof.Machine.execStreamArm cmd s
  | .streamCancel cmd => Sys2Proof.Machine.execStreamCancel cmd s
  | .copy cmd => Sys2Proof.Machine.execCopy cmd s
  | .valveSet cmd => Sys2Proof.Machine.execValveSet cmd s
  | .valveAdd cmd => Sys2Proof.Machine.execValveAdd cmd s
  | .valveWaitGe cmd => Sys2Proof.Machine.execValveWaitGe cmd s
  | .valveWaitEq cmd => Sys2Proof.Machine.execValveWaitEq cmd s
  | .valveRead cmd => Sys2Proof.Machine.execValveRead cmd s
  | .contextOpen cmd => Sys2Proof.Machine.execContextOpen cmd s
  | .contextClose cmd => Sys2Proof.Machine.execContextClose cmd s
  | .rillHalt desc => Sys2Proof.Machine.execRillHalt desc s
  | .rillLoop desc => Sys2Proof.Machine.execRillLoop desc s
  | .rillNext desc => Sys2Proof.Machine.execRillNext desc s
  | .rillMove desc => Sys2Proof.Machine.execRillMove desc s
  | .rillPost desc => Sys2Proof.Machine.execRillPost desc s
  | .rillWait desc => Sys2Proof.Machine.execRillWait desc s
  | .rillFence desc => Sys2Proof.Machine.execRillFence desc s
  | .doorbell q tail => Sys2Proof.Machine.execDoorbell q tail s
  | .dbOverrunClear q => Sys2Proof.Machine.execDbOverrunClear q s
  | .enableSet q => Sys2Proof.Machine.execEnableSet q s
  | .enableClear q => Sys2Proof.Machine.execEnableClear q s
  | .replyReset q enable => Sys2Proof.Machine.execReplyReset q enable s
  | .replyCiWrite q ci => Sys2Proof.Machine.execReplyCiWrite q ci s
  | .packetFetch q starts words => Sys2Proof.Machine.execPacketFetch q starts words s
  | .arbiterGrant => Sys2Proof.Machine.execArbiterGrant s
  | .commandComplete cmd => Sys2Proof.Machine.execCommandComplete cmd s
  | .flushReadComplete cmd => Sys2Proof.Machine.execFlushReadComplete cmd s
  | .valveWaitSatisfied src => Sys2Proof.Machine.execValveWaitSatisfied src s
  | .fetchDataReturn fetch upset ecc => Sys2Proof.Machine.execFetchDataReturn fetch upset ecc s
  | .writebackComplete slice table row => Sys2Proof.Machine.execWritebackComplete slice table row s
  | .weirPoolRequest fetch upset ecc => Sys2Proof.Machine.execWeirPoolRequest fetch upset ecc s
  | .partialArrival part => Sys2Proof.Machine.execPartialArrival part s
  | .laneBlockIssue slice cmd => Sys2Proof.Machine.execLaneBlockIssue slice cmd s
  | .txbParityFail slice => Sys2Proof.Machine.execTxbParityFail slice s
  | .towerFrameSend cmd n ready => Sys2Proof.Machine.execTowerFrameSend cmd n ready s
  | .towerAcceptResume channel => Sys2Proof.Machine.execTowerAcceptResume channel s
  | .gradientFrame channel bytes => Sys2Proof.Machine.execGradientFrame channel bytes s
  | .commitPoint cmd => Sys2Proof.Machine.execCommitPoint cmd s
  | .publishTakesEffect cmd => Sys2Proof.Machine.execPublishTakesEffect cmd s
  | .versionFree table version => Sys2Proof.Machine.execVersionFree table version s
  | .fold row => Sys2Proof.Machine.execFold row s
  | .moveStart table row met => Sys2Proof.Machine.execMoveStart table row met s
  | .migrationEpoch => Sys2Proof.Machine.execMigrationEpoch s
  | .skimWindowEnd => Sys2Proof.Machine.execSkimWindowEnd s
  | .lookupReq msg => Sys2Proof.Machine.execLookupReq msg s
  | .partialRsp msg => Sys2Proof.Machine.execPartialRsp msg s
  | .gradPushData msg => Sys2Proof.Machine.execGradPushData msg s
  | .gradPushCommit msg => Sys2Proof.Machine.execGradPushCommit msg s
  | .gradPushDiscard msg => Sys2Proof.Machine.execGradPushDiscard msg s
  | .bPartial msg => Sys2Proof.Machine.execBPartial msg s
  | .gradAck msg => Sys2Proof.Machine.execGradAck msg s
  | .migrateReq msg => Sys2Proof.Machine.execMigrateReq msg s
  | .migrateAck msg => Sys2Proof.Machine.execMigrateAck msg s
  | .lookupTimeout reqId => Sys2Proof.Machine.execLookupTimeout reqId s
  | .bPartialTimeout cmd => Sys2Proof.Machine.execBPartialTimeout cmd s
  | .gradAckTimeout cmd => Sys2Proof.Machine.execGradAckTimeout cmd s
  | .migrateAckTimeout cmd => Sys2Proof.Machine.execMigrateAckTimeout cmd s
  | .contextOpenWaitTimeout cmd => Sys2Proof.Machine.execContextOpenWaitTimeout cmd s
  | .remoteBadMsg msg => Sys2Proof.Machine.execRemoteBadMsg msg s
  | .abortFrameRx msg heldOff => Sys2Proof.Machine.execAbortFrameRx msg heldOff s
  | .abortTxFail peer reason ctx => Sys2Proof.Machine.execAbortTxFail peer reason ctx s
  | .fabricAbortSend job => Sys2Proof.Machine.execFabricAbortSend job s
  | .nvmeCompletion io status dnr data => Sys2Proof.Machine.execNvmeCompletion io status dnr data s
  | .nvmfTimeout io => Sys2Proof.Machine.execNvmfTimeout io s
  | .nvmfConnectionLost target => Sys2Proof.Machine.execNvmfConnectionLost target s
  | .nvmfConnect on answered capacity => Sys2Proof.Machine.execNvmfConnect on answered capacity s
  | .keepAlive => Sys2Proof.Machine.execKeepAlive s
  | .rimPeerConnect on => Sys2Proof.Machine.execRimPeerConnect on s
  | .qpReconnect peer port => Sys2Proof.Machine.execQpReconnect peer port s
  | .cmMessage peer port kind => Sys2Proof.Machine.execCmMessage peer port kind s
  | .cnp peer port abortQp => Sys2Proof.Machine.execCnp peer port abortQp s
  | .rateRecovery => Sys2Proof.Machine.execRateRecovery s
  | .rimLinkDown port => Sys2Proof.Machine.execRimLinkDown port s
  | .translationFault who addr write site => Sys2Proof.Machine.execTranslationFault who addr write site s
  | .atsTranslationCompletion entry => Sys2Proof.Machine.execAtsTranslationCompletion entry s
  | .prgResponse who code => Sys2Proof.Machine.execPrgResponse who code s
  | .priTimeout who => Sys2Proof.Machine.execPriTimeout who s
  | .atsInvalidate space page size => Sys2Proof.Machine.execAtsInvalidate space page size s
  | .pendingArmPromote desc => Sys2Proof.Machine.execPendingArmPromote desc s
  | .memoryReadCompletion ctx cmd addr data => Sys2Proof.Machine.execMemoryReadCompletion ctx cmd addr data s
  | .linkDown => Sys2Proof.Machine.execLinkDown s
  | .hostpathStall => Sys2Proof.Machine.execHostpathStall s
  | .hostReset => Sys2Proof.Machine.execHostReset s
  | .hostpathClose => Sys2Proof.Machine.execHostpathClose s
  | .hcLinkUp link => Sys2Proof.Machine.execHcLinkUp link s
  | .hostpathReattach epoch unresolved => Sys2Proof.Machine.execHostpathReattach epoch unresolved s
  | .closeDrainDeadline ctx => Sys2Proof.Machine.execCloseDrainDeadline ctx s
  | .quarantineEnd ctx => Sys2Proof.Machine.execQuarantineEnd ctx s
  | .contextReset ctx jobAbort => Sys2Proof.Machine.execContextReset ctx jobAbort s
  | .engineReset => Sys2Proof.Machine.execEngineReset s
  | .partitionReset part => Sys2Proof.Machine.execPartitionReset part s
  | .chipReset fwReload => Sys2Proof.Machine.execChipReset fwReload s
  | .chipRstN lowNs => Sys2Proof.Machine.execChipRstN lowNs s
  | .rungTimeout => Sys2Proof.Machine.execRungTimeout s
  | .dumpTrigger => Sys2Proof.Machine.execDumpTrigger s
  | .dumpSkip unit => Sys2Proof.Machine.execDumpSkip unit s
  | .dumpAck => Sys2Proof.Machine.execDumpAck s
  | .dumpDataRead => Sys2Proof.Machine.execDumpDataRead s
  | .hangSample => Sys2Proof.Machine.execHangSample s
  | .notResponding unit block => Sys2Proof.Machine.execNotResponding unit block s
  | .coreFault core check => Sys2Proof.Machine.execCoreFault core check s
  | .coreWatchdogExpiry core => Sys2Proof.Machine.execCoreWatchdogExpiry core s
  | .coreImageCheck bad => Sys2Proof.Machine.execCoreImageCheck bad s
  | .sramUe slice code addr => Sys2Proof.Machine.execSramUe slice code addr s
  | .laneGroupFault slice group => Sys2Proof.Machine.execLaneGroupFault slice group s
  | .mappingEpoch => Sys2Proof.Machine.execMappingEpoch s
  | .unitOffline => Sys2Proof.Machine.execUnitOffline s
  | .unitRestore => Sys2Proof.Machine.execUnitRestore s
  | .unitPrefer => Sys2Proof.Machine.execUnitPrefer s
  | .unitScrubDone unit => Sys2Proof.Machine.execUnitScrubDone unit s
  | .selftestDone unit pass => Sys2Proof.Machine.execSelftestDone unit pass s
  | .cisternScrub vault found => Sys2Proof.Machine.execCisternScrub vault found s
  | .vaultOut vault cause => Sys2Proof.Machine.execVaultOut vault cause s
  | .channelOut channel => Sys2Proof.Machine.execChannelOut channel s
  | .cisternRefresh vault => Sys2Proof.Machine.execCisternRefresh vault s
  | .hbmRefresh stack rate => Sys2Proof.Machine.execHbmRefresh stack rate s
  | .exerStart => Sys2Proof.Machine.execExerStart s
  | .exerDone kind index result => Sys2Proof.Machine.execExerDone kind index result s
  | .basinApply => Sys2Proof.Machine.execBasinApply s
  | .basinApplyDone => Sys2Proof.Machine.execBasinApplyDone s
  | .basinFlush => Sys2Proof.Machine.execBasinFlush s
  | .basinFlushDone => Sys2Proof.Machine.execBasinFlushDone s
  | .placeRowLookup table row => Sys2Proof.Machine.execPlaceRowLookup table row s
  | .skimModeWrite mode => Sys2Proof.Machine.execSkimModeWrite mode s
  | .partLayoutWrite layout => Sys2Proof.Machine.execPartLayoutWrite layout s
  | .registerWrite off size value => Sys2Proof.Machine.execRegisterWrite off size value s
  | .rcRegisterRead off size => Sys2Proof.Machine.execRcRegisterRead off size s
  | .multiwordLowRead off => Sys2Proof.Machine.execMultiwordLowRead off s
  | .fwLoad image nocError => Sys2Proof.Machine.execFwLoad image nocError s
  | .commitSvn => Sys2Proof.Machine.execCommitSvn s
  | .fwKeyRevoke slot => Sys2Proof.Machine.execFwKeyRevoke slot s
  | .pwrGoodRise railOk => Sys2Proof.Machine.execPwrGoodRise railOk s
  | .memoryPhase bad => Sys2Proof.Machine.execMemoryPhase bad s
  | .coresPhase bad => Sys2Proof.Machine.execCoresPhase bad s
  | .ready => Sys2Proof.Machine.execReady s
  | .chipRestart bad => Sys2Proof.Machine.execChipRestart bad s
  | .pwrGoodFall => Sys2Proof.Machine.execPwrGoodFall s
  | .refclkFail which => Sys2Proof.Machine.execRefclkFail which s
  | .monitorSample samples => Sys2Proof.Machine.execMonitorSample samples s
  | .droopEvent slice => Sys2Proof.Machine.execDroopEvent slice s
  | .droopStepRemove => Sys2Proof.Machine.execDroopStepRemove s
  | .ageReplan => Sys2Proof.Machine.execAgeReplan s
  | .rimEyeCheck port pair margin => Sys2Proof.Machine.execRimEyeCheck port pair margin s
  | .hbmTraining channel => Sys2Proof.Machine.execHbmTraining channel s
  | .holdTest dropUv chargedMv => Sys2Proof.Machine.execHoldTest dropUv chargedMv s
  | .domainGate dom => Sys2Proof.Machine.execDomainGate dom s
  | .domainRestart dom => Sys2Proof.Machine.execDomainRestart dom s
  | .slicePark slice => Sys2Proof.Machine.execSlicePark slice s
  | .u3Entry => Sys2Proof.Machine.execU3Entry s
  | .u3Wake => Sys2Proof.Machine.execU3Wake s
  | .sagConfirm secondLow => Sys2Proof.Machine.execSagConfirm secondLow s
  | .supRecDataRead => Sys2Proof.Machine.execSupRecDataRead s
  | .getStatus => Sys2Proof.Machine.execGetStatus s
  | .setTrayLimit watts => Sys2Proof.Machine.execSetTrayLimit watts s
  | .i3cChipReset key => Sys2Proof.Machine.execI3cChipReset key s
  | .powerCycle key => Sys2Proof.Machine.execPowerCycle key s
  | .enterU3 => Sys2Proof.Machine.execEnterU3 s
  | .wake => Sys2Proof.Machine.execWake s
  | .recOffset offset => Sys2Proof.Machine.execRecOffset offset s
  | .recRead => Sys2Proof.Machine.execRecRead s
  | .monitor kind index => Sys2Proof.Machine.execMonitor kind index s
  | .i3cCcc code => Sys2Proof.Machine.execI3cCcc code s
  | .rimLinkUp port => Sys2Proof.Machine.execRimLinkUp port s
  | .queuePairError peer port abortQp => Sys2Proof.Machine.execQueuePairError peer port abortQp s
  | .nocWriteAcknowledgement cmd bytes => Sys2Proof.Machine.execNocWriteAcknowledgement cmd bytes s
  | .hostEnablesPri => Sys2Proof.Machine.execHostEnablesPri s
  | .vregWordUnacknowledged rail => Sys2Proof.Machine.execVregWordUnacknowledged rail s
  | .retentionWriteDone ok => Sys2Proof.Machine.execRetentionWriteDone ok s
  | .i3cUnknownCode bytes => Sys2Proof.Machine.execI3cUnknownCode bytes s

end Sys2Proof.Machine
end

