-- ==== Sys2Proof/Safety.lean ====
section
/-! DEFINITION. What a safe run keeps: the canonical form of the memories, and the trust of the firmware store. -/

namespace Sys2Proof.Machine

/-- The canonical form of a memory: addresses strictly rising, no byte listed that reads as an unlisted one (log entry 4). -/
abbrev Memory.wf (m : Sparse Byte) : Bool := Sparse.wf 0#8 m

/-- Every memory of the engine is in its canonical form: the memory beyond the boundary, and the three tiers. -/
def State.memoryWf (s : State) : Bool :=
  Memory.wf s.mem && Memory.wf s.tiers.dram && Memory.wf s.tiers.host && Memory.wf s.tiers.flash

/-- Whether an answer is a next state. -/
def Answers (o : Host.Outcome State Fault Refusal) : Prop := ∃ t, o = .next t

/-- The image of the firmware store, where there is one, was allowed when it came: its SVN is no lower than MIN_SVN (R355). -/
def State.imageAllowed (s : State) : Bool := s.fw.image.all fun m => decide (s.fw.sec.minSvn ≤ m.svn)

/-- The firmware store and the security region can be trusted (R355, R357, R361): the image held is allowed and its key is not
revoked, some key slot stays unrevoked, and what the retention store holds is no newer than what the engine goes by. -/
def State.Trusted (s : State) : Prop :=
  s.imageAllowed = true ∧ (∀ m ∈ s.fw.image, m.key ∉ s.fw.sec.revoked) ∧ (∃ k, k < 4 ∧ k ∉ s.fw.sec.revoked)
    ∧ s.ret.sec.minSvn ≤ s.fw.sec.minSvn ∧ ∀ k ∈ s.ret.sec.revoked, k ∈ s.fw.sec.revoked

/-- The commands in flight stand in the order of their admission, each under an admission number of its own that has been given out
(R47, log entry 9). -/
def State.CmdsOrdered (s : State) : Prop := (s.cmds.map Cmd.id).Pairwise (· < ·) ∧ ∀ c ∈ s.cmds, c.id < s.nextId

/-! ### The words of the statements -/

/-- Command `id` is `c`, an issued command of opcode `op` that may act: no translation fault stops it and the translation cache holds
the host pages it names, if any (R262), no rung has fenced its context (R311), and no save has halted the engine (R344). -/
abbrev Acts (s : State) (id op : Nat) (c : Cmd) : Prop :=
  cmd? s id = some c ∧ c.op = op ∧ (c.phase = .issued ∨ c.phase = .running) ∧ c.use.fault = none
    ∧ lackingOf s c = [] ∧ (ctx s c.ctx).st ≠ .resetting ∧ s.sup.halted = false

/-- A command whose own work has ended with a verdict; its progress counter has risen by one (R307). -/
def Cmd.endedWith (c : Cmd) (v : Verdict) : Cmd :=
  { c with phase := .done, status := v.1, d0 := v.2.1, d1 := v.2.2, progress := c.progress + 1 }

/-- From `s` to `t` command `id` has become `c`; every other command is as it was, and none has come or gone. -/
abbrev OneCmd (s t : State) (id : Nat) (c : Cmd) : Prop :=
  cmd? t id = some c ∧ (∀ j, j ≠ id → cmd? t j = cmd? s j) ∧ t.cmds.map Cmd.id = s.cmds.map Cmd.id

/-- From `s` to `t` every command but `id` is as it was, and none has come or gone. -/
abbrev OtherCmds (s t : State) (id : Nat) : Prop :=
  (∀ j, j ≠ id → cmd? t j = cmd? s j) ∧ t.cmds.map Cmd.id = s.cmds.map Cmd.id

/-- From `s` to `t` command `id` ended with ST_OK, and every other command is as it was. -/
abbrev EndsOk (s t : State) (id : Nat) : Prop := (∃ e, cmd? t id = some e ∧ e.phase = .done ∧ e.status = .ok) ∧ OtherCmds s t id

/-- Command `c` can read `n` bytes at an address: its windows allow it, and bytes of the host lie beyond an OPEN sluice, translated (R262,
R269, R278). -/
abbrev CanRead (s : State) (c : Cmd) (addr n : Nat) : Prop :=
  n = 0 ∨ windowAllows s c.ctx addr n false = true
    ∧ (isChip addr = true ∨ s.host.st = .opened ∧ lackingPages s (spaceOf s c.ctx) addr n false = [])

/-- From `s` to `t` one fetch was started, for command `id` alone: of a row of a version into a slice, from the place that holds it. -/
abbrev StartsFetch (s t : State) (id sl n row ver : Nat) (dest : FillTo) : Prop :=
  ∃ f, t.fetches = s.fetches ++ [f] ∧ t.nextFetch = s.nextFetch + 1 ∧ f.id = s.nextFetch ∧ f.table = n ∧ f.row = row ∧ f.version = ver
    ∧ f.slice = sl ∧ f.place = rowPlace s n ver row ∧ f.dest = dest ∧ f.weir = false ∧ f.waiters = [id]

/-- Command `id` has gone, and every other command is as it was. -/
abbrev CmdGone (s t : State) (id : Nat) : Prop := cmd? t id = none ∧ ∀ j, j ≠ id → cmd? t j = cmd? s j

/-- Every register field whose key is not in `ks` reads as it did. -/
abbrev RegsKept (s t : State) (ks : List Nat) : Prop := ∀ k, k ∉ ks → Sparse.get 0 t.regs k = Sparse.get 0 s.regs k

/-- Every byte of memory outside the keys `p` names reads as it did. -/
abbrev MemKept (s t : State) (p : Nat → Prop) : Prop := ∀ a, ¬ p a → readByte t.mem a = readByte s.mem a

/-- From `s` to `t` one error record was written (R302, R303): it stands in the slot of its number, the log's head moved past it, NEW
is 1, and every other slot is as it was. -/
def LogsOne (s t : State) (code action : Nat) (c : Option Nat) (u info : Nat) : Prop :=
  Sparse.get {} t.errs.slots (s.errs.head % 1024) =
      { code := code, action := action, noCmd := c.isNone, ctx := c.getD 0, unit := u, gen := (ctx s (c.getD 0)).gen,
        seq := s.errs.head, time := s.cycle, info := info }
    ∧ t.errs.head = (s.errs.head + 1) % 2 ^ 32 ∧ rd Reg.ERR_STAT_NEW 0 t = 1
    ∧ ∀ k, k ≠ s.errs.head % 1024 → Sparse.get {} t.errs.slots k = Sparse.get {} s.errs.slots k

/-- State `s` with everything an error record touches taken from `t`: registers, log, interrupt level and its message. -/
def State.logged (s t : State) : State :=
  { s with regs := t.regs, errs := t.errs, bus := { s.bus with irq := t.bus.irq }, sent := t.sent,
           host := { s.host with msixPending := t.host.msixPending } }

/-- The generation of descriptor `k` is `d`, and its next instruction is `op`: it is ACTIVE, holds a rill engine, its program goes
on, no rung has fenced its context, and no save has halted the engine (R255, R257, R311). -/
abbrev Rolls (s : State) (k op : Nat) (d : SDesc) : Prop :=
  desc s k = d ∧ d.st = .active ∧ d.ended = false ∧ rillFenced s d = false ∧ holdsEngine s d.order = true
    ∧ d.pc < ninstr d.prog ∧ insOp (slotAt d.prog d.pc) = op ∧ s.sup.halted = false

/-- The aperture serves offset `o`, and no save has halted the engine: the phase, the power state and a running rung 4 allow the
access (R333, R350, R351, R368). -/
abbrev Serves (s : State) (o : Nat) : Prop := served s o = true ∧ s.sup.halted = false

/-- The state in which a served register write has its effect: the engine awake, NT_ERR low. -/
def State.accessed (s : State) : State := { wakeUp s with bus := { (wakeUp s).bus with err := false } }

/-- Memory after reply record `r` is written at PI of its queue, and the new PI at the pointer mirror (R40, R41). -/
def replyMem (s : State) (r : HeldReply) : Sparse Byte :=
  let v := queue s r.queue
  writeKeys (writeKeys s.mem (memKey 0 (replyAddr v v.p1.pi)) (replyBytes r v.seq v.phase s.cycle)) (memKey 0 (mirrorAddr v))
    (toLE 8 ((v.p1.pi + 1) % v.depth))

/-- From `s` to `t` reply `r` was posted: written into the ring as the next of its queue, or, where it must wait for the host path,
held behind those held before (R41, R271). -/
def Posts (s t : State) (r : HeldReply) : Prop :=
  if replyHeld s r.queue then
    t.mem = s.mem ∧ t.host = { s.host with held := s.host.held ++ [r] } ∧ (queue t r.queue).posted = (queue s r.queue).posted
  else
    t.mem = replyMem s r ∧ t.host = s.host ∧ (queue t r.queue).posted = (queue s r.queue).posted + 1
      ∧ (queue t r.queue).seq = ((queue s r.queue).seq + 1) % 2 ^ 24
      ∧ (queue t r.queue).p1.pi = ((queue s r.queue).p1.pi + 1) % (queue s r.queue).depth

/-- From `s` to `t` the queues of context `c` have ended with its close or reset: none takes a packet any more, and one that was not
DISABLED is, with ENABLE cleared, once every packet whose fetch had begun has posted its reply (02 Table 1, R407). -/
abbrev QueuesEnd (s t : State) (c : Nat) : Prop := ∀ q, (queue s q).cfg.ctx = c →
  (queue t q).st ≠ .active ∧ (queue t q).st ≠ .held ∧ (queue t q).st ≠ .overrun
    ∧ ((queue s q).st ≠ .disabled → allPosted t q = true → (queue t q).st = .disabled ∧ (queue t q).enable = false)

/-- Every queue but `q` is as it was. -/
abbrev OtherQueues (s t : State) (q : Nat) : Prop := ∀ k, k ≠ q → queue t k = queue s k

end Sys2Proof.Machine
end

