-- ==== Sys2Proof/WellFormed.lean ====
section
/-! DEFINITION. Which commands are well formed: those whose operands name what the hardware has, in the sizes its messages have.
An ill-formed command cannot arrive; the machine gives it no effect of its own. -/

namespace Sys2Proof

/-- Whether a unit identifier names a unit of 12 Table 2. -/
def UnitId.wf (u : UnitId) : Bool :=
  let i := u.toNat % 4096
  match u.toNat / 4096 with
  | 1 => decide (i < 17)
  | 2 => decide (i < 9)
  | 3 => decide (i < 289)
  | 4 => decide (i < 17)
  | 5 => decide (i < 17)
  | 6 => decide (i < 260)
  | 7 => decide (i < 256)
  | 8 => decide (i < 36)
  | _ => false

/-- Whether a physical vault exists (06). -/
def vaultWf (v : BitVec 9) : Bool := decide (v.toNat < 260)

/-- Whether a physical slice exists. -/
def sliceWf (i : BitVec 5) : Bool := decide (i.toNat < 17)

/-- Whether a sequencer core exists. -/
def coreWf (i : BitVec 4) : Bool := decide (i.toNat < 9)

/-- Whether a clock domain exists (13 Table 2). -/
def Domain.wf : Domain → Bool
  | .slice i => sliceWf i
  | .vault i => vaultWf i
  | .channel _ => true
  | .rill _ => true
  | .core i => coreWf i

/-- Whether a DRAM finding is one: an uncorrected error or at least one corrected. -/
def DramFinding.wf (f : DramFinding) : Bool := f.uncorrected || decide (0 < f.corrected)

/-- Whether what the read of a tile met is a finding: an uncorrected error or at least one corrected. -/
def EccFinding.wf (f : EccFinding) : Bool := f.uncorrected || decide (0 < f.corrected)

/-- Whether a monitor exists (13 Table 1). -/
def monitorWf (kind index : Nat) : Bool :=
  match kind with
  | 0 => decide (index < 17)
  | 1 => decide (index < 260)
  | 2 => decide (index < 8)
  | 3 => decide (index < 4)
  | 4 => decide (index < 17)
  | 5 => decide (index < 4)
  | 6 => decide (index < 68)
  | 7 => decide (index < 1)
  | _ => false

/-- Whether a translation entry maps one naturally aligned page of 4 KiB to 1 GiB (10, Translation). -/
def AtcEntry.wf (e : AtcEntry) : Bool :=
  decide (4096 ≤ e.size) && decide (e.size ≤ 2 ^ 30) && decide (e.page.toNat % 4096 = 0) && decide (e.space ≤ 2 ^ 20)

/-- Whether a message has at least the header its kind gives (07, 08, 12). -/
def messageWf (n : Nat) (msg : List Byte) : Bool := decide (n ≤ msg.length)

/-- Whether the operands of a command name what the hardware has. -/
def Instr.wf (c : Instr) : Bool :=
  match c with
  | .packetFetch _ starts words => starts || decide (words.length = 16) || decide (words.length = 32)
  | .fetchDataReturn _ _ ecc => ecc.all EccFinding.wf
  | .writebackComplete slice _ _ => sliceWf slice
  | .weirPoolRequest _ _ ecc => ecc.all EccFinding.wf
  | .fold row => row.ecc.all EccFinding.wf
  | .moveStart _ _ met => met.ecc.all EccFinding.wf
  | .txbParityFail slice => sliceWf slice
  | .gradientFrame _ bytes => messageWf 16 bytes
  | .lookupReq msg => messageWf 1 msg
  | .partialRsp msg => messageWf 1 msg
  | .gradPushData msg => messageWf 1 msg
  | .gradPushCommit msg => messageWf 1 msg
  | .gradPushDiscard msg => messageWf 1 msg
  | .bPartial msg => messageWf 1 msg
  | .gradAck msg => messageWf 1 msg
  | .migrateReq msg => messageWf 1 msg
  | .migrateAck msg => messageWf 1 msg
  | .remoteBadMsg msg => messageWf 1 msg
  | .abortFrameRx msg _ => messageWf 1 msg
  | .atsTranslationCompletion entry => entry.wf
  | .atsInvalidate _ page size => decide (page.toNat % 4096 = 0) && decide (0 < size)
  | .prgResponse _ _ => true
  | .memoryReadCompletion _ _ _ data => decide (0 < data.length)
  | .dumpSkip unit => unit.wf
  | .notResponding unit _ => unit.wf
  | .coreFault core _ => coreWf core
  | .coreWatchdogExpiry core => coreWf core
  | .coreImageCheck bad => bad.all fun i => decide (i < 9)
  | .sramUe slice _ _ => sliceWf slice
  | .laneGroupFault slice group => sliceWf slice && decide (group.toNat < 17)
  | .unitScrubDone unit => unit.wf
  | .selftestDone unit _ => unit.wf
  | .cisternScrub vault found => vaultWf vault && found.all DramFinding.wf
  | .vaultOut vault cause => vaultWf vault && decide (cause.toNat ≠ 0)
  | .cisternRefresh vault => vaultWf vault
  | .exerDone kind index result =>
    (if kind = 0#1 then vaultWf index else decide (index.toNat < 256)) && decide (result.faults.map (·.1)).Nodup
  | .registerWrite _ size value => decide (size ≤ 8) && decide (value.toNat < 2 ^ (8 * size))
  | .rcRegisterRead _ size => decide (size ≤ 8)
  | .memoryPhase bad => bad.all UnitId.wf
  | .coresPhase bad => bad.all UnitId.wf
  | .chipRestart bad => bad.all UnitId.wf
  | .monitorSample samples => samples.all fun m => monitorWf m.kind.toNat m.index.toNat
  | .droopEvent slice => sliceWf slice
  | .rimEyeCheck _ pair _ => decide (pair.toNat < 9)
  | .domainGate dom => dom.wf
  | .domainRestart dom => dom.wf
  | .slicePark slice => sliceWf slice
  | .i3cUnknownCode bytes => messageWf 1 bytes
  | .nop _ | .gatherPool _ | .cascade _ | .scatterGrad _ | .interactionScatterGrad _ | .mergeApply _ | .zeroRows _
  | .prefetch _ | .pinRows _ | .unpin _ | .rowMigrate _ | .tableDefine _ | .versionOpen _ | .tablePublish _ | .tableRetire _
  | .tableLoad _ | .tableSave _ | .streamArm _ | .streamCancel _ | .copy _ | .valveSet _ | .valveAdd _ | .valveWaitGe _
  | .valveWaitEq _ | .valveRead _ | .contextOpen _ | .contextClose _ | .rillHalt _ | .rillLoop _ | .rillNext _ | .rillMove _
  | .rillPost _ | .rillWait _ | .rillFence _ | .doorbell _ _ | .dbOverrunClear _ | .enableSet _ | .enableClear _
  | .replyReset _ _ | .replyCiWrite _ _ | .arbiterGrant | .commandComplete _ | .flushReadComplete _
  | .valveWaitSatisfied _ | .partialArrival _ | .laneBlockIssue _ _ | .towerFrameSend _ _ _ | .towerAcceptResume _
  | .commitPoint _ | .publishTakesEffect _ | .versionFree _ _ | .migrationEpoch
  | .skimWindowEnd | .lookupTimeout _ | .bPartialTimeout _ | .gradAckTimeout _ | .migrateAckTimeout _ | .abortTxFail _ _ _
  | .fabricAbortSend _ | .nvmeCompletion _ _ _ _ | .nvmfTimeout _ | .nvmfConnectionLost _ | .nvmfConnect _ _ _ | .keepAlive
  | .rimPeerConnect _ | .qpReconnect _ _ | .cmMessage _ _ _ | .cnp _ _ _ | .rateRecovery | .rimLinkDown _
  | .translationFault _ _ _ _ | .priTimeout _ | .pendingArmPromote _ | .linkDown | .hostpathStall | .hostReset
  | .hostpathClose | .hcLinkUp _ | .hostpathReattach _ _ | .closeDrainDeadline _ | .quarantineEnd _
  | .contextOpenWaitTimeout _ | .contextReset _ _ | .engineReset | .partitionReset _ | .chipReset _ | .chipRstN _
  | .rungTimeout | .dumpTrigger | .dumpAck | .dumpDataRead | .hangSample | .mappingEpoch | .unitOffline | .unitRestore
  | .unitPrefer | .channelOut _ | .hbmRefresh _ _ | .exerStart | .basinApply | .basinApplyDone | .basinFlush
  | .basinFlushDone | .placeRowLookup _ _ | .skimModeWrite _ | .partLayoutWrite _ | .multiwordLowRead _ | .fwLoad _ _
  | .commitSvn | .fwKeyRevoke _ | .pwrGoodRise _ | .ready | .pwrGoodFall | .refclkFail _ | .droopStepRemove | .ageReplan
  | .hbmTraining _ | .holdTest _ _ | .u3Entry | .u3Wake | .sagConfirm _ | .supRecDataRead | .getStatus | .setTrayLimit _
  | .i3cChipReset _ | .powerCycle _ | .enterU3 | .wake | .recOffset _ | .recRead | .monitor _ _ | .i3cCcc _ | .rimLinkUp _
  | .queuePairError _ _ _ | .nocWriteAcknowledgement _ _ | .hostEnablesPri | .vregWordUnacknowledged _
  | .retentionWriteDone _ => true

end Sys2Proof
end

