-- ==== Sys2Proof/Certificates/Slice0/Obligations.lean ====
section
/-! DEFINITION. The statements about the engine. -/

open Sys2Proof Sys2Proof.Machine

/-- For every command c and state s, a step of s with c put at the front of its queue is exec of c on s with the rest of
the queue. That commands wait in one queue, first in first out, is the model's own form (log entry 1). -/
def Obligations.step_runs_front : Prop :=
  ∀ (c : Instr) (s : State), step { s with pending := c :: s.pending } = exec c s

/-- With no command waiting a step answers a next state. While PWR_GOOD is low, or a save has halted the engine, nothing
changes. Otherwise, with no dump being collected, no rung running, no context in a reset and none QUARANTINED,
UM_CYCLE_COUNT advances by 1, and by 20 in U3, modulo 2^64, the cycle of the valve modifications made before is over
(R286, log entry 89), and nothing else changes. That an empty queue lets time pass is the model's choice (log entry
2). -/
def Obligations.step_idles : Prop :=
  ∀ s : State, s.pending = [] →
    (∃ t, step s = .next t)
    ∧ (s.pins.pwrGood = false ∨ s.sup.halted = true → step s = .next s)
    ∧ (s.pins.pwrGood = true → s.sup.halted = false → s.dump.collect = none → s.rung = none →
        (∀ c, (ctx s c).halt = none ∧ (ctx s c).st ≠ .quarantined) →
        step s = .next { s with mods := [], cycle := (s.cycle + if s.sup.pstate = 3 then 20 else 1) % 2 ^ 64 })

/-- For every command and every state exec answers a next state, never a fault and never a refusal, and the queue of
waiting commands is the one it was given. -/
def Obligations.exec_always_answers : Prop :=
  ∀ (c : Instr) (s : State), ∃ t, exec c s = .next t ∧ t.pending = s.pending

/-- For every list of commands with more commands behind it, running the machine for as many steps as the list is long
answers a next state, the commands behind the list wait there in their order, and running for one step more is one
step from it. So a run takes the commands first in first out, one a step, and never stops early. -/
def Obligations.run_consumes_in_order : Prop :=
  ∀ (cs rest : List Instr) (s : State),
    ∃ t : State, Sys2Proof.core.run cs.length { s with pending := cs ++ rest } = .next t ∧ t.pending = rest
      ∧ Sys2Proof.core.run (cs.length + 1) { s with pending := cs ++ rest } = step t

/-- In the state right after power is applied every memory is in canonical form, nothing waits and no command is admitted,
every queue is DISABLED, every context FREE, no table is defined, every valve reads 0, every stored register field but
the geometry of basin class 0 reads its reset value, the sluice is CLOSED, no error record is unread, and no firmware
image is held. The canonical form and the fields kept as XOR with their reset values are the model's (log entries 4
and 6). -/
def Obligations.reset_state : Prop :=
  State.reset.memoryWf = true ∧ State.reset.imageAllowed = true ∧ State.reset.pending = [] ∧ State.reset.cmds = []
    ∧ (∀ q, (queue State.reset q).st = .disabled) ∧ (∀ c, (ctx State.reset c).st = .free)
    ∧ (∀ t, (table State.reset t).vers = []) ∧ (∀ v, valve State.reset v = 0)
    ∧ (∀ (f : Fld) (i : Nat), f.key i ≠ Reg.BASIN_CLASS_CFG_GRANULES.key 0 → rd f i State.reset = f.reset)
    ∧ State.reset.host.st = .closed ∧ State.reset.errs.head = 0 ∧ State.reset.fw.image = none
    ∧ (∀ a, readByte State.reset.mem a = 0#8)

/-- A VALVE_OP that acts completes when performed. SET makes the count VALUE. ADD makes it count + VALUE; at 2^32 or more
the count becomes 0xFFFFFFFF, UM_VALVE_STAT shows SAT and the valve, and one record of code 0x0003 names the context.
READ puts the count into DETAIL0. In each case the command ends with ST_OK, every other valve and command is as it
was, and nothing else changes but what an error record touches and the list of the cycle's modifications. A SET or ADD
that falls in the cycle of the modifications made just before leaves what they all leave in ascending source number
from the count before the cycle, whatever the order in which they are given; that a command says whether it falls in
that cycle is the model's form (log entry 89). -/
def Obligations.valve_set_add_read : Prop :=
  ∀ (s : State) (id : Nat) (c : Cmd), Acts s id 0x20 c →
    let v := Pkt.valve c.words
    let n := valve s v
    let x := Pkt.w9 c.words
    (Pkt.destTier c.words = 0 → ∃ t, exec (.valveSet ⟨id, false⟩) s = .next t ∧ valve t v = x ∧ (∀ w, w ≠ v → valve t w = valve s w)
      ∧ OneCmd s t id (c.endedWith okVerdict) ∧ t = { s with cmds := t.cmds, valves := t.valves, mods := t.mods })
    ∧ (Pkt.destTier c.words = 1 → n + x < 2 ^ 32 → ∃ t, exec (.valveAdd ⟨id, false⟩) s = .next t ∧ valve t v = n + x
      ∧ (∀ w, w ≠ v → valve t w = valve s w) ∧ OneCmd s t id (c.endedWith okVerdict)
      ∧ t = { s with cmds := t.cmds, valves := t.valves, mods := t.mods })
    ∧ (Pkt.destTier c.words = 1 → 2 ^ 32 ≤ n + x → ∃ t, exec (.valveAdd ⟨id, false⟩) s = .next t ∧ valve t v = 0xFFFFFFFF
      ∧ (∀ w, w ≠ v → valve t w = valve s w) ∧ OneCmd s t id (c.endedWith okVerdict)
      ∧ rd Reg.VALVE_STAT_SAT 0 t = 1 ∧ rd Reg.VALVE_STAT_LAST 0 t = v ∧ LogsOne s t 0x0003 0 (some c.ctx) 0 v
      ∧ t = { s.logged t with cmds := t.cmds, valves := t.valves, mods := t.mods })
    ∧ (Pkt.destTier c.words = 4 → ∃ t, exec (.valveRead id) s = .next t ∧ OneCmd s t id (c.endedWith (.ok, n, 0))
      ∧ t = { s with cmds := t.cmds })
    ∧ (∀ m : ValveMod, s.mods = [m] → m.valve = v →
        let set' : ValveMod := { valve := v, source := c.queue, set := true, amount := x, before := m.before }
        let add' : ValveMod := { set' with set := false }
        let both := fun (y : ValveMod) => if c.queue < m.source then m.apply (y.apply m.before) else y.apply (m.apply m.before)
        (Pkt.destTier c.words = 0 → ∃ t, exec (.valveSet ⟨id, true⟩) s = .next t ∧ valve t v = both set'
          ∧ (∀ w, w ≠ v → valve t w = valve s w) ∧ OneCmd s t id (c.endedWith okVerdict)
          ∧ t = { s with cmds := t.cmds, valves := t.valves, mods := [m, set'] })
        ∧ (Pkt.destTier c.words = 1 → n + x < 2 ^ 32 → ∃ t, exec (.valveAdd ⟨id, true⟩) s = .next t ∧ valve t v = both add'
          ∧ (∀ w, w ≠ v → valve t w = valve s w) ∧ OneCmd s t id (c.endedWith okVerdict)
          ∧ t = { s with cmds := t.cmds, valves := t.valves, mods := [m, add'] }))

/-- An issued WAIT_GE or WAIT_EQ is held in the valve unit and occupies no core. VALVE_WAIT_SATISFIED ends a held WAIT_GE
when the count is at least VALUE and a held WAIT_EQ when the count equals VALUE; it lets a header's WAIT_EN pass when
the count is at least 1, and a rill WAIT when the count is at least VALUE, plus the index of its dimension under
IDX_EN. It sees the modifications of earlier cycles, so a wait that proceeds ends the cycle of those made before (log
entry 89). A held wait whose condition does not hold stays as it is. No valve changes. -/
def Obligations.valve_waits : Prop :=
  ∀ s : State, s.sup.halted = false →
    (∀ id c, Acts s id 0x20 c → Pkt.destTier c.words = 2 →
      ∃ t, exec (.valveWaitGe id) s = .next t ∧ OneCmd s t id { c with phase := .running, core := none }
        ∧ t = { s with cmds := t.cmds })
    ∧ (∀ id c, Acts s id 0x20 c → Pkt.destTier c.words = 3 →
      ∃ t, exec (.valveWaitEq id) s = .next t ∧ OneCmd s t id { c with phase := .running, core := none }
        ∧ t = { s with cmds := t.cmds })
    ∧ (∀ id c, cmd? s id = some c → c.op = 0x20 → c.phase = .running →
      ((Pkt.destTier c.words = 2 ∧ Pkt.w9 c.words ≤ valve s (Pkt.valve c.words)
          ∨ Pkt.destTier c.words = 3 ∧ valve s (Pkt.valve c.words) = Pkt.w9 c.words) →
        ∃ t, exec (.valveWaitSatisfied (.held id)) s = .next t ∧ OneCmd s t id (c.endedWith okVerdict)
          ∧ t = { s with cmds := t.cmds, mods := [] })
      ∧ ((Pkt.destTier c.words = 2 ∧ valve s (Pkt.valve c.words) < Pkt.w9 c.words
          ∨ Pkt.destTier c.words = 3 ∧ valve s (Pkt.valve c.words) ≠ Pkt.w9 c.words) →
        exec (.valveWaitSatisfied (.held id)) s = .next s))
    ∧ (∀ id c, cmd? s id = some c → c.phase = .admitted → Pkt.waitEn c.words = true → 1 ≤ valve s (Pkt.waitValve c.words) →
      ∃ t, exec (.valveWaitSatisfied (.header id)) s = .next t
        ∧ OneCmd s t id { c with waitOk := true, progress := c.progress + 1 } ∧ t = { s with cmds := t.cmds, mods := [] })
    ∧ (∀ (k : DescNo) d i c, Rolls s k.toNat 5 d → d.cmd = some i → cmd? s i = some c →
      insValue (slotAt d.prog d.pc)
          + (if insIdxEn (slotAt d.prog d.pc) then d.idx.getD (insD (slotAt d.prog d.pc)) 0 else 0)
        ≤ valve s (insValve (slotAt d.prog d.pc)) →
      ∃ t, exec (.valveWaitSatisfied (.rill k)) s = .next t ∧ desc t k.toNat = { d with waitOk := true }
        ∧ (∀ j, j ≠ k.toNat → desc t j = desc s j) ∧ OneCmd s t i { c with progress := c.progress + 1 }
        ∧ t = { s with cmds := t.cmds, descs := t.descs, mods := [] })

/-- COMMAND_COMPLETE of a done command that no fault stops and whose END frame does not wait, whose chip writes are
acknowledged and whose host writes are covered by completed reads, and whose completion flag holds its translation,
removes the command and posts one reply: the completion counter and SEQ of its queue advance by one, modulo 2^24 for
SEQ, or, where the reply waits for the host path, the reply with the command's queue, TAG, STATUS, OPCODE and details
is held behind those held before. No other queue's completion counter moves. Before its writes are flushed, a command
that wrote host addresses and has issued no flush issues its zero-length reads, one to the last host address it wrote
and under STRONG_COMPLETE one to each page, and stays; a flushed one whose flag lacks a translation asks for it and
stays. -/
def Obligations.command_complete_posts_one_reply : Prop :=
  ∀ (s : State) (id : Nat) (c : Cmd), cmd? s id = some c → c.phase = .done → awaitsEnd c = false → c.use.fault = none →
    s.sup.halted = false → ∀ joins : Bool,
    (c.use.chipPending = 0 → c.use.reads = [] → (c.use.flushed = true ∨ c.use.hostWritten = 0) → flagLacks s c = [] →
      ∃ t, exec (.commandComplete ⟨id, joins⟩) s = .next t ∧ cmd? t id = none
        ∧ (∀ q, q ≠ c.queue → (queue t q).posted = (queue s q).posted)
        ∧ (replyHeld s c.queue = false → (queue t c.queue).posted = (queue s c.queue).posted + 1
            ∧ (queue t c.queue).seq = ((queue s c.queue).seq + 1) % 2 ^ 24 ∧ t.host.held = s.host.held)
        ∧ (replyHeld s c.queue = true → (queue t c.queue).posted = (queue s c.queue).posted
            ∧ ∃ r, t.host.held = s.host.held ++ [r] ∧ r.queue = c.queue ∧ r.tag = Pkt.tag c.words ∧ r.status = c.status.code
                ∧ r.opcode = c.op ∧ r.d0 = c.d0 % 2 ^ 32 ∧ r.d1 = c.d1 % 2 ^ 32 ∧ r.credit = true))
    ∧ (c.use.chipPending = 0 → c.use.reads = [] → (c.use.flushed = true ∨ c.use.hostWritten = 0) → flagLacks s c ≠ [] →
      ∃ t, exec (.commandComplete ⟨id, joins⟩) s = .next t ∧ (∀ p ∈ flagLacks s c, (spaceOf s c.ctx, p) ∈ t.host.asked)
        ∧ t = { s with sent := t.sent, host := { s.host with asked := t.host.asked } })
    ∧ (c.use.flushed = false → c.use.hostWritten ≠ 0 → (s.host.st = .opened ∨ c.use.chipPending ≠ 0) →
      let as := c.use.lastHost :: (if Pkt.strong c.words then c.use.pages.map (·.2) else [])
      ∃ t, exec (.commandComplete ⟨id, joins⟩) s = .next t
        ∧ OneCmd s t id { c with use := { c.use with
            flushed := true, reads := c.use.reads ++ as.map fun a => { addr := a, covers := c.use.hostWritten } } }
        ∧ t = { s with cmds := t.cmds, sent := as.map Out.flushRead ++ s.sent })

/-- A done command with no tower work, no snapshot, no fault, nothing outstanding, no completion flag and no valve to
post, its writes flushed and its queue's working copies agreeing, whose reply need not wait, completes as follows.
Memory changes by two writes: the 32-byte record of Table 5 at PI of the reply ring, then the new PI as 8 bytes at the
pointer mirror after the ring. PI advances by one modulo the depth, PHASE toggles when PI wraps to 0, the free credits
rise by one up to CREDIT_LIMIT, and a DRAINING queue with nothing more in flight, or a FENCED one whose context's
close or reset has ended and whose packets have all replied, becomes DISABLED. No other queue, command or field
changes but the detector's count of replies. -/
def Obligations.reply_record_in_memory : Prop :=
  ∀ (s : State) (id : Nat) (c : Cmd), cmd? s id = some c → c.phase = .done → c.work = .none → c.op ≠ 0x18 → c.snaps = [] →
    c.use.fault = none → dropWaits id s = s → Pkt.cflagEn c.words = false → Pkt.postEn c.words = false → s.sup.halted = false →
    c.use.chipPending = 0 → c.use.reads = [] → (c.use.flushed = true ∨ c.use.hostWritten = 0) →
    (queue s c.queue).p1 = (queue s c.queue).p2 → replyHeld s c.queue = false →
    let v := queue s c.queue
    let pi := (v.p1.pi + 1) % v.depth
    let p := { v.p1 with pi := pi, free := min (v.p1.free + 1) v.cfg.limit }
    ∀ joins : Bool, ∃ t, exec (.commandComplete ⟨id, joins⟩) s = .next t
      ∧ t.mem = writeKeys
          (writeKeys s.mem (memKey 0 (v.replyBase + 32 * v.p1.pi))
            (replyBytes (replyOf s c c.status c.d0 c.d1) v.seq v.phase s.cycle))
          (memKey 0 (v.replyBase + 32 * v.depth)) (toLE 8 pi)
      ∧ (let ends := v.st = .draining ∧ inFlight t c.queue = 0 ∧ v.begun = 0
            ∨ v.st = .fenced ∧ (ctx s v.cfg.ctx).st ≠ .closing ∧ (ctx s v.cfg.ctx).st ≠ .resetting ∧ allPosted t c.queue = true
         queue t c.queue =
          { v with p1 := p, p2 := p, posted := v.posted + 1, seq := (v.seq + 1) % 2 ^ 24,
                   phase := (if pi = 0 then !v.phase else v.phase), mirror := pi,
                   unread := v.unread ++ [if Pkt.ext c.words then 2 else 1],
                   st := (if ends then .disabled else v.st), enable := (if ends then false else v.enable) })
      ∧ OtherQueues s t c.queue ∧ t.cmds = s.cmds.filter (fun d => d.id != id)
      ∧ t = { s with cmds := t.cmds, queues := t.queues, mem := t.mem, hang := { s.hang with replies := s.hang.replies + 1 } }

/-- An issued NOP that acts ends with ST_OK and changes nothing else. When a core is free and the arbiter's round serves
command queue q, and q's next admitted command may write its completion flag and need not fail for the host path, the
command is issued to the lowest free core; the tables it names have their matrices refilled where that was due, and a
MERGE_APPLY of the next step closes its table's step to further gradients; every other command is as it was. With no
lookup of a peer to serve, nothing changes when no core is free, or no queue is eligible. -/
def Obligations.arbiter_grant_issues : Prop :=
  ∀ s : State, s.sup.halted = false →
    (∀ id c, Acts s id 0x00 c →
      ∃ t, exec (.nop id) s = .next t ∧ OneCmd s t id (c.endedWith okVerdict) ∧ t = { s with cmds := t.cmds })
    ∧ (∀ k q u c, freeCore s = some k → nextGrant s = some (q, u) → q ≠ serveQueue → headCmd u q = some c → cmd? u c.id = some c →
      flagOutside u c = false → (u.host.st = .opened ∨ (queue u c.queue).cfg.policy ≠ 1 ∨ needsHost u c = false) →
      ∃ t, exec .arbiterGrant s = .next t ∧ OneCmd s t c.id { c with phase := .issued, core := some k }
        ∧ t.arb = u.arb ∧ t = { s with cmds := t.cmds, arb := t.arb, queues := t.queues, tables := t.tables }
        ∧ (∀ x, (queue t x).p1 = (queue s x).p1 ∧ (queue t x).st = (queue s x).st ∧ (queue t x).seq = (queue s x).seq))
    ∧ (nextLookup s = none → (freeCore s = none ∨ ∀ q, eligible s q = false) → exec .arbiterGrant s = .next s)

/-- FLUSH_READ_COMPLETE takes the oldest outstanding zero-length read of the command and raises the host bytes known
delivered to what it covers. NOC_WRITE_ACKNOWLEDGEMENT moves as many pending chip-path bytes as it covers to
acknowledged. MEMORY_READ_COMPLETION of a live command of the context that does not complete its feature records
stores the data in the context's address space and raises the progress counter; of a command that has ended, it counts
in UM_CTX_LATE_CNT and retires the tag, with which a QUARANTINED context whose last tag it was becomes FREE. With no
invalidation waiting for reads these change nothing else. HOST_ENABLES_PRI enables translation and clears
UM_PRI_STAT.STOPPED. -/
def Obligations.traffic_acknowledged : Prop :=
  ∀ s : State, s.sup.halted = false → s.host.invals = [] →
    (∀ id c n rest, cmd? s id = some c → c.use.reads = n :: rest →
      ∃ t, exec (.flushReadComplete id) s = .next t
        ∧ OneCmd s t id { c with use := { c.use with reads := rest, hostKnown := max c.use.hostKnown n.covers } }
        ∧ t = { s with cmds := t.cmds })
    ∧ (∀ id c n, cmd? s id = some c →
      ∃ t, exec (.nocWriteAcknowledgement id n) s = .next t
        ∧ OneCmd s t id { c with use := { c.use with
            chipPending := c.use.chipPending - n, chipDone := c.use.chipDone + min n c.use.chipPending } }
        ∧ t = { s with cmds := t.cmds })
    ∧ (∀ (k : CtxNo) id c (a : Dword) data, cmd? s id = some c → c.ctx = k.toNat → c.phase ≠ .reading →
      ∃ t, exec (.memoryReadCompletion k id a data) s = .next t
        ∧ t.mem = writeKeys s.mem (memKey (spaceOf s c.ctx) a.toNat) data
        ∧ OneCmd s t id { c with progress := c.progress + 1 } ∧ t = { s with cmds := t.cmds, mem := t.mem })
    ∧ (∀ (k : CtxNo) id (a : Dword) data, cmd? s id = none → id < s.nextId →
      ∃ t, exec (.memoryReadCompletion k id a data) s = .next t
        ∧ (let x := { ctx s k.toNat with tags := (ctx s k.toNat).tags.filter fun e => decide (e.2 ≠ .cmd id) }
           let last := (∀ e ∈ x.tags, e.1 ≠ x.gen) ∧ ∀ f ∈ s.fetches, f.ctx = k.toNat → f.gen ≠ x.gen
           (x.st = .quarantined ∧ last → ctx t k.toNat = x.freed) ∧ (¬ (x.st = .quarantined ∧ last) → ctx t k.toNat = x))
        ∧ (∀ j, j ≠ k.toNat → ctx t j = ctx s j)
        ∧ rd Reg.CTX_LATE_CNT_COUNT k.toNat t = satAdd 32 (rd Reg.CTX_LATE_CNT_COUNT k.toNat s) 1
        ∧ RegsKept s t [Reg.CTX_LATE_CNT_COUNT.key k.toNat] ∧ t = { s with ctxs := t.ctxs, regs := t.regs })
    ∧ ((∀ c ∈ s.cmds, ∀ f ∈ c.use.fault, f.sent = true) →
      ∃ t, exec .hostEnablesPri s = .next t ∧ rd Reg.PRI_STAT_STOPPED 0 t = 0
        ∧ RegsKept s t [Reg.PRI_STAT_STOPPED.key 0]
        ∧ t = { s with regs := t.regs, host := { s.host with ats := true } })

/-- Where the aperture serves the write and the engine is READY, a doorbell of a queue in ACTIVE, HELD or FENCED with a
tail T below the depth D, whose advance (T - tail) mod D keeps W at D - 1 or less, makes T the accepted tail and adds
the advance to W. Any other doorbell of such a queue keeps the tail, sets DB_OVERRUN, puts the queue in OVERRUN and
writes one record of code 0x0001 that names the queue's context. In any other state of the queue the doorbell is
ignored. A clear of DB_OVERRUN clears the bit, and returns a queue from OVERRUN to ACTIVE while the sluice is OPEN.
Every other queue is as it was. -/
def Obligations.doorbells : Prop :=
  ∀ (s : State) (q : QueueNo), let v := queue s q.toNat
    (∀ tail : BitVec 16, Serves s (qCtl q.toNat 0) → phaseOf s = 5 → (v.st = .active ∨ v.st = .held ∨ v.st = .fenced) →
      let adv := (tail.toNat + v.depth - v.tail) % v.depth
      (tail.toNat < v.depth → v.w + adv ≤ v.depth - 1 →
        ∃ t, exec (.doorbell q tail) s = .next t ∧ queue t q.toNat = { v with tail := tail.toNat, w := v.w + adv }
          ∧ OtherQueues s t q.toNat ∧ t = { s.accessed with queues := t.queues })
      ∧ (v.depth ≤ tail.toNat ∨ v.depth - 1 < v.w + adv →
        ∃ t, exec (.doorbell q tail) s = .next t
          ∧ queue t q.toNat = { v with flags := { v.flags with dbOverrun := true }, st := .overrun }
          ∧ OtherQueues s t q.toNat ∧ LogsOne s t 0x0001 0 (some v.cfg.ctx) 0 (q.toNat + tail.toNat * 2 ^ 16)
          ∧ t = { s.accessed.logged t with queues := t.queues }))
    ∧ (∀ tail : BitVec 16, Serves s (qCtl q.toNat 0) → phaseOf s = 5 →
        (v.st = .disabled ∨ v.st = .overrun ∨ v.st = .draining) → exec (.doorbell q tail) s = .next s.accessed)
    ∧ (Serves s (qCtl q.toNat 0x10) → s.host.st = .opened →
        ∃ t, exec (.dbOverrunClear q) s = .next t
          ∧ queue t q.toNat = { v with flags := { v.flags with dbOverrun := false },
                                        st := if v.st = .overrun then .active else v.st }
          ∧ OtherQueues s t q.toNat ∧ t = { s.accessed with queues := t.queues })

/-- A served write of 1 to ENABLE in READY enables a DISABLED queue whose configuration is in range, whose context is OPEN
and whose CREDIT_LIMIT the pool can give: the queue becomes ACTIVE (while the sluice is OPEN) with its free credits,
whose working copies agree, at CREDIT_LIMIT less the commands in flight. A DISABLED queue that fails a condition, and
a DRAINING or FENCED queue, keeps its state and sets CFG_ERR, and ENABLE as it reads (that a 1 stays in FENCED is the
model's choice, log entry 68); in ACTIVE, HELD or OVERRUN nothing changes. A write of 0 takes an ACTIVE, HELD or
OVERRUN queue to DRAINING, or to DISABLED when nothing is in flight and no fetch has begun; in FENCED only the bit is
cleared; in DISABLED or DRAINING nothing changes. Every other queue is as it was. -/
def Obligations.enable_and_disable : Prop :=
  ∀ (s : State) (q : QueueNo), Serves s (qCtl q.toNat 0x14) → let v := queue s q.toNat
    (phaseOf s = 5 → s.host.st = .opened → v.st = .disabled → cfgBad q.toNat v.cfg = false →
      (ctx s v.cfg.ctx).st = .opened → v.cfg.limit ≤ poolFree s →
      v.p1 = v.p2 →
      let n := v.cfg.limit - inFlight s q.toNat
      ∃ t, exec (.enableSet q) s = .next t
        ∧ queue t q.toNat = { v with st := .active, enable := true, p1 := { v.p1 with free := n }, p2 := { v.p2 with free := n } }
        ∧ OtherQueues s t q.toNat ∧ t = { s.accessed with queues := t.queues, arb := { s.arb with used := true } })
    ∧ ((v.st = .draining ∨ v.st = .fenced ∨ phaseOf s ≠ 5 ∨ v.st = .disabled ∧ (cfgBad q.toNat v.cfg = true ∨ (ctx s v.cfg.ctx).st ≠ .opened
          ∨ poolFree s < v.cfg.limit)) →
      ∃ t, exec (.enableSet q) s = .next t ∧ queue t q.toNat = { v with flags := { v.flags with cfgErr := true } }
        ∧ OtherQueues s t q.toNat ∧ t = { s.accessed with queues := t.queues })
    ∧ (phaseOf s = 5 → (v.st = .active ∨ v.st = .held ∨ v.st = .overrun) → exec (.enableSet q) s = .next s.accessed)
    ∧ ((v.st = .active ∨ v.st = .held ∨ v.st = .overrun) →
      ∃ t, exec (.enableClear q) s = .next t
        ∧ queue t q.toNat = { v with enable := false, st := if inFlight s q.toNat = 0 ∧ v.begun = 0 then .disabled else .draining }
        ∧ OtherQueues s t q.toNat ∧ t = { s.accessed with queues := t.queues })
    ∧ (v.st = .fenced → ∃ t, exec (.enableClear q) s = .next t ∧ queue t q.toNat = { v with enable := false }
        ∧ OtherQueues s t q.toNat ∧ t = { s.accessed with queues := t.queues })
    ∧ ((v.st = .disabled ∨ v.st = .draining) → exec (.enableClear q) s = .next s.accessed)

/-- A served write of 1 to REPLY_RESET (with ENABLE 0) of a DISABLED queue sets PI, CI, SEQ, the fetch index, the accepted
tail and the engine's copy of the pointer mirror to zero, sets the free credits to CREDIT_LIMIT and makes the next
lap's PHASE 1; no memory changes, so the mirror word in memory keeps its content. In any other state the write changes
only RESET_REFUSED, which it sets; with ENABLE 1 as well, RESET_REFUSED is set and none of the ring's indices changes. -/
def Obligations.ring_reset : Prop :=
  ∀ (s : State) (q : QueueNo), Serves s (qCtl q.toNat 0x14) → let v := queue s q.toNat
    (v.st = .disabled → ∃ t u, exec (.replyReset q false) s = .next t ∧ queue t q.toNat = u
      ∧ u.p1.pi = 0 ∧ u.p1.ci = 0 ∧ u.seq = 0 ∧ u.fetch = 0 ∧ u.tail = 0 ∧ u.mirror = 0 ∧ u.p1.free = v.cfg.limit
      ∧ u.p2 = u.p1 ∧ u.phase = true ∧ u.st = .disabled ∧ u.cfg = v.cfg ∧ u.flags = v.flags ∧ u.base = v.base
      ∧ u.replyBase = v.replyBase ∧ t.mem = s.mem ∧ OtherQueues s t q.toNat ∧ t = { s.accessed with queues := t.queues })
    ∧ (v.st ≠ .disabled → ∃ t, exec (.replyReset q false) s = .next t
      ∧ queue t q.toNat = { v with flags := { v.flags with resetRefused := true } }
      ∧ OtherQueues s t q.toNat ∧ t = { s.accessed with queues := t.queues })
    ∧ (v.st ≠ .disabled → ∃ t, exec (.replyReset q true) s = .next t ∧ (queue t q.toNat).flags.resetRefused = true
      ∧ (queue t q.toNat).p1 = v.p1 ∧ (queue t q.toNat).seq = v.seq ∧ (queue t q.toNat).fetch = v.fetch
      ∧ (queue t q.toNat).tail = v.tail ∧ (queue t q.toNat).phase = v.phase ∧ t.mem = s.mem ∧ OtherQueues s t q.toNat)

/-- With the working copies of the pointers in agreement, a served write of a consumer index below the depth that does not
move CI past PI makes it CI, drops the slots of the consumed replies from W and changes nothing else. A value of the
depth or more, or one that would move CI past PI, keeps CI, sets UNDERRUN and raises UM_Q_UNDERRUN_CNT. -/
def Obligations.reply_ci_write : Prop :=
  ∀ (s : State) (q : QueueNo) (ci : BitVec 16), Serves s (qCtl q.toNat 4) → let v := queue s q.toNat
    v.p1 = v.p2 →
    let n := (ci.toNat + v.depth - v.p1.ci) % v.depth
    let have' := (v.p1.pi + v.depth - v.p1.ci) % v.depth
    (ci.toNat < v.depth → n ≤ have' → ∃ t, exec (.replyCiWrite q ci) s = .next t
      ∧ queue t q.toNat = { v with p1 := { v.p1 with ci := ci.toNat }, p2 := { v.p1 with ci := ci.toNat }, lastCi := ci.toNat,
                                    w := v.w - sumOf (v.unread.take n), unread := v.unread.drop n }
      ∧ OtherQueues s t q.toNat ∧ t = { s.accessed with queues := t.queues })
    ∧ (v.depth ≤ ci.toNat ∨ have' < n → ∃ t, exec (.replyCiWrite q ci) s = .next t
      ∧ queue t q.toNat = { v with flags := { v.flags with underrun := true }, underruns := satAdd 32 v.underruns 1 }
      ∧ OtherQueues s t q.toNat ∧ t = { s.accessed with queues := t.queues })

/-- A packet fetched by a queue that is not FENCED, with a free credit, that passes the checks 1 to 7, and is no CASCADE,
becomes the youngest admitted command: it takes the next admission number, its queue, the queue's context and
generation, its words and the version snapshots of its tables, and waits for the arbiter; a ROW_MIGRATE then reserves
for its rows where its identifiers can be read. A CASCADE that passes checks 1 to 5, its feature records within the
windows of its context, becomes the youngest command as well and reads those records first. One credit is taken and
the fetch index moves past the packet's slots. No memory changes and no earlier command does. The fetch of a further
packet begins where the doorbells cover a slot for it and the ring can be reached, and is counted until its packet
arrives; the fetch of a header whose extension no doorbell covers is given up. That a fetch begins at a step of its
own is the model's form (log entry 71). -/
def Obligations.packet_fetch_admits : Prop :=
  ∀ (s : State) (q : QueueNo) (ws : List Word), s.sup.halted = false →
    let v := queue s q.toNat
    let n := v.passed (slotsOf ws)
    let u : State := setQueue q.toNat n s
    let p := { v.p1 with free := v.p1.free - 1 }
    (fetchable s q.toNat ws = true → v.st ≠ .fenced → s.host.st = .opened → v.p1 = v.p2 → v.p1.free ≠ 0 →
      (∀ d ∈ s.cmds, d.id < s.nextId) → checks15 u q.toNat ws = none →
      (Pkt.op ws ≠ 2 → checks67 u ws = none → ∃ x c, x.cmds = s.cmds ++ [c]
        ∧ c = { newCmd s q.toNat ws with
                  snaps := snapsOf u (newCmd s q.toNat ws), work := workOf u (newCmd s q.toNat ws) }
        ∧ x.nextId = s.nextId + 1 ∧ queue x q.toNat = { n with p1 := p, p2 := p } ∧ OtherQueues s x q.toNat
        ∧ x = { s with cmds := x.cmds, nextId := x.nextId, queues := x.queues, tables := x.tables, lehr := x.lehr }
        ∧ exec (.packetFetch q false ws) s = .next (if Pkt.op ws = 8 then migrateAdmitted s.nextId x else x))
      ∧ (Pkt.op ws = 2 → listAllowed u v.cfg.ctx ws = true → ∃ t, exec (.packetFetch q false ws) s = .next t
        ∧ t.cmds = s.cmds ++ [{ newCmd s q.toNat ws with phase := .reading }] ∧ t.nextId = s.nextId + 1
        ∧ queue t q.toNat = { n with p1 := p, p2 := p } ∧ OtherQueues s t q.toNat
        ∧ t = { s with cmds := t.cmds, nextId := t.nextId, queues := t.queues }))
    ∧ (mayBegin s q.toNat = true → ∃ t, exec (.packetFetch q true ws) s = .next t
      ∧ queue t q.toNat = { v with begun := v.begun + 1 } ∧ OtherQueues s t q.toNat ∧ t = { s with queues := t.queues })
    ∧ (mayBegin s q.toNat = false → exec (.packetFetch q true ws) s = .next s)
    ∧ (fetchable s q.toNat ws = false → lacksExtension s q.toNat ws = true → v.st = .active →
      ∃ t, exec (.packetFetch q false ws) s = .next t ∧ queue t q.toNat = { v with begun := v.begun - 1 }
        ∧ OtherQueues s t q.toNat ∧ t = { s with queues := t.queues })

/-- A packet fetched by a FENCED queue is not admitted and posts ST_CTX_CLOSED; one fetched by a queue without a free
credit is not admitted and posts ST_QUEUE_FULL with the commands in flight in DETAIL0. Neither takes a credit: the
free credits, every command and the next admission number stay. A packet that cannot be fetched changes nothing,
unless it is a header without its extension, whose fetch is given up. -/
def Obligations.packet_fetch_refuses : Prop :=
  ∀ (s : State) (q : QueueNo) (ws : List Word), s.sup.halted = false →
    let v := queue s q.toNat
    (fetchable s q.toNat ws = false → lacksExtension s q.toNat ws = false → exec (.packetFetch q false ws) s = .next s)
    ∧ (fetchable s q.toNat ws = true → v.p1 = v.p2 → v.st = .fenced → ∃ t, exec (.packetFetch q false ws) s = .next t
      ∧ Posts s t (refuseReply s q.toNat ws (.ctxClosed, v.cfg.ctx, 0)) ∧ t.cmds = s.cmds ∧ t.nextId = s.nextId
      ∧ (queue t q.toNat).p1.free = v.p1.free ∧ (queue t q.toNat).fetch = (v.fetch + slotsOf ws) % v.depth
      ∧ OtherQueues s t q.toNat ∧ t = { s with queues := t.queues, mem := t.mem, host := t.host, hang := t.hang })
    ∧ (fetchable s q.toNat ws = true → v.p1 = v.p2 → v.st ≠ .fenced → v.p1.free = 0 →
      ∃ t, exec (.packetFetch q false ws) s = .next t
      ∧ Posts s t (refuseReply s q.toNat ws (.queueFull, inFlight s q.toNat, 0)) ∧ t.cmds = s.cmds ∧ t.nextId = s.nextId
      ∧ (queue t q.toNat).p1.free = 0 ∧ (queue t q.toNat).fetch = (v.fetch + slotsOf ws) % v.depth
      ∧ OtherQueues s t q.toNat ∧ t = { s with queues := t.queues, mem := t.mem, host := t.host, hang := t.hang })

/-- HALT ends the program and its STREAM_ARM with ST_OK. LOOP sets the index of its dimension to 0 and goes on. NEXT
raises that index by one and goes back to the instruction after the LOOP while the index is below COUNT; otherwise it
sets the index to 0 and goes on. FENCE goes on. Going past the last instruction ends the program and the arm with
ST_OK. No other descriptor, no memory and no valve changes. -/
def Obligations.rill_loops : Prop :=
  ∀ (s : State) (k : DescNo) (d : SDesc) (i : Nat) (c : Cmd), d.cmd = some i → cmd? s i = some c →
    let w := slotAt d.prog d.pc
    let goes := fun (t : State) (e : SDesc) (pc : Nat) =>
      desc t k.toNat = { e with pc := pc, ended := decide (ninstr d.prog ≤ pc), waitOk := false }
        ∧ (∀ j, j ≠ k.toNat → desc t j = desc s j)
        ∧ OneCmd s t i (if ninstr d.prog ≤ pc then c.endedWith okVerdict else c)
        ∧ t = { s with cmds := t.cmds, descs := t.descs }
    (Rolls s k.toNat 0 d → ∃ t, exec (.rillHalt k) s = .next t ∧ desc t k.toNat = { d with ended := true }
      ∧ (∀ j, j ≠ k.toNat → desc t j = desc s j) ∧ OneCmd s t i (c.endedWith okVerdict)
      ∧ t = { s with cmds := t.cmds, descs := t.descs })
    ∧ (Rolls s k.toNat 1 d → ∃ t, exec (.rillLoop k) s = .next t
      ∧ goes t { d with idx := setAt d.idx (insD w) 0 } (d.pc + 1))
    ∧ (Rolls s k.toNat 2 d → let n := d.idx.getD (insD w) 0 + 1
      let l := loopSlot d.prog (insD w)
      (n < insCount (slotAt d.prog l) → ∃ t, exec (.rillNext k) s = .next t
        ∧ goes t { d with idx := setAt d.idx (insD w) n } (l + 1))
      ∧ (insCount (slotAt d.prog l) ≤ n → ∃ t, exec (.rillNext k) s = .next t
        ∧ goes t { d with idx := setAt d.idx (insD w) 0 } (d.pc + 1)))
    ∧ (Rolls s k.toNat 6 d → ∃ t, exec (.rillFence k) s = .next t ∧ goes t d (d.pc + 1))

/-- A MOVE delivers the bytes of its element not yet delivered, in transfers of at most 4 KiB that cross no 4 KiB boundary
on either side. Where none of them is stopped, and the element overlaps nothing the generation moved before, every
byte of the element is copied and no other byte of memory changes, the element is counted and the program goes on. The
first transfer that leaves the context's windows ends the program, and its arm, with ST_XLATE_FAULT naming the
descriptor and the elements delivered; the first that lacks a translation asks for its pages and the generation stays.
In both cases the bytes before it are delivered and BYTE_OFF counts them. A POST whose earlier writes are flushed
raises its valve by 1 and goes on; before, it raises nothing and stays. A WAIT goes on when the count is at least
VALUE, plus the index under IDX_EN, and otherwise stays. No other descriptor changes. -/
def Obligations.rill_moves : Prop :=
  ∀ (s : State) (k : DescNo) (d : SDesc) (i : Nat) (c : Cmd), d.cmd = some i → cmd? s i = some c →
    let w := slotAt d.prog d.pc
    let x := rd Reg.STREAM_DESC_CFG_CTX k.toNat s
    let n := elemOf d.prog
    let src := elemAddr d 2 6
    let dst := elemAddr d 4 12
    let sp := spaceOf s x
    let past := decide (ninstr d.prog ≤ d.pc + 1)
    let stop := fun (y : Nat × Nat) => transferStop s x (src + y.1) (dst + y.1) y.2
    let moved := fun (t : State) (e : Nat) =>
      (∀ j, d.byteOff ≤ j → j < e → readByte t.mem (memKey sp (dst + j)) = readByte s.mem (memKey sp (src + j)))
        ∧ MemKept s t (fun a => ∃ j, d.byteOff ≤ j ∧ j < e ∧ a = memKey sp (dst + j))
        ∧ (∀ j, j ≠ k.toNat → desc t j = desc s j) ∧ OtherCmds s t i
    (Rolls s k.toNat 3 d → src + n ≤ 2 ^ 64 → dst + n ≤ 2 ^ 64 →
      overlaps src n d.dsts = [] → overlaps dst n (d.dsts ++ (src, n) :: d.srcs) = [] →
      ((∀ y ∈ transfersOf src dst d.byteOff n, stop y = none) →
        ∃ t, exec (.rillMove k) s = .next t ∧ moved t n
          ∧ desc t k.toNat = { d with delivered := d.delivered + 1, byteOff := 0, srcs := (src, n) :: d.srcs,
                                      dsts := (dst, n) :: d.dsts, marks := (d.pc, d.idx) :: d.marks, pc := d.pc + 1,
                                      ended := past, waitOk := false }
          ∧ t = { s with cmds := t.cmds, descs := t.descs, mem := t.mem, sent := t.sent })
      ∧ (∀ pre y post, transfersOf src dst d.byteOff n = pre ++ y :: post → (∀ z ∈ pre, stop z = none) →
        (stop y = some .window →
          ∃ t e, exec (.rillMove k) s = .next t ∧ moved t y.1 ∧ desc t k.toNat = { d with ended := true, byteOff := y.1 }
            ∧ cmd? t i = some e ∧ e.phase = .done ∧ e.status = .xlateFault ∧ e.d0 = k.toNat ∧ e.d1 = min d.delivered 0xFFFFFFFF
            ∧ t = { s with cmds := t.cmds, descs := t.descs, mem := t.mem, sent := t.sent })
        ∧ (∀ l, stop y = some (.lacking l) →
          ∃ t, exec (.rillMove k) s = .next t ∧ moved t y.1 ∧ desc t k.toNat = { d with byteOff := y.1 }
            ∧ (∀ p ∈ l, (sp, p) ∈ t.host.asked)
            ∧ t = { s with cmds := t.cmds, descs := t.descs, mem := t.mem, sent := t.sent,
                           host := { s.host with asked := t.host.asked } })))
    ∧ (Rolls s k.toNat 4 d → flushed c.use = true → valve s (insValve w) + 1 < 2 ^ 32 →
      ∃ t, exec (.rillPost ⟨k, false⟩) s = .next t ∧ valve t (insValve w) = valve s (insValve w) + 1
        ∧ (∀ v, v ≠ insValve w → valve t v = valve s v)
        ∧ desc t k.toNat = { d with pc := d.pc + 1, ended := past, waitOk := false }
        ∧ (∀ j, j ≠ k.toNat → desc t j = desc s j) ∧ OtherCmds s t i
        ∧ t = { s with cmds := t.cmds, descs := t.descs, valves := t.valves, mods := t.mods })
    ∧ (∀ joins, Rolls s k.toNat 4 d → flushed c.use = false →
      ∃ t, exec (.rillPost ⟨k, joins⟩) s = .next t ∧ OtherCmds s t i ∧ t = { s with cmds := t.cmds, sent := t.sent })
    ∧ (Rolls s k.toNat 5 d →
      let need := insValue w + if insIdxEn w then d.idx.getD (insD w) 0 else 0
      (d.waitOk = true ∨ need ≤ valve s (insValve w) → ∃ t, exec (.rillWait k) s = .next t
        ∧ desc t k.toNat = { d with pc := d.pc + 1, ended := past, waitOk := false }
        ∧ (∀ j, j ≠ k.toNat → desc t j = desc s j)
        ∧ OneCmd s t i (if past then c.endedWith okVerdict else c) ∧ t = { s with cmds := t.cmds, descs := t.descs })
      ∧ (d.waitOk = false → valve s (insValve w) < need → exec (.rillWait k) s = .next s))

/-- A STREAM_ARM of the descriptor's context, with an aligned readable program that passes the checks and a host path
where it needs one, starts a generation on an IDLE descriptor with nothing pending: GEN rises by one, the generation
is ACTIVE at instruction 0 with every index 0, and the arm waits. On an ACTIVE descriptor it becomes the pending arm.
PENDING_ARM_PROMOTE makes the pending arm the generation. A STREAM_CANCEL of the descriptor's context on a generation
with no pending arm, whose arm has not failed, stops it: its arm ends with ST_ABORTED, reason 5, and the cancel waits
with those before it; a page request the arm had outstanding leaves its tag. Every other descriptor is as it was. -/
def Obligations.streams_arm_and_cancel : Prop :=
  ∀ s : State, s.sup.halted = false →
    (∀ id c, Acts s id 0x18 c → let k := descNo c
      let d := desc s k
      let p := readWords s (spaceOf s c.ctx) (Pkt.addrA c.words) 64
      rd Reg.STREAM_DESC_CFG_CTX k s = c.ctx → d.pend = none → Pkt.addrA c.words % 64 = 0 →
      windowAllows s c.ctx (Pkt.addrA c.words) 256 false = true → programCheck s c.ctx p = none →
      (programHost c p = false ∨ s.host.st = .opened) →
      (d.st = .idle → d.promote = false → d.cmd = none → ∃ t e, exec (.streamArm id) s = .next t ∧ desc t k = e
        ∧ e.st = .active ∧ e.gen = (d.gen + 1) % 2 ^ 32 ∧ e.prog = p ∧ e.cmd = some id ∧ e.pc = 0
        ∧ e.idx = [0, 0, 0, 0, 0, 0] ∧ e.delivered = 0 ∧ e.byteOff = 0 ∧ e.ended = false
        ∧ (∀ j, j ≠ k → desc t j = desc s j) ∧ OtherCmds s t id
        ∧ t = { s with cmds := t.cmds, descs := t.descs, host := { s.host with order := s.host.order + 1 } })
      ∧ (d.st = .active → d.cmd ≠ some id → ∃ t, exec (.streamArm id) s = .next t
        ∧ desc t k = { d with pend := some (id, p) } ∧ (∀ j, j ≠ k → desc t j = desc s j) ∧ OtherCmds s t id
        ∧ t = { s with cmds := t.cmds, descs := t.descs }))
    ∧ (∀ (k : DescNo) id p c, let d := desc s k.toNat
      d.promote = true → d.pend = some (id, p) → cmd? s id = some c → descNo c = k.toNat →
      ∃ t e, exec (.pendingArmPromote k) s = .next t ∧ desc t k.toNat = e ∧ e.st = .active ∧ e.gen = (d.gen + 1) % 2 ^ 32
        ∧ e.prog = p ∧ e.cmd = some id ∧ e.pend = none ∧ e.promote = false ∧ e.pc = 0 ∧ e.idx = [0, 0, 0, 0, 0, 0]
        ∧ e.delivered = 0 ∧ (∀ j, j ≠ k.toNat → desc t j = desc s j) ∧ OtherCmds s t id
        ∧ t = { s with cmds := t.cmds, descs := t.descs, host := { s.host with order := s.host.order + 1 } })
    ∧ (∀ id c i a, Acts s id 0x19 c → let k := descNo c
      let d := desc s k
      rd Reg.STREAM_DESC_CFG_CTX k s = c.ctx → d.pend = none → d.cmd = some i → i ≠ id → cmd? s i = some a →
      id ∉ d.cancel → (a.phase ≠ .done ∨ a.status = .ok) →
      ∃ t, exec (.streamCancel id) s = .next t ∧ desc t k = { d with cancel := d.cancel ++ [id], ended := true }
        ∧ (∀ j, j ≠ k → desc t j = desc s j)
        ∧ cmd? t i = some { (a.endedWith (.aborted, 5, 0)) with use := { a.use with fault := none } }
        ∧ cmd? t id = some { c with phase := .running }
        ∧ ((∃ f ∈ a.use.fault, f.sent = true) → (a.gen, .cmd i) ∈ (ctx t a.ctx).tags)
        ∧ ((∀ f ∈ a.use.fault, f.sent = false) → t.ctxs = s.ctxs)
        ∧ (∀ j, j ≠ i → j ≠ id → cmd? t j = cmd? s j) ∧ t = { s with cmds := t.cmds, descs := t.descs, ctxs := t.ctxs })

/-- A COPY that acts and holds a rill engine, of n bytes inside the address space, whose source and destination do not
overlap and none of whose transfers leaves the context's windows or lacks a translation, ends with ST_OK; afterwards
byte i of the destination is byte i of the source as it was, for every i below n, and every byte of memory outside the
destination reads as before. It takes its place in the order in which generations become ACTIVE where it has none. One
that holds no engine, because 64 generations before it run, moves nothing and stays. No other command changes. -/
def Obligations.copy_moves_bytes : Prop :=
  ∀ (s : State) (id : Nat) (c : Cmd) (o : Option Nat), Acts s id 0x1A c → c.work = .copy 0 o →
    let n := Pkt.w9 c.words
    let src := Pkt.addrA c.words
    let dst := Pkt.addrB c.words
    let sp := spaceOf s c.ctx
    let at' := o.getD s.host.order
    (holdsEngine s at' = true → src + n ≤ 2 ^ 64 → dst + n ≤ 2 ^ 64 → (src + n ≤ dst ∨ dst + n ≤ src) →
      (∀ y ∈ transfersOf src dst 0 n, transferStop s c.ctx (src + y.1) (dst + y.1) y.2 = none) →
      ∃ t e, exec (.copy id) s = .next t ∧ cmd? t id = some e ∧ e.phase = .done ∧ e.status = .ok ∧ e.work = .copy n (some at')
        ∧ OtherCmds s t id
        ∧ (∀ i, i < n → readByte t.mem (memKey sp (dst + i)) = readByte s.mem (memKey sp (src + i)))
        ∧ MemKept s t (fun a => ∃ i, i < n ∧ a = memKey sp (dst + i))
        ∧ t = { s with cmds := t.cmds, mem := t.mem, sent := t.sent, host := { s.host with order := t.host.order } })
    ∧ (holdsEngine s at' = false → ∃ t, exec (.copy id) s = .next t
        ∧ OneCmd s t id { c with phase := .running, work := .copy 0 (some at') }
        ∧ t = { s with cmds := t.cmds, host := { s.host with order := t.host.order } })

/-- While the host enables page requests and none was answered Response Failure, a TRANSLATION_FAULT at a host address
that the cache does not allow, of a running command (other than a COPY or STREAM_ARM, which also keep how far they
came), stops it; within the limit of outstanding requests it sends one page request for the 4 KiB page in the
command's address space, and past it the fault waits. With page requests stopped or translation not enabled it ends
the command with ST_XLATE_FAULT naming the field. With no fault waiting, a Success response lets the command go on; a
Success that still lacks permission asks again while the retries last; Invalid Request, Response Failure and the time-
out end it with ST_XLATE_FAULT naming the field, Response Failure also stops page requests, and the time-out leaves
the request's tag. A translation completion puts its entry into the cache in place of one of the same space and page;
an invalidation removes the entries of the range and is counted, and its completion is sent once no read issued
through them is outstanding. -/
def Obligations.translation_faults : Prop :=
  ∀ s : State, s.sup.halted = false →
    (∀ id c (a : Dword) w site, cmd? s id = some c → c.op ≠ 0x18 → c.op ≠ 0x1A → c.use.fault = none → isChip a.toNat = false →
      (c.phase = .issued ∨ c.phase = .running ∨ c.phase = .reading) →
      let f : XFault := { addr := a.toNat, write := w, site := site, retries := 0, sent := true }
      (s.host.ats = true → translated s (spaceOf s c.ctx) a.toNat 1 w = false → rd Reg.PRI_STAT_STOPPED 0 s ≠ 1 →
        (prgRoom s = true → ∃ t, exec (.translationFault (.cmd id) a w site) s = .next t
          ∧ OneCmd s t id { c with use := { c.use with fault := some f } }
          ∧ t = { s with cmds := t.cmds, sent := .pageRequest (spaceOf s c.ctx) (a.toNat / 4096 * 4096) w :: s.sent })
        ∧ (prgRoom s = false → ∃ t, exec (.translationFault (.cmd id) a w site) s = .next t
          ∧ OneCmd s t id { c with use := { c.use with fault := some { f with sent := false } } } ∧ t = { s with cmds := t.cmds }))
      ∧ (c.phase ≠ .reading → (s.host.ats = false ∨ rd Reg.PRI_STAT_STOPPED 0 s = 1
            ∧ translated s (spaceOf s c.ctx) a.toNat 1 w = false) →
        ∃ t, exec (.translationFault (.cmd id) a w site) s = .next t
          ∧ OneCmd s t id (c.endedWith (.xlateFault, 0xFFFFFFFE, siteDetail site)) ∧ t = { s with cmds := t.cmds }))
    ∧ (∀ id c f, cmd? s id = some c → c.use.fault = some f → c.op ≠ 0x18 → c.op ≠ 0x1A → c.phase ≠ .reading → c.phase ≠ .done →
      (∀ d ∈ s.cmds, ∀ g ∈ d.use.fault, g.sent = true) →
      let e := { c with use := { c.use with fault := none } }
      let ended := e.endedWith (.xlateFault, 0xFFFFFFFE, siteDetail f.site)
      (∃ t, exec (.prgResponse (.cmd id) .success) s = .next t ∧ OneCmd s t id e ∧ t = { s with cmds := t.cmds })
      ∧ (f.retries < rd Reg.PRI_CFG_RETRY 0 s → ∃ t, exec (.prgResponse (.cmd id) .stillLacking) s = .next t
        ∧ OneCmd s t id { c with use := { c.use with fault := some { f with retries := f.retries + 1 } } }
        ∧ t = { s with cmds := t.cmds, sent := .pageRequest (spaceOf s c.ctx) (f.addr / 4096 * 4096) f.write :: s.sent })
      ∧ (rd Reg.PRI_CFG_RETRY 0 s ≤ f.retries → ∃ t, exec (.prgResponse (.cmd id) .stillLacking) s = .next t
        ∧ OneCmd s t id ended ∧ t = { s with cmds := t.cmds })
      ∧ (∃ t, exec (.prgResponse (.cmd id) .invalid) s = .next t ∧ OneCmd s t id ended ∧ t = { s with cmds := t.cmds })
      ∧ (∃ t, exec (.priTimeout (.cmd id)) s = .next t ∧ OneCmd s t id ended
        ∧ ctx t c.ctx = { ctx s c.ctx with tags := (c.gen, .cmd id) :: (ctx s c.ctx).tags }
        ∧ (∀ k, k ≠ c.ctx → ctx t k = ctx s k) ∧ t = { s with cmds := t.cmds, ctxs := t.ctxs })
      ∧ (∃ t, exec (.prgResponse (.cmd id) .failure) s = .next t ∧ OneCmd s t id ended
        ∧ rd Reg.PRI_STAT_STOPPED 0 t = 1 ∧ RegsKept s t [Reg.PRI_STAT_STOPPED.key 0]
        ∧ t = { s with cmds := t.cmds, regs := t.regs }))
    ∧ (∀ e : AtcEntry, ∃ t, exec (.atsTranslationCompletion e) s = .next t ∧ t.host.atc.head? = some e
        ∧ (∀ x ∈ t.host.atc, x = e ∨ x ∈ s.host.atc ∧ ¬ (x.space = e.space ∧ x.page = e.page)) ∧ t.host.atc.length ≤ 8192
        ∧ (∀ p, (e.space, p) ∈ t.host.asked → ¬ (e.page.toNat ≤ p ∧ p < e.page.toNat + e.size))
        ∧ t = { s with host := { s.host with atc := t.host.atc, asked := t.host.asked } })
    ∧ (∀ space (page : Dword) size, s.host.invals = [] → ∃ t, exec (.atsInvalidate space page size) s = .next t
        ∧ (∀ x, x ∈ t.host.atc ↔ x ∈ s.host.atc ∧ ¬ (x.space = space ∧ x.page.toNat < page.toNat + size
            ∧ page.toNat < x.page.toNat + x.size))
        ∧ ((∀ c ∈ s.cmds, spaceOf s c.ctx = space → readsIn c page.toNat size = 0) →
            t.sent = .invalidated space page.toNat size :: s.sent ∧ t.host.invals = [])
        ∧ ((∃ c ∈ s.cmds, spaceOf s c.ctx = space ∧ readsIn c page.toNat size ≠ 0) →
            t.sent = s.sent ∧ ∃ v, t.host.invals = [v] ∧ v.space = space ∧ v.page = page.toNat ∧ v.size = size)
        ∧ rd Reg.ATC_INVAL_CNT_COUNT 0 t = satAdd 32 (rd Reg.ATC_INVAL_CNT_COUNT 0 s) 1
        ∧ RegsKept s t [Reg.ATC_INVAL_CNT_COUNT.key 0]
        ∧ t = { s with regs := t.regs, sent := t.sent, host := { s.host with atc := t.host.atc, invals := t.host.invals } })

/-- While the sluice is OPEN, LINK_DOWN, HOSTPATH_STALL, HOST_RESET and a served write of CLOSE close it with CAUSE 1, 2,
3 and 4: it ends CLOSED under the same EPOCH with an empty translation cache, the closure is counted, every issued
command that has made or needs a host access is gone, and every ACTIVE queue whose command ring is a host address is
HELD; the tiers and units are as they were, and so is every context but for the tags its lost commands leave behind.
LINK_DOWN also takes the link down, and LINK_DOWN and HOST_RESET leave ATS and PRI not enabled. A cause that meets a
sluice that is not OPEN does no more than that. -/
def Obligations.sluice_closes : Prop :=
  ∀ s : State, s.sup.halted = false →
    let closes := fun (t : State) (cause : Nat) =>
      t.host.st = .closed ∧ t.host.cause = cause ∧ t.host.epoch = s.host.epoch ∧ t.host.atc = []
        ∧ rd Reg.HOSTPATH_CLOSE_CNT_COUNT 0 t = satAdd 32 (rd Reg.HOSTPATH_CLOSE_CNT_COUNT 0 s) 1
        ∧ (∀ c ∈ s.cmds, isIssued c = true → needsSluice s c = true → cmd? t c.id = none)
        ∧ (∀ q, (queue s q).st = .active → isChip (queue s q).base = false → (queue t q).st = .held)
        ∧ t.tiers = s.tiers ∧ (∀ k, { ctx t k with tags := (ctx s k).tags } = ctx s k) ∧ t.units = s.units
    (s.host.st = .opened →
      (∃ t, exec .linkDown s = .next t ∧ closes t 1 ∧ t.host.linkUp = false ∧ t.host.ats = false)
      ∧ (∃ t, exec .hostpathStall s = .next t ∧ closes t 2 ∧ t.host.linkUp = s.host.linkUp)
      ∧ (∃ t, exec .hostReset s = .next t ∧ closes t 3 ∧ t.host.linkUp = s.host.linkUp ∧ t.host.ats = false)
      ∧ (served s Reg.HOSTPATH_CTRL_CLOSE.off = true →
          ∃ t, exec .hostpathClose s = .next t ∧ closes t 4 ∧ t.host.linkUp = s.host.linkUp))
    ∧ (s.host.st ≠ .opened →
      exec .linkDown s = .next { s with host := { s.host.unenabled with linkUp := false } }
      ∧ exec .hostpathStall s = .next s ∧ exec .hostReset s = .next { s with host := s.host.unenabled })

/-- HC_LINK_UP, which shows what the host lets be outstanding of page requests, with power good opens a CLOSED sluice that
has not opened since power good or a chip reset, raising EPOCH only after a chip reset: no reply is held any more and
every HELD queue is ACTIVE; at any other time it only shows the link up. A served write of HOSTPATH_REATTACH is
accepted when the sluice is CLOSED, has opened before, the link is up and the value equals EPOCH: EPOCH rises by one
modulo 2^16, the sluice is OPEN, no reply is held any more, the translation cache is empty and no page is asked for,
page requests are allowed, no command keeps a fault, and every HELD queue is ACTIVE. Any other value, or a write at
another time, sets REATTACH_ERR and changes nothing else. -/
def Obligations.sluice_opens : Prop :=
  ∀ s : State, s.sup.halted = false →
    (∀ link, s.pins.pwrGood = true → s.host.fresh = true → s.host.st = .closed →
      ∃ t, exec (.hcLinkUp link) s = .next t ∧ t.host.linkUp = true ∧ t.host.cxl = link.cxl
        ∧ t.host.alloc = link.alloc.toNat ∧ t.host.st = .opened
        ∧ t.host.fresh = false ∧ t.host.afterReset = false
        ∧ t.host.epoch = (if s.host.afterReset then (s.host.epoch + 1) % 2 ^ 16 else s.host.epoch) ∧ t.host.held = []
        ∧ (∀ q, (queue s q).st = .held → (queue t q).st = .active) ∧ t.cmds = s.cmds ∧ t.ctxs = s.ctxs ∧ t.tiers = s.tiers)
    ∧ (∀ link, (s.pins.pwrGood = false ∨ s.host.fresh = false ∨ s.host.st ≠ .closed) →
      exec (.hcLinkUp link) s = .next { s with host := { s.host with linkUp := true, cxl := link.cxl, alloc := link.alloc.toNat } })
    ∧ (∀ (e : BitVec 16) pages, served s Reg.HOSTPATH_REATTACH_EPOCH.off = true →
      (s.host.st = .closed → s.host.fresh = false → s.host.linkUp = true → s.host.epoch = e.toNat →
        ∃ t, exec (.hostpathReattach e pages) s = .next t ∧ t.host.st = .opened ∧ t.host.epoch = (e.toNat + 1) % 2 ^ 16
          ∧ t.host.held = [] ∧ t.host.atc = [] ∧ t.host.asked = [] ∧ t.host.linkUp = true ∧ rd Reg.PRI_STAT_STOPPED 0 t = 0
          ∧ t.cmds = s.cmds.map (fun c => { c with use := { c.use with fault := none } })
          ∧ (∀ q, (queue s q).st = .held → (queue t q).st = .active) ∧ t.ctxs = s.ctxs ∧ t.tiers = s.tiers)
      ∧ ((s.host.st ≠ .closed ∨ s.host.fresh = true ∨ s.host.linkUp = false ∨ s.host.epoch ≠ e.toNat) →
        ∃ t, exec (.hostpathReattach e pages) s = .next t ∧ rd Reg.HOSTPATH_STAT_REATTACH_ERR 0 t = 1
          ∧ RegsKept s.accessed t [Reg.HOSTPATH_STAT_REATTACH_ERR.key 0] ∧ t = { s.accessed with regs := t.regs }))

/-- A CONTEXT_OPEN that acts on a FREE context, with a record free of faults, makes it OPEN: kind, partition, PASID, valve
range and windows from the record, GEN raised by one modulo 2^32, every valve of the range 0 and its late count 0; the
command ends with ST_OK and every other context is as it was. On a QUARANTINED context the command waits, and ends
with ST_DRAIN_TIMEOUT naming it when its wait is over. On an OPEN, CLOSING or RESETTING one it ends with
ST_VERSION_STATE naming the context and its state. -/
def Obligations.context_open : Prop :=
  ∀ (s : State) (id : Nat) (c : Cmd), Acts s id 0x28 c →
    let k := Pkt.target c.words
    let r := readWords s (spaceOf s 0) (Pkt.addrA c.words) 32
    ((ctx s k).st = .free → ctxFault s r = none →
      ∃ t x e, exec (.contextOpen id) s = .next t ∧ ctx t k = x ∧ x.st = .opened ∧ x.kind = Pkt.kind c.words
        ∧ x.part = field (wordAt r 0) 1 0 ∧ x.pasid = (if bit (wordAt r 1) 31 then some (field (wordAt r 1) 19 0) else none)
        ∧ x.valveBase = field (wordAt r 2) 15 0 ∧ x.valveCount = field (wordAt r 3) 16 0
        ∧ x.wins = (List.range 6).map (winOf r) ∧ x.gen = ((ctx s k).gen + 1) % 2 ^ 32
        ∧ (∀ j, j ≠ k → ctx t j = ctx s j)
        ∧ (∀ v, x.valveBase ≤ v → v < x.valveBase + x.valveCount → valve t v = 0)
        ∧ (∀ v, v < x.valveBase ∨ x.valveBase + x.valveCount ≤ v → valve t v = valve s v)
        ∧ rd Reg.CTX_LATE_CNT_COUNT k t = 0 ∧ RegsKept s t [Reg.CTX_LATE_CNT_COUNT.key k]
        ∧ cmd? t id = some e ∧ e.phase = .done ∧ e.status = .ok ∧ OtherCmds s t id
        ∧ t = { s with cmds := t.cmds, ctxs := t.ctxs, valves := t.valves, mods := [], regs := t.regs })
    ∧ ((ctx s k).st = .quarantined →
      (∃ t, exec (.contextOpen id) s = .next t ∧ OneCmd s t id { c with phase := .running } ∧ t = { s with cmds := t.cmds })
      ∧ (c.phase = .running → ∃ t, exec (.contextOpenWaitTimeout id) s = .next t
          ∧ OneCmd s t id (c.endedWith (.drainTimeout, k, 0)) ∧ t = { s with cmds := t.cmds }))
    ∧ (∀ n, (ctx s k).st = .opened ∧ n = 1 ∨ (ctx s k).st = .closing ∧ n = 2 ∨ (ctx s k).st = .resetting ∧ n = 4 →
      ∃ t, exec (.contextOpen id) s = .next t ∧ OneCmd s t id (c.endedWith (.versionState, k, n))
        ∧ t = { s with cmds := t.cmds })

/-- A CONTEXT_CLOSE issued for an OPEN context without commands quarantines it at once: its generation stands, each of its
queues that was neither DISABLED nor DRAINING is DISABLED with ENABLE cleared where every packet whose fetch had begun
has posted its reply, and FENCED otherwise; its backward records go and the command ends with ST_OK. For a FREE or
QUARANTINED context it ends with ST_OK and changes nothing else. At the drain deadline of a CLOSING context every
command of it ends; where the writes of all are flushed none is left. With none left the context is QUARANTINED and
its queues take no packet, DISABLED once all their replies are posted; until then it stays CLOSING. The end of the
quarantine makes it FREE without a valve range or PASID. Every other context is as it was. -/
def Obligations.context_close : Prop :=
  ∀ s : State, s.sup.halted = false →
    (∀ id c, Acts s id 0x29 c → let k := Pkt.target c.words
      ((ctx s k).st = .opened → c.phase = .issued → (∀ d ∈ s.cmds, d.ctx ≠ k) → Sparse.wf {} s.queues = true →
        ∃ t, exec (.contextClose id) s = .next t ∧ (ctx t k).st = .quarantined ∧ (ctx t k).gen = (ctx s k).gen
          ∧ (ctx t k).closer = none ∧ (∀ j, j ≠ k → ctx t j = ctx s j)
          ∧ (∀ q, (queue s q).cfg.ctx = k → (queue s q).st ≠ .disabled → (queue s q).st ≠ .draining →
              queue t q = if allPosted s q then { queue s q with st := .disabled, enable := false }
                          else { queue s q with st := .fenced })
          ∧ (∀ q, (queue s q).cfg.ctx ≠ k → queue t q = queue s q)
          ∧ t.lehr = s.lehr.filter (fun r => r.ctx != k) ∧ OneCmd s t id (c.endedWith okVerdict) ∧ t.mem = s.mem)
      ∧ ((ctx s k).st = .free ∨ (ctx s k).st = .quarantined → ∃ t, exec (.contextClose id) s = .next t
          ∧ OneCmd s t id (c.endedWith okVerdict) ∧ t = { s with cmds := t.cmds }))
    ∧ (∀ k : CtxNo, (ctx s k.toNat).st = .closing → Sparse.wf {} s.queues = true → s.CmdsOrdered →
        ∃ t, exec (.closeDrainDeadline k) s = .next t ∧ (ctx t k.toNat).gen = (ctx s k.toNat).gen
          ∧ (∀ d ∈ t.cmds, d.ctx = k.toNat → d.ended = true) ∧ (∀ j, j ≠ k.toNat → ctx t j = ctx s j)
          ∧ ((∀ d ∈ s.cmds, d.ctx = k.toNat → flushed d.use = true ∧ (d.ended = true → d.phase = .done ∧ d.work = .none)) →
              hasCmds t k.toNat = false)
          ∧ (hasCmds t k.toNat = true → (ctx t k.toNat).st = .closing)
          ∧ (hasCmds t k.toNat = false → (ctx t k.toNat).st = .quarantined ∧ QueuesEnd s t k.toNat))
    ∧ (∀ k : CtxNo, (ctx s k.toNat).st = .quarantined → ∃ t, exec (.quarantineEnd k) s = .next t
        ∧ ctx t k.toNat = { ctx s k.toNat with st := .free, valveBase := 0, valveCount := 0, pasid := none }
        ∧ (∀ j, j ≠ k.toNat → ctx t j = ctx s j) ∧ t = { s with ctxs := t.ctxs })

/-- A served CONTEXT_RESET of an OPEN context other than 0 ends every command of it; where the writes of all are flushed
none is left. With none left GEN is raised by one modulo 2^32, the context is OPEN with its kind, range, windows and
PASID, every valve of its range is 0, and its queues take no packet, DISABLED once all their replies are posted; until
then it is RESETTING under its old generation. Every other context is as it was. For context 0, or a context that is
not OPEN, the write changes nothing. -/
def Obligations.context_reset : Prop :=
  ∀ (s : State) (k : CtxNo) (j : Bool), Serves s 0x428 → let x := ctx s k.toNat
    (k.toNat ≠ 0 → x.st = .opened → Sparse.wf {} s.queues = true → s.CmdsOrdered → ∃ t, exec (.contextReset k j) s = .next t
      ∧ (∀ d ∈ t.cmds, d.ctx = k.toNat → d.ended = true)
      ∧ ((∀ d ∈ s.cmds, d.ctx = k.toNat → mayPost s d = true) → hasCmds t k.toNat = false)
      ∧ (hasCmds t k.toNat = true → (ctx t k.toNat).st = .resetting ∧ (ctx t k.toNat).gen = x.gen)
      ∧ (hasCmds t k.toNat = false →
          ctx t k.toNat = { x with gen := (x.gen + 1) % 2 ^ 32, closer := none, peers := [], halt := none,
                                   tags := (ctx t k.toNat).tags }
          ∧ (∀ v, x.valveBase ≤ v → v < x.valveBase + x.valveCount → valve t v = 0) ∧ QueuesEnd s t k.toNat)
      ∧ (∀ i, i ≠ k.toNat → ctx t i = ctx s i) ∧ t.tiers = s.tiers ∧ t.units = s.units)
    ∧ ((k.toNat = 0 ∨ x.st ≠ .opened) → exec (.contextReset k j) s = .next s.accessed)

/-- In READY a malformed abort frame changes only its counter. A well-formed one whose job names no OPEN context here is
counted and resets nothing. Otherwise, with ABORT_ACT on and the cap allowing rung 1, every command of each context it
names ends, and with none left the context is OPEN under its next generation, RESETTING until then, with the time of
the reset noted. A write of FABRIC_ABORT_SEND sends one frame of REASON 6 with the job to each peer whose abort queue
pair is connected and changes nothing else. A frame that could not be delivered writes one record of code 0x0033. -/
def Obligations.abort_frames : Prop :=
  ∀ s : State, s.sup.halted = false →
    (∀ m h, phaseOf s = 5 → abortOk m = false → ∃ t, exec (.abortFrameRx m h) s = .next t
      ∧ rd Reg.FABRIC_BAD_CNT_COUNT 0 t = satAdd 32 (rd Reg.FABRIC_BAD_CNT_COUNT 0 s) 1
      ∧ RegsKept s t [Reg.FABRIC_BAD_CNT_COUNT.key 0] ∧ t = { s with regs := t.regs })
    ∧ (∀ m h, phaseOf s = 5 → abortOk m = true → abortTargets s (msgWord m 2) h = [] →
      ∃ t, exec (.abortFrameRx m h) s = .next t
      ∧ rd Reg.FABRIC_RX_CNT_COUNT 0 t = satAdd 32 (rd Reg.FABRIC_RX_CNT_COUNT 0 s) 1
      ∧ RegsKept s t [Reg.FABRIC_RX_CNT_COUNT.key 0]
      ∧ t = { s with regs := t.regs, slices := t.slices, tables := t.tables,
                     remote := { s.remote with heldPushes := t.remote.heldPushes } })
    ∧ (∀ m h, phaseOf s = 5 → abortOk m = true → rd Reg.FABRIC_CFG_ABORT_ACT 0 s = 1 → overCap s 1 = false →
      Sparse.wf {} s.ctxs = true → s.CmdsOrdered →
      ∃ t, exec (.abortFrameRx m h) s = .next t ∧ ∀ k ∈ abortTargets s (msgWord m 2) h,
        (ctx t k).abortAt = some s.cycle ∧ (∀ d ∈ t.cmds, d.ctx = k → d.ended = true)
        ∧ (if hasCmds t k then (ctx t k).st = .resetting ∧ (ctx t k).gen = (ctx s k).gen
           else (ctx t k).st = .opened ∧ (ctx t k).gen = ((ctx s k).gen + 1) % 2 ^ 32))
    ∧ (∀ job : Word, served s 0x2074 = true → ∃ t, exec (.fabricAbortSend job) s = .next t
      ∧ t.sent = ((connectedPeers s).map fun p => Out.abort p (abortBytes s 6 job.toNat 0xFF 0 0xFFFFFFFF)).reverse ++ s.sent
      ∧ t = { s.accessed with sent := t.sent })
    ∧ (∀ (p : ChipNo) (r : Byte) (k : CtxNo), ∃ t, exec (.abortTxFail p r k) s = .next t
      ∧ LogsOne s t 0x0033 0 (if r = 6#8 then none else some k.toNat) 0 (p.toNat + r.toNat * 2 ^ 16) ∧ t = s.logged t)

/-- A served write of a LAYOUT of 0 to 4 while every context other than 0 is FREE makes it the layout and changes no other
register; a reserved value, or a write while another context is not FREE, keeps the layout and sets CFG_ERR. LAYOUT
resets to 0. Layouts 0 to 4 give the partitions of Table 3. -/
def Obligations.partition_layout : Prop :=
  (∀ (s : State) (v : BitVec 4), Serves s 0x430 →
    (v.toNat ≤ 4 → (∀ e ∈ s.ctxs, e.1 = 0 ∨ e.2.st = .free) → ∃ t, exec (.partLayoutWrite v) s = .next t
      ∧ rd Reg.PART_CFG_LAYOUT 0 t = v.toNat ∧ RegsKept s.accessed t [Reg.PART_CFG_LAYOUT.key 0]
      ∧ t = { s.accessed with regs := t.regs })
    ∧ ((4 < v.toNat ∨ ∃ e ∈ s.ctxs, e.1 ≠ 0 ∧ e.2.st ≠ .free) → ∃ t, exec (.partLayoutWrite v) s = .next t
      ∧ rd Reg.PART_STAT_CFG_ERR 0 t = 1 ∧ RegsKept s.accessed t [Reg.PART_STAT_CFG_ERR.key 0]
      ∧ t = { s.accessed with regs := t.regs }))
  ∧ rd Reg.PART_CFG_LAYOUT 0 State.reset = 0
  ∧ partitions 0 = [(0, 16)] ∧ partitions 1 = [(0, 8), (8, 8)] ∧ partitions 2 = [(0, 4), (4, 4), (8, 4), (12, 4)]
  ∧ partitions 3 = [(0, 8), (8, 4), (12, 4)] ∧ partitions 4 = [(0, 4), (4, 4), (8, 8)]

/-- TABLE_DEFINE of an undefined table whose descriptor, shard map and matrix B (of an adapter table) are readable and
sound, and whose B fits in the free granules, defines it with the descriptor, the shards and version 0 LOADING with
that B, its committed step 0 and no delta; where it keeps a delta pool and the overlay has no room (an open choice of
the part, log entry 3), or B does not fit, it ends with ST_NO_SPACE instead. VERSION_OPEN of a versioned table the
context trains, with a published version and no working one, adds the next number WORKING, under the same open choice.
TABLE_PUBLISH waits where its version may be published. At the publish point a LOADING version becomes WORKING for a
trained unversioned table and PUBLISHED otherwise; a WORKING version becomes PUBLISHED, the former published one
SUPERSEDED and the next number WORKING. TABLE_RETIRE of a version that may go makes it RETIRING and waits;
VERSION_FREE of a RETIRING version without commands in flight removes it, and the table with its last version, and
ends the waiting retires. No other table changes. -/
def Obligations.tables_and_versions : Prop :=
  ∀ s : State, s.sup.halted = false →
    (∀ id c, Acts s id 0x10 c → let n := Pkt.table c.words
      let sp := spaceOf s c.ctx
      let ws := wordsOf 32 (readMem s sp (Pkt.addrA c.words) 128)
      let d := descOf ws
      let es := (List.range d.shards).map fun k => wordsOf 4 ((readMem s sp (addr64 ws 6) (16 * d.shards)).drop (16 * k))
      let b := if d.adapter then bMatOf d (readMem s sp d.bAddr d.bBytes) else {}
      let pooled := d.trainEn && d.versioned
      (table s n).vers = [] → CanRead s c (Pkt.addrA c.words) 128 → descOffence s ws = none →
      CanRead s c (addr64 ws 6) (16 * d.shards) → mapCheck s d es = none → (d.adapter = true → CanRead s c d.bAddr d.bBytes) →
      ∃ t e, exec (.tableDefine id) s = .next t ∧ cmd? t id = some e ∧ e.phase = .done
        ∧ (d.granules ≤ freeGranules s → pooled = false ∨ Config.overlayShort s.freeCtr = 0 → e.status = .ok
          ∧ (table t n).desc = d ∧ (table t n).shards = es.map shardOf
          ∧ (table t n).vers.map (fun v => (v.num, v.st, v.b)) = [(0, .loading, b)] ∧ (table t n).step = 0 ∧ (table t n).delta = []
          ∧ (table t n).gradExp = (if d.actFmt ≤ 1 then 0 else d.gradExp))
        ∧ (d.granules ≤ freeGranules s → pooled = true → Config.overlayShort s.freeCtr ≠ 0 →
          e.status = .noSpace ∧ e.d0 = 0x11 ∧ e.d1 = Config.overlayShort s.freeCtr ∧ table t n = table s n)
        ∧ (freeGranules s < d.granules →
          e.status = .noSpace ∧ e.d0 = 0x21 ∧ e.d1 = 64 * (d.granules - freeGranules s) ∧ table t n = table s n)
        ∧ (∀ m, m ≠ n → table t m = table s m) ∧ OtherCmds s t id
        ∧ t = { s with cmds := t.cmds, tables := t.tables, freeCtr := t.freeCtr })
    ∧ (∀ id c p, Acts s id 0x11 c → let n := Pkt.table c.words
      openRefusal s c.ctx n = none → (table s n).published = some p →
      ∃ t, exec (.versionOpen id) s = .next t
        ∧ (Config.overlayShort s.freeCtr = 0 → OneCmd s t id (c.endedWith okVerdict)
          ∧ (table t n).vers = (table s n).vers ++ [{ num := p.num + 1, st := .working, b := p.b }])
        ∧ (Config.overlayShort s.freeCtr ≠ 0 → (table t n).vers = (table s n).vers
          ∧ OneCmd s t id (c.endedWith (.noSpace, 0x11, Config.overlayShort s.freeCtr)))
        ∧ (∀ m, m ≠ n → table t m = table s m)
        ∧ t = { s with cmds := t.cmds, tables := t.tables, freeCtr := s.freeCtr + 1 })
    ∧ (∀ id c, Acts s id 0x12 c → publishWaits (table s (Pkt.table c.words)) (Pkt.w9 c.words) = true →
      ∃ t, exec (.tablePublish id) s = .next t ∧ OneCmd s t id { c with phase := .running } ∧ t = { s with cmds := t.cmds })
    ∧ (∀ id c x, Acts s id 0x12 c → c.phase = .running → publishHeld s c = false →
      let n := Pkt.table c.words
      let v := Pkt.w9 c.words
      let stOf := fun (u : State) (w : Nat) => ((table u n).version? w).map (·.st)
      publishRefusal (table s n) v = none → (table s n).version? v = some x →
      (x.st = .loading → ∃ t, exec (.publishTakesEffect id) s = .next t
        ∧ stOf t v = some (if (table s n).desc.trainEn && !(table s n).desc.versioned then .working else .published)
        ∧ (∀ w, w ≠ v → stOf t w = stOf s w) ∧ (∀ m, m ≠ n → table t m = table s m)
        ∧ OneCmd s t id (c.endedWith okVerdict) ∧ t = { s with cmds := t.cmds, tables := t.tables })
      ∧ (x.st = .working → (table s n).version? (v + 1) = none →
        ∃ t e, exec (.publishTakesEffect id) s = .next t ∧ stOf t v = some .published ∧ stOf t (v + 1) = some .working
        ∧ (∀ w, w ≠ v → w ≠ v + 1 → stOf t w = (stOf s w).map fun y => if y = .published then .superseded else y)
        ∧ (∀ m, m ≠ n → table t m = table s m) ∧ cmd? t id = some e ∧ e.phase = .done ∧ e.status = .ok
        ∧ t.mem = s.mem ∧ t.valves = s.valves))
    ∧ (∀ id c, Acts s id 0x13 c → let n := Pkt.table c.words
      let v := Pkt.w9 c.words
      retireOk (table s n) v = true → (∀ x ∈ (table s n).vers, id ∉ x.retires) →
      ∃ t, exec (.tableRetire id) s = .next t
        ∧ (table t n).version? v = ((table s n).version? v).map (fun x => { x with st := .retiring, retires := x.retires ++ [id] })
        ∧ (∀ w, w ≠ v → (table t n).version? w = (table s n).version? w) ∧ (∀ m, m ≠ n → table t m = table s m)
        ∧ OneCmd s t id { c with phase := .running } ∧ t = { s with cmds := t.cmds, tables := t.tables })
    ∧ (∀ (n : TableNo) (v : Word) x, (table s n.toNat).version? v.toNat = some x → x.st = .retiring → x.inflight = 0 →
      ∃ t, exec (.versionFree n v) s = .next t ∧ (table t n.toNat).version? v.toNat = none
        ∧ ((table s n.toNat).vers.length ≤ 1 → (table t n.toNat).vers = [])
        ∧ (1 < (table s n.toNat).vers.length → (table t n.toNat).vers = (table s n.toNat).vers.filter fun y => y.num != v.toNat)
        ∧ (∀ m, m ≠ n.toNat → table t m = table s m)
        ∧ (∀ i ∈ x.retires, ∀ e, cmd? t i = some e → e.phase = .done ∧ e.status = .ok))

/-- A TABLE_LOAD of a LOADING version, not held by an earlier publish, whose rows are all stored here in reachable DRAM,
do not move and have no older write waiting, and whose source the windows allow, leaves in the tiers each row's bytes
of memory at its home, in row order, and ends with ST_OK; a row whose home is another tier, or moves, goes to its
slice's cullet buffer or hold area with those bytes, where there is room. A TABLE_SAVE of a row its slice does not
hold starts one fetch of it and waits; of one it holds whole, or that has come, it stores the row's bytes at its place
of the destination and ends with ST_OK. With FIRST_ROW all ones they move the matrix B with its state. A FOLD of the
first delta row the base has reached only drops a row that a newer entry overtakes; one whose content is known it
writes to its home in reachable DRAM, and frees its slot; to another home it sends the content down, and the slot
stays until that write completes. No other table changes. -/
def Obligations.tables_move_rows : Prop :=
  ∀ s : State, s.sup.halted = false →
    (∀ id c, Acts s id 0x14 c → let n := Pkt.table c.words
      let d := (table s n).desc
      let sp := spaceOf s c.ctx
      let a := Pkt.addrA c.words
      let first := Pkt.addrC c.words
      let dram := fun (r : Nat) => (homeNow s n r).tier = 1 ∨ (homeNow s n r).tier = 2
      loadHeld s c = false → (table s n).stateCode (Pkt.w9 c.words) = 1 → (rowsOf c).intake = false →
      (movesB c = false →
        (∀ i, i < wordAt c.words 10 → localRow (table s n) (first + i) = true ∧ isMoving s n (first + i) = false
          ∧ windowAllows s c.ctx (a + i * d.stride) d.stride false = true ∧ reach s (homeNow s n (first + i)) d.stride = .ok
          ∧ dram (first + i) ∧ rowWrites (slice s (cmdSlice s c (first + i))) n (first + i) = false) →
        ∃ t, exec (.tableLoad id) s = .next t ∧ EndsOk s t id
          ∧ t.tiers = ((List.range (wordAt c.words 10)).foldl (fun u i =>
              writeTier (homeNow s n (first + i)) (readMem s sp (a + i * d.stride) d.stride) u) s).tiers
          ∧ t = { s with cmds := t.cmds, tiers := t.tiers, waits := t.waits })
      ∧ (movesB c = false → wordAt c.words 10 = 1 → localRow (table s n) first = true →
        windowAllows s c.ctx a d.stride false = true →
        (isMoving s n first = true ∨ ¬ dram first ∧ reach s (homeNow s n first) d.stride = .ok) →
        let sl := cmdSlice s c first
        let new : Copy := { table := n, row := first, bytes := readMem s sp a d.stride }
        ∃ t, exec (.tableLoad id) s = .next t ∧ t.tiers = s.tiers ∧ t.tables = s.tables ∧ t.mem = s.mem ∧ OtherCmds s t id
          ∧ ((∃ e ∈ (slice t sl).cullet ++ (slice t sl).hold, e.copy = new) ∧ EndsOk s t id
            ∨ t.slices = s.slices ∧ ∃ e, cmd? t id = some e ∧ e.phase = .running ∧ (rowsOf e).rows = [0]))
      ∧ (movesB c = true → windowAllows s c.ctx a d.bBytes false = true →
        ∃ t, exec (.tableLoad id) s = .next t ∧ EndsOk s t id
          ∧ (∀ x, (table t n).version? (Pkt.w9 c.words) = some x → x.b = bMatOf d (readMem s sp a d.bBytes))
          ∧ (∀ w, w ≠ Pkt.w9 c.words → (table t n).version? w = (table s n).version? w)
          ∧ (∀ m, m ≠ n → table t m = table s m) ∧ t = { s with cmds := t.cmds, tables := t.tables }))
    ∧ (∀ id c bs, Acts s id 0x15 c → let n := Pkt.table c.words
      let d := (table s n).desc
      let sp := spaceOf s c.ctx
      let a := Pkt.addrA c.words
      let row := Pkt.addrC c.words
      let sl := cmdSlice s c row
      let ver := Pkt.w9 c.words
      c.snaps ≠ [] →
      (movesB c = false → wordAt c.words 10 = 1 → localRow (table s n) row = true → windowAllows s c.ctx a bs.length true = true →
        ((rowsOf c).intake = false → row ∉ c.asked → gotOf c row = none →
          (findSpot s (slice s sl) n row ver = none → joinable s sl n row ver = none →
            reach s (rowPlace s n ver row) d.stride = .ok →
            ∃ t e, exec (.tableSave id) s = .next t ∧ StartsFetch s t id sl n row ver .none ∧ cmd? t id = some e ∧ e.phase = .running
              ∧ (rowsOf e).rows = [row] ∧ row ∈ e.asked ∧ OtherCmds s t id ∧ t.slices = s.slices
              ∧ (rdb Reg.SKIM_TABLE_CFG_TRACK n s = false → t.mem = s.mem))
          ∧ (∀ k cp, findSpot s (slice s sl) n row ver = some (.punty k) → copyAt (slice s sl) (.punty k) = some cp →
            cp.fails s everyTile = false → cp.bytes = bs →
            ∃ t, exec (.tableSave id) s = .next t ∧ EndsOk s t id ∧ t.mem = writeKeys s.mem (memKey sp a) bs
              ∧ t = { s with cmds := t.cmds, mem := t.mem, sent := t.sent, regs := t.regs, waits := t.waits }))
        ∧ ((rowsOf c).intake = true → (rowsOf c).rows = [row] → row ∈ c.asked → gotOf c row = some ⟨row, some bs⟩ →
          ∃ t, exec (.tableSave id) s = .next t ∧ EndsOk s t id ∧ t.mem = writeKeys s.mem (memKey sp a) bs
            ∧ t = { s with cmds := t.cmds, mem := t.mem, sent := t.sent }))
      ∧ (movesB c = true → bs = bMatBytes d ((((table s n).version? ver).map (·.b)).getD {}) →
        windowAllows s c.ctx a bs.length true = true →
        ∃ t, exec (.tableSave id) s = .next t ∧ EndsOk s t id
          ∧ t.mem = writeKeys s.mem (memKey sp a) bs ∧ t = { s with cmds := t.cmds, mem := t.mem, sent := t.sent }))
    ∧ (∀ (n : TableNo) d ds ecc, (table s n.toNat).toFold = d :: ds →
      ((table s n.toNat).overtaken d = true → ∃ t, exec (.fold ⟨n, ecc⟩) s = .next t
        ∧ (table t n.toNat).delta = (table s n.toNat).delta.filter (fun e => decide (e ≠ d)) ∧ t.tiers = s.tiers
        ∧ (∀ m, m ≠ n.toNat → table t m = table s m) ∧ t = { s with tables := t.tables, slices := t.slices, waits := t.waits })
      ∧ (∀ z bs, (table s n.toNat).overtaken d = false → foldSent s n.toNat d = false →
        foldContent n.toNat d ecc (checkFold n.toNat d s) = (z, some bs) → overSlices s (foldEntry n.toNat d ecc s).1 = [] →
        let p := homeNow z n.toNat d.row
        let direct := isMoving z n.toNat d.row = false ∧ (p.tier = 1 ∨ p.tier = 2) ∧ foldWaits z n.toNat d.row = false
        (direct → reach z p bs.length = .ok → ∃ t, exec (.fold ⟨n, ecc⟩) s = .next t
          ∧ (table t n.toNat).delta = (table z n.toNat).delta.filter (fun e => !(e.row == d.row && e.version == d.version))
          ∧ t.tiers = (writeTier p bs z).tiers ∧ (∀ m, m ≠ n.toNat → table t m = table z m) ∧ t.cmds = z.cmds ∧ t.mem = z.mem)
        ∧ (¬ direct → ∃ t, exec (.fold ⟨n, ecc⟩) s = .next t ∧ t.tables = z.tables ∧ t.tiers = z.tiers ∧ t.cmds = z.cmds ∧ t.mem = z.mem
          ∧ ∃ e ∈ (slice t (foldSlice z n.toNat d.row)).cullet ++ (slice t (foldSlice z n.toNat d.row)).hold,
              e.home = true ∧ e.copy.isId n.toNat d.row d.version = true ∧ e.copy.bytes = bs)))

/-- With identifiers that can be read, at the first run: a ZERO_ROWS adds its local rows, each once, to the rows its table
zeroes at the next commit, and of a table without adapter it then waits. A PREFETCH of no cacheable row ends with
ST_OK; of one row that its home slice does not hold, no fetch brings and its place can give, it starts one fetch of it
into the gob buffer and waits for it. A PIN_ROWS of a row already pinned adds the owner and ends with ST_OK; of a row
that no structure of its home slice holds it fetches the row and waits; of a row held by a copy that passes its
checks, or that has come, and with room, it adds a punty entry with that content, owned by the context, and ends with
ST_OK. An UNPIN of rows that hold no pin of the context's kind ends with ST_OK; of one pinned row it removes the entry
and ends with ST_OK, or waits for room in the cullet buffer with nothing changed. Dropped identifiers are counted. -/
def Obligations.row_batches : Prop :=
  ∀ s : State, s.sup.halted = false → ∀ id c xs, readIds s c = .ok xs →
    let n := Pkt.table c.words
    let gone := dropReasons xs
    let counted := fun (t : State) =>
      rd Reg.TBL_PAD_CNT_COUNT n t = satAdd 32 (rd Reg.TBL_PAD_CNT_COUNT n s) (gone.filter (· == 0)).length
      ∧ rd Reg.TBL_INVALID_CNT_COUNT n t = satAdd 32 (rd Reg.TBL_INVALID_CNT_COUNT n s) (gone.filter (· == 1)).length
      ∧ rd Reg.TBL_MISSING_CNT_COUNT n t = satAdd 32 (rd Reg.TBL_MISSING_CNT_COUNT n s) (gone.filter (· == 2)).length
    let ver := batchVer c
    let train := trains s n c.ctx
    (Acts s id 0x05 c → (rowsOf c).intake = false → ∃ t e, exec (.zeroRows id) s = .next t ∧ cmd? t id = some e
      ∧ (table t n).zero = (table s n).zero ++ [{ cmd := id, rows := hereRows xs }] ∧ counted t ∧ OtherCmds s t id
      ∧ (∀ m, m ≠ n → table t m = table s m) ∧ (rdb Reg.SKIM_TABLE_CFG_TRACK n s = false → t.mem = s.mem)
      ∧ ((table s n).desc.adapter = false →
          e.phase = .running ∧ (rowsOf e).rows = hereRows xs ∧ (rowsOf e).dropped = gone.length ∧ t.tiers = s.tiers))
    ∧ (Acts s id 0x06 c → (rowsOf c).intake = false →
      ((hereRows xs = [] ∨ bypasses s n = true) → ∃ t, exec (.prefetch id) s = .next t ∧ EndsOk s t id ∧ counted t
        ∧ t = { s with cmds := t.cmds, regs := t.regs })
      ∧ (∀ row, hereRows xs = [row] → bypasses s n = false →
        let sl := homeSlice s c.ctx (homeOf row)
        findSpot s (slice s sl) n row ver = none → joinable s sl n row ver = none →
        reach s (rowPlace s n ver row) (table s n).desc.stride = .ok →
        ∃ t e, exec (.prefetch id) s = .next t ∧ StartsFetch s t id sl n row ver .gob ∧ cmd? t id = some e ∧ e.phase = .running
          ∧ (rowsOf e).rows = [row] ∧ OtherCmds s t id ∧ t.tables = s.tables ∧ t.slices = s.slices ∧ t.tiers = s.tiers))
    ∧ (Acts s id 0x07 c → Pkt.unpin c.words = false → (rowsOf c).intake = false → ∀ row, hereRows xs = [row] →
      let sl := homeSlice s c.ctx (homeOf row)
      gotOf c row = none → row ∉ c.asked →
      (∀ i p, pinIdx (slice s sl) train n row = some i → (slice s sl).punty[i]? = some p →
        ∃ t q, exec (.pinRows id) s = .next t ∧ EndsOk s t id ∧ (slice t sl).punty[i]? = some q
          ∧ q = { p with owners := if c.ctx ∈ p.owners then p.owners else p.owners ++ [c.ctx] } ∧ counted t
          ∧ t = { s with cmds := t.cmds, slices := t.slices, regs := t.regs, waits := t.waits })
      ∧ (pinIdx (slice s sl) train n row = none → maxOf (pinShort c train [row] s) = 0 →
        (findSpot s (slice s sl) n row ver = none → joinable s sl n row ver = none →
          reach s (rowPlace s n ver row) (table s n).desc.stride = .ok →
          ∃ t e, exec (.pinRows id) s = .next t ∧ StartsFetch s t id sl n row ver .none ∧ cmd? t id = some e ∧ e.phase = .running
            ∧ (rowsOf e).rows = [row] ∧ row ∈ e.asked ∧ counted t ∧ OtherCmds s t id ∧ t.slices = s.slices)
        ∧ (∀ sp cp, findSpot s (slice s sl) n row ver = some sp → copyAt (slice s sl) sp = some cp → cp.fails s everyTile = false →
          ∃ t q, exec (.pinRows id) s = .next t ∧ EndsOk s t id
            ∧ slice t sl = { slice (takeSpot sl sp s).1 sl with punty := (slice s sl).punty ++ [q] }
            ∧ q.copy = cp ∧ q.train = train ∧ q.dirty = (takeSpot sl sp s).2 ∧ q.owners = [c.ctx] ∧ counted t
            ∧ (∀ j, j ≠ sl → slice t j = slice s j)
            ∧ t = { s with cmds := t.cmds, slices := t.slices, regs := t.regs, waits := t.waits })))
    ∧ (Acts s id 0x07 c → Pkt.unpin c.words = false → (rowsOf c).intake = true → ∀ row bs, (rowsOf c).rows = [row] →
      let sl := homeSlice s c.ctx (homeOf row)
      gotOf c row = some ⟨row, some bs⟩ → row ∈ c.asked → pinIdx (slice s sl) train n row = none →
      findSpot s (slice s sl) n row ver = none → maxOf (pinShort c train [row] s) = 0 →
      ∃ t q, exec (.pinRows id) s = .next t ∧ EndsOk s t id ∧ (slice t sl).punty = (slice s sl).punty ++ [q]
        ∧ q.copy.table = n ∧ q.copy.row = row ∧ q.copy.bytes = bs ∧ q.train = train ∧ q.dirty = false ∧ q.owners = [c.ctx]
        ∧ (∀ j, j ≠ sl → slice t j = slice s j) ∧ t = { s with cmds := t.cmds, slices := t.slices, waits := t.waits })
    ∧ (Acts s id 0x07 c → Pkt.unpin c.words = true → (rowsOf c).intake = false →
      ((∀ r ∈ hereRows xs, pinIdx (slice s (homeSlice s c.ctx (homeOf r))) train n r = none) →
        ∃ t, exec (.unpin id) s = .next t ∧ EndsOk s t id ∧ counted t ∧ t = { s with cmds := t.cmds, regs := t.regs })
      ∧ (∀ row i p, hereRows xs = [row] → let sl := homeSlice s c.ctx (homeOf row)
        pinIdx (slice s sl) train n row = some i → (slice s sl).punty[i]? = some p →
        ∃ t e, exec (.unpin id) s = .next t ∧ counted t ∧ cmd? t id = some e ∧ t.tables = s.tables ∧ t.mem = s.mem
          ∧ ((slice t sl).punty = (slice s sl).punty.eraseIdx i ∧ e.phase = .done ∧ e.status = .ok
            ∨ t.slices = s.slices ∧ e.phase = .running ∧ (rowsOf e).rows = [row])
          ∧ (p.pend = [] → p.dirty = false → bypasses s n = true → EndsOk s t id ∧ (∀ j, j ≠ sl → slice t j = slice s j)
            ∧ t = { s with cmds := t.cmds, slices := t.slices, regs := t.regs, waits := t.waits })))

/-- A served write of APPLY whose granules do not fit in 384 sets CFG_ERR and changes nothing else; otherwise it sets
APPLY_BUSY, and with no geometry changed nothing more. BASIN_APPLY_DONE while APPLY_BUSY clears it and installs the
written geometry of every class once no changed class has a row left; until then APPLY_BUSY and the geometry stand. A
served write of FLUSH sets FLUSH_BUSY and notes every copy dirty now; BASIN_FLUSH_DONE with nothing left to write
clears FLUSH_BUSY, and without FLUSH_BUSY it changes nothing. WRITEBACK_COMPLETE of an issued cullet entry whose tier
can be reached, with no other write waiting in the slices, writes the row there and frees the entry; where it was the
home write of a fold, the row's delta slot is free. An entry whose content has become void writes nothing. -/
def Obligations.basin_control : Prop :=
  ∀ s : State, s.sup.halted = false →
    (served s Reg.BASIN_CTRL_APPLY.off = true →
      (384 < applySum s → ∃ t, exec .basinApply s = .next t ∧ rd Reg.BASIN_STAT_CFG_ERR 0 t = 1
        ∧ RegsKept s.accessed t [Reg.BASIN_STAT_CFG_ERR.key 0] ∧ t = { s.accessed with regs := t.regs })
      ∧ (applySum s ≤ 384 → ∃ t, exec .basinApply s = .next t ∧ rd Reg.BASIN_STAT_APPLY_BUSY 0 t = 1)
      ∧ (applySum s ≤ 384 → changedClasses s = [] → ∃ t, exec .basinApply s = .next t
        ∧ rd Reg.BASIN_STAT_APPLY_BUSY 0 t = 1 ∧ RegsKept s.accessed t [Reg.BASIN_STAT_APPLY_BUSY.key 0]
        ∧ t = { s.accessed with regs := t.regs }))
    ∧ (rd Reg.BASIN_STAT_APPLY_BUSY 0 s = 1 → let u := clearChanged s
        ∃ t, exec .basinApplyDone s = .next t ∧ t.tables = s.tables ∧ t.mem = s.mem
        ∧ ((changedClasses u).all (classClear u) = true → rd Reg.BASIN_STAT_APPLY_BUSY 0 t = 0
          ∧ (∀ k, k < 16 → geomOf t k = cfgGeom s k) ∧ t.place.granules = rd Reg.PLACE_CFG_CACHE_GRANULES 0 s)
        ∧ ((changedClasses u).all (classClear u) = false → rd Reg.BASIN_STAT_APPLY_BUSY 0 t = 1 ∧ t.geom = s.geom))
    ∧ (served s Reg.BASIN_CTRL_FLUSH.off = true → ∃ t, exec .basinFlush s = .next t
        ∧ rd Reg.BASIN_STAT_FLUSH_BUSY 0 t = 1 ∧ (∀ d, d ∈ t.flushing ↔ d ∈ s.flushing ∨ d ∈ dirtyIds s)
        ∧ RegsKept s.accessed t [Reg.BASIN_STAT_FLUSH_BUSY.key 0]
        ∧ t = { s.accessed with regs := t.regs, flushing := t.flushing })
    ∧ (rd Reg.BASIN_STAT_FLUSH_BUSY 0 s = 1 → s.flushing = [] → ∃ t, exec .basinFlushDone s = .next t
        ∧ rd Reg.BASIN_STAT_FLUSH_BUSY 0 t = 0 ∧ RegsKept s t [Reg.BASIN_STAT_FLUSH_BUSY.key 0] ∧ t = { s with regs := t.regs })
    ∧ (rd Reg.BASIN_STAT_FLUSH_BUSY 0 s ≠ 1 → exec .basinFlushDone s = .next s)
    ∧ (∀ (sl : BitVec 5) (n : TableNo) (row : BitVec 40) i e, doneCull (slice s sl.toNat).cullet n.toNat row.toNat = some i →
        (slice s sl.toNat).cullet[i]? = some e → reach s e.place e.copy.bytes.length = .ok → s.refills = [] →
        (∀ k, (slice s k).hold = [] ∧ (slice s k).kept = [] ∧ (k ≠ sl.toNat → (slice s k).cullet = [])) →
        (slice s sl.toNat).cullet.length = 1 →
        ∃ t, exec (.writebackComplete sl n row) s = .next t ∧ (slice t sl.toNat).cullet = []
          ∧ t.tiers = (if e.dropped then s else writeTier e.place e.copy.bytes s).tiers ∧ t.cmds = s.cmds ∧ t.mem = s.mem
          ∧ (e.home = false → (∀ k, k ≠ sl.toNat → slice t k = slice s k)
            ∧ t = { s with slices := t.slices, tiers := t.tiers, flushing := t.flushing })
          ∧ (e.home = true → e.dropped = false → ∀ d ∈ (table t n.toNat).delta, d.row = row.toNat → d.version = e.copy.lo →
            (table s n.toNat).baseNum < d.version))

/-- A ROW_MIGRATE that has reserved nothing yet, of one local row without a placement entry, its set not full: to a pool
with a free slot it reserves an entry that waits to move there for the command, which waits; to a pool without one it
ends with ST_NO_SPACE 0x31 and the KiB short; to tier 0 it ends with ST_OK. MOVE_START of a row whose move may run
makes it MOVING, and with a write to its home outstanding it does no more. Otherwise a row in flash is first read by
an NVMe command; one that is read without fault is copied to its new slot (not in flash) and its copy marked complete;
one of which a tile fails for the first time is to be read once more. MIGRATION_EPOCH raises EPOCH by one, modulo
2^32; with one complete copy that no further move follows, that row stands at its new place, or loses its entry for
tier 0, and no other entry changes. SKIM_WINDOW_END sets the threshold of the next window, halves every sketch
counter, keeps the window's load and starts a new one; outside MODE 2 no entry changes. A served write of MODE 0 to 2
sets it and returns H to 256. PLACE_ROW_LOOKUP shows the row's state. -/
def Obligations.placement_and_skimmer : Prop :=
  ∀ s : State, s.sup.halted = false →
    (∀ id c xs row, Acts s id 0x08 c → (rowsOf c).intake = false → (rowsOf c).reserved = false → c.status = .ok → readIds s c = .ok xs → hereRows xs = [row] →
      remoteRows xs = [] → dropReasons xs = [] → let n := Pkt.table c.words
      pentry? s n row = none →
      (∀ tgt, Pkt.destTier c.words ≠ 0 → moveDest s n row (Pkt.destTier c.words) = some tgt →
        rptCount s.place.entries (rptSet n row) < 8 →
        ∃ t e p, exec (.rowMigrate id) s = .next t ∧ cmd? t id = some e ∧ e.phase = .running ∧ (rowsOf e).intake = true
          ∧ pentry? t n row = some p ∧ p.moving = true ∧ p.waiting = true ∧ p.src = false ∧ p.newTier = tgt.tier ∧ p.new = tgt
          ∧ p.curTier = 0 ∧ p.cmds = [id] ∧ OtherCmds s t id
          ∧ (∀ m r, (m, r) ≠ (n, row) → pentry? t m r = pentry? s m r)
          ∧ t = { s with cmds := t.cmds, regs := t.regs,
                         place := { s.place with entries := t.place.entries, filter := t.place.filter } })
      ∧ (Pkt.destTier c.words ≠ 0 → moveDest s n row (Pkt.destTier c.words) = none → rptCount s.place.entries (rptSet n row) < 8 →
        0 < (table s n).desc.stride →
        ∃ t e, exec (.rowMigrate id) s = .next t ∧ cmd? t id = some e ∧ e.phase = .done ∧ e.status = .noSpace ∧ e.d0 = 0x31
          ∧ e.d1 = ceilDiv (table s n).desc.stride 1024 ∧ t.place = s.place ∧ OtherCmds s t id)
      ∧ (Pkt.destTier c.words = 0 → moveWaits s id = false → (∀ m ∈ s.remote.migs, m.cmd ≠ id) →
        ∃ t e, exec (.rowMigrate id) s = .next t ∧ cmd? t id = some e ∧ e.phase = .done ∧ e.status = .ok
          ∧ t.place.entries = s.place.entries ∧ OtherCmds s t id))
    ∧ (∀ (n : TableNo) (row : BitVec 40) upset ecc e, let r := row.toNat
      let d := (table s n.toNat).desc
      let src := homeNow s n.toNat r
      let bs := readTier s src d.stride
      let bad := d.spoilt (upset ++ eccFails ecc) ++ failingTiles s d r src bs
      let read := noteReads [] d src ecc s
      pentry? s n.toNat r = some e → moveRuns s e = true → moveIoOut s n.toNat r = false →
      ∃ t, exec (.moveStart n row ⟨upset, ecc⟩) s = .next t
        ∧ (homeWriteOut s n.toNat r = true → pentry? t n.toNat r = some { e with waiting := false }
          ∧ (∀ m q, (m, q) ≠ (n.toNat, r) → pentry? t m q = pentry? s m q)
          ∧ t = { s with place := { s.place with entries := t.place.entries } })
        ∧ (homeWriteOut s n.toNat r = false → e.read = none →
          (src.tier = 4 → pentry? t n.toNat r = some { e with waiting := false } ∧ t.tiers = s.tiers
            ∧ ∃ io ∈ t.remote.ios, io.id = s.remote.nextIo ∧ io.target = src.target ∧ io.write = false ∧ io.move = some (n.toNat, r))
          ∧ (src.tier ≠ 4 → bad = [] → (moveTo s e).tier ≠ 4 →
            pentry? t n.toNat r = some { e with waiting := false, copied := true, read := none }
            ∧ t.tiers = (writeTier (moveTo s e) bs read).tiers
            ∧ (∀ m q, (m, q) ≠ (n.toNat, r) → pentry? t m q = pentry? s m q)
            ∧ (ecc = [] → t = { s with tiers := t.tiers, place := { s.place with entries := t.place.entries } }))
          ∧ (src.tier ≠ 4 → bad ≠ [] → e.retried = false →
            pentry? t n.toNat r = some { e with waiting := false, retried := true, read := none }
            ∧ (∀ m q, (m, q) ≠ (n.toNat, r) → pentry? t m q = pentry? s m q))))
    ∧ (let k := (rd Reg.PLACE_EPOCH_EPOCH 0 s + 1) % 2 ^ 32
      (∃ t, exec .migrationEpoch s = .next t ∧ rd Reg.PLACE_EPOCH_EPOCH 0 t = k)
      ∧ (∀ e, s.place.entries.filter (fun x => x.moving && x.copied) = [e] → pentry? s e.table e.row = some e → e.next = [] →
        ∃ t, exec .migrationEpoch s = .next t ∧ rd Reg.PLACE_EPOCH_EPOCH 0 t = k
          ∧ (e.newTier ≠ 0 → pentry? t e.table e.row = some { e with
              moving := false, copied := false, waiting := false, retried := false, read := none, curTier := e.newTier, cur := e.new,
              epoch := k, cmds := [] })
          ∧ (e.newTier = 0 → pentry? t e.table e.row = none)
          ∧ (∀ m r, (m, r) ≠ (e.table, e.row) → pentry? t m r = pentry? s m r) ∧ t.tiers = s.tiers ∧ t.tables = s.tables))
    ∧ (∃ t, exec .skimWindowEnd s = .next t ∧ rd Reg.SKIM_THRESH_H 0 t = nextThreshold s % 2 ^ 16
      ∧ (Sparse.wf 0 s.place.sketch = true → ∀ k, Sparse.get 0 t.place.sketch k = Sparse.get 0 s.place.sketch k / 2) ∧ t.place.lastLoad = s.place.load
      ∧ t.place.load = [] ∧ t.place.candidates = 0 ∧ RegsKept s t [Reg.SKIM_THRESH_H.key 0]
      ∧ (rd Reg.SKIM_CFG_MODE 0 s ≠ 2 → t.place.entries = s.place.entries ∧ t.place.started = 0)
      ∧ t = { s with regs := t.regs, place := t.place })
    ∧ (∀ m : BitVec 2, served s Reg.SKIM_CFG_MODE.off = true →
      (m.toNat ≤ 2 → ∃ t, exec (.skimModeWrite m) s = .next t ∧ rd Reg.SKIM_CFG_MODE 0 t = m.toNat
        ∧ rd Reg.SKIM_THRESH_H 0 t = 256 ∧ RegsKept s.accessed t [Reg.SKIM_CFG_MODE.key 0, Reg.SKIM_THRESH_H.key 0]
        ∧ t = { s.accessed with regs := t.regs })
      ∧ (m = 3 → exec (.skimModeWrite m) s = .next s.accessed))
    ∧ (∀ (n : TableNo) (row : BitVec 40), served s Reg.PLACE_ROW_SEL_ROW.off = true →
      let e := pentry? s n.toNat row.toNat
      let st := match e with
        | none => 0
        | some x => if x.moving && !x.waiting then 2 else if x.curTier = 0 then 0 else 1
      ∃ t, exec (.placeRowLookup n row) s = .next t ∧ rd Reg.PLACE_ROW_STAT_STATE 0 t = st
        ∧ rd Reg.PLACE_ROW_STAT_VALID 0 t = 1 ∧ t = { s.accessed with regs := t.regs })

/-- A GATHER_POOL or CASCADE without bags ends with ST_BAD_FIELD naming N_BAGS. One taken in whose step rule does not let
it read yet only waits. One whose rows are all served, with no bag pooled yet, pools and normalises every bag where
its statistics find room in the side memory: a GATHER_POOL with OUT_SEL 1 whose output can be written writes the bags
in order from OUT_ADDR and ends with ST_OK and the count of invalid identifiers; otherwise its vectors become frames
and it ends so, or, interacting, every sample awaits a lane block. With the side memory full a normalising command
pools nothing and waits. A lane block of a slice computes z and the outputs of that slice's first ready samples (up to
256); the block that completes the result closes the command. A closed partial enters its command's terms and goes
from the store. -/
def Obligations.bags_pooled : Prop :=
  ∀ s : State, s.sup.halted = false →
    (∀ i id op c f, (i, op) ∈ [(Instr.gatherPool id, 1), (Instr.cascade id, 2)] → Acts s id op c → c.work = .fwd f →
      (f.intake = false → Pkt.bags c.words = 0 →
        ∃ t, exec i s = .next t ∧ OneCmd s t id (c.endedWith (.badField, fieldPos 9 0 0, 0)) ∧ t = { s with cmds := t.cmds })
      ∧ (f.intake = true → mayRead s c f = false →
        ∃ t, exec i s = .next t ∧ OneCmd s t id { c with phase := .running } ∧ t = { s with cmds := t.cmds })
      ∧ (f.intake = true → mayRead s c f = true → Pkt.bags c.words ≠ 0 → f.feats ≠ [] → f.vecs = [] → f.z = [] →
        f.rows.all (·.asked) = true → Sparse.wf {} s.slices = true →
        let bags := (List.range f.feats.length).flatMap fun k => (List.range (Pkt.bags c.words)).map fun n => (k, n)
        bags.all (fun e => bagReady s id f e.1 e.2) = true →
        let vecs := bags.map fun e => poolVec s c f e.1 e.2
        let sides := fun (t : State) => ∀ k, { slice t k with side := (slice s k).side } = slice s k
        ((normOf c = 0 ∨ (∀ k, (slice s k).side = []) ∧ bags.length ≤ sideSize) →
          (interacts c = true → ∃ t, exec i s = .next t
            ∧ OneCmd s t id { c with phase := .running, work := .fwd { f with
                reading := true, vecs := vecs, todo := List.range (Pkt.bags c.words) } }
            ∧ sides t ∧ t = { s with cmds := t.cmds, slices := t.slices })
          ∧ (interacts c = false → toMemory c = false → ∃ t e g, exec i s = .next t ∧ cmd? t id = some e ∧ e.phase = .done
            ∧ e.status = .ok ∧ e.d0 = f.invalid ∧ e.work = .fwd g ∧ g.vecs = vecs ∧ g.frames = f.frames ++ vecs.flatMap (vectorFrame c)
            ∧ OtherCmds s t id ∧ sides t
            ∧ (hasRecord s id = false → e.d1 = 0 ∧ t = { s with cmds := t.cmds, slices := t.slices })
            ∧ t = { s with cmds := t.cmds, slices := t.slices, regs := t.regs, lehr := t.lehr, tiers := t.tiers })
          ∧ (op = 1 → toMemory c = true → outLacks s c f = [] →
            (writeOut c ((vecs.take (Pkt.bags c.words)).map (·.y)) (Pkt.outAddr c.words) s).2 = true →
            ∃ t e, exec i s = .next t ∧ cmd? t id = some e ∧ e.phase = .done ∧ e.status = .ok ∧ e.d0 = f.invalid
            ∧ t.mem = ((vecs.take (Pkt.bags c.words)).foldl (fun (m : Nat × Sparse Byte) v =>
                let bs := outBytes (Pkt.outFmt c.words) v.y
                (m.1 + bs.length, writeKeys m.2 (memKey (spaceOf s c.ctx) m.1) bs)) (Pkt.outAddr c.words, s.mem)).2
            ∧ OtherCmds s t id ∧ sides t
            ∧ (hasRecord s id = false → e.d1 = 0 ∧ t = { s with cmds := t.cmds, slices := t.slices, mem := t.mem, sent := t.sent })
            ∧ t = { s with cmds := t.cmds, slices := t.slices, mem := t.mem, sent := t.sent, regs := t.regs, lehr := t.lehr,
                           tiers := t.tiers }))
        ∧ (normOf c ≠ 0 → interacts c = false → (∀ b, b < Pkt.bags c.words →
            sideSize ≤ ((slice s (physSlice s (asmSlice s c.ctx b))).side.filter fun e => e.cmd != id).length) →
          ∃ t, exec i s = .next t ∧ OneCmd s t id { c with phase := .running, work := .fwd { f with reading := true } }
            ∧ sides t ∧ t = { s with cmds := t.cmds, slices := t.slices })))
    ∧ (∀ id (sl : BitVec 4) c f, cmd? s id = some c → c.phase = .running → interacts c = true → c.work = .fwd f →
      blockOf s c f sl.toNat ≠ [] →
      let g := (blockOf s c f sl.toNat).foldl (addSample s c) f
      ((resultDone c g = false ∨ c.use.fault.isSome = true) → ∃ t, exec (.laneBlockIssue sl id) s = .next t
        ∧ OneCmd s t id { c with work := .fwd g, progress := c.progress + 1 } ∧ t = { s with cmds := t.cmds })
      ∧ (resultDone c g = true → c.use.fault = none → ∃ t e h, exec (.laneBlockIssue sl id) s = .next t ∧ cmd? t id = some e
        ∧ e.phase = .done ∧ e.status = .ok ∧ e.d0 = f.invalid ∧ e.work = .fwd h ∧ h.z = g.z ∧ h.frames = g.frames ∧ OtherCmds s t id
        ∧ (hasRecord s id = false → e.d1 = 0 ∧ t = { s with cmds := t.cmds })
        ∧ t = { s with cmds := t.cmds, regs := t.regs, lehr := t.lehr, tiers := t.tiers }))
    ∧ (∀ p c f, s.partials.find? (fun x => x.id == p.id) = some p → p.closed = true → cmd? s p.cmd = some c → c.work = .fwd f →
      ∃ t e g, exec (.partialArrival p.id) s = .next t ∧ cmd? t p.cmd = some e ∧ e.work = .fwd g
        ∧ g.terms = f.terms ++ [{ feature := p.feature, bag := p.bag, slice := p.slice, terms := p.terms }] ∧ g.rows = f.rows
        ∧ OtherCmds s t p.cmd ∧ t.partials = s.partials.filter (fun q => q.id != p.id)
        ∧ t.tables = s.tables ∧ t.fetches = s.fetches ∧ t.ctxs = s.ctxs)

/-- After what the DRAM found is noted: when the data of a fetch without NVMe read arrives, is read and passes its checks,
its one waiting command gets it: a PREFETCH strikes the row off and ends with ST_OK after its last; a GATHER_POOL or
CASCADE has the row's elements in FP32, under the version it reads. The fetch is over; a row that its slice has not
come to hold, of a table that does not bypass, enters the gob buffer, or the basin way that waits for it, or no cache.
Data in which a tile that every waiting command uses fails the first time is read once more, the failed tiles first,
and the waiting commands are as they were; where only tiles fail that pooling does not use, such a GATHER_POOL or
CASCADE gets its row at once and the fetch goes on without it. A pool request of a weir whose row is read and whose
pooled tiles pass, with one use by its command and no further request of the command in that vault, becomes one closed
partial of that use, and the row counts as served. -/
def Obligations.row_data_returns : Prop :=
  ∀ s : State, s.sup.halted = false → ∀ f ups ecc bs bad, fetch? s f.id = some f →
    let d := (table s f.table).desc
    let r := noteReads (f.contexts s) d f.place ecc s
    let fails := dedup (d.spoilt (ups ++ eccFails ecc) ++ bad)
    let ver := f.now r
    let given := fun (g : Fwd) => g.rows.map fun x =>
      if x.table = f.table ∧ x.row = f.row then { x with
        elems := some (rowElems (table r f.table).desc (matB r f.table (verOf g f.table)) bs), asked := true, done := true }
      else x
    let range := rowRange r f.table ver f.row
    let cp : Copy := { table := f.table, row := f.row, lo := range.1, hi := range.2, bytes := bs }
    let cached := fun (t : State) => findSpot r (slice r f.slice) f.table f.row ver = none → bypasses r f.table = false →
      (f.dest = .gob → cp ∈ (slice t f.slice).gob)
      ∧ (∀ cl k w, f.dest = .way cl k w →
        let b := setOf r (slice r f.slice) (setKey cl k)
        w < b.ways.length → (b.ways.getD w {}).st = .filling → (b.ways.getD w {}).owner = f.id →
        ((Sparse.get {} (slice t f.slice).sets (setKey cl k)).ways.getD w {}).copy = cp)
    fetchTiles r f = .ok (bs, bad) →
    (f.weir = false → ioOut s f.id = false →
      (∀ id c, f.waiters = [id] → cmd? r id = some c → c.phase ≠ .done → fails = [] → id < lookupBase →
        (∀ w, c.op = 6 → c.work = .rows w → let left := w.rows.filter (· != f.row)
          let e := { c with work := .rows { w with rows := left }, progress := c.progress + 1 }
          ∃ t, exec (.fetchDataReturn f.id ups ecc) s = .next t ∧ cached t
            ∧ t.fetches = r.fetches.filter (fun g => g.id != f.id) ∧ (f.dest = .none → t.slices = r.slices ∧ t.regs = r.regs)
            ∧ (∀ k, k ≠ f.slice → slice t k = slice r k) ∧ ((ctx r f.ctx).st ≠ .quarantined → t.ctxs = r.ctxs)
            ∧ t = { r with cmds := t.cmds, fetches := t.fetches, slices := t.slices, regs := t.regs, ctxs := t.ctxs,
                           place := { r.place with old := t.place.old } }
            ∧ OneCmd r t id (if left.isEmpty then e.endedWith okVerdict else e))
        ∧ (∀ g, c.op = 1 ∨ c.op = 2 → c.work = .fwd g →
          ∃ t e h, exec (.fetchDataReturn f.id ups ecc) s = .next t ∧ cached t
            ∧ t.fetches = r.fetches.filter (fun x => x.id != f.id)
            ∧ cmd? t id = some e ∧ e.work = .fwd h ∧ h.rows = given g ∧ OtherCmds r t id ∧ t.tables = r.tables))
      ∧ (f.waiters ≠ [] → f.fails = 0 → fails ≠ [] →
        let again : Fetch := { f with fails := 1, order := fails ++ f.order.filter fun k => !fails.contains k, kept := none }
        (f.waiters.all (fun i => fails.any (tilesUsed r d i)) = true →
          ∃ t, exec (.fetchDataReturn f.id ups ecc) s = .next t
            ∧ t.fetches = r.fetches.map (fun g => if g.id == f.id then again else g)
            ∧ t = { r with fetches := t.fetches, sent := t.sent, remote := t.remote })
        ∧ (∀ id c g, f.waiters = [id] → cmd? r id = some c → c.phase ≠ .done → id < lookupBase → c.op = 1 ∨ c.op = 2 → c.work = .fwd g →
          fails.any d.pools = false → ∃ t e h, exec (.fetchDataReturn f.id ups ecc) s = .next t
            ∧ t.fetches = r.fetches.map (fun x => if x.id == f.id then { again with waiters := [], served := true } else x)
            ∧ cmd? t id = some e ∧ e.work = .fwd h ∧ h.rows = given g ∧ OtherCmds r t id ∧ t.tables = r.tables)))
    ∧ (∀ id c w g u, f.weir = true → f.dest = .none → f.waiters = [id] → cmd? r id = some c →
      c.work = .fwd w → w.feats = [g] → g.table = f.table → g.uses = [u] → u.reason = none → u.row = f.row → g.offs = [0, 1] →
      g.pool ≠ 2 → r.partials = [] → physSlice r (logicalSlice r c.ctx (homeOf f.row)) = f.slice →
      (∀ x ∈ r.fetches, x.weir = true → x.id ≠ f.id → id ∉ x.waiters) → fails.any d.pools = false →
      ∃ t e h, exec (.weirPoolRequest f.id ups ecc) s = .next t
        ∧ t.partials = [closePartial d.format {
            id := r.nextPart, cmd := id, feature := 0, bag := 0, slice := logicalSlice r c.ctx (homeOf f.row),
            vault := some (f.vault r),
            terms := useTerms g.pool (rowElems d [] bs) 0#32 0, closed := false, form := 0 }]
        ∧ t.nextPart = r.nextPart + 1 ∧ t.fetches = r.fetches.filter (fun x => x.id != f.id)
        ∧ cmd? t id = some e ∧ e.work = .fwd h ∧ OtherCmds r t id ∧ t.tables = r.tables
        ∧ h.rows = w.rows.map (fun x => if x.table = f.table ∧ x.row = f.row then { x with done := true, elems := none } else x))

/-- An unsent frame of a forward command whose result uses the tower, its context not RESETTING and its channel accepting
and not held, leaves and is marked sent; where the port does not accept it stays and its channel is held. After the
last data frame of a completed command its END frame leaves on the command's own channel, likewise. When a channel
accepts again the END frames that waited for it leave. A parity failure of a transpose buffer in use logs ERR_TXB with
the buffer's unit, sets that unit OFFLINE and makes the slice read columns from then on. A fault of an active lane
group for which a unit stands by logs ERR_LANE_GROUP with action takeover and sets it OFFLINE. Nothing else changes. -/
def Obligations.lanes_and_frames : Prop :=
  ∀ s : State, s.sup.halted = false →
    (∀ id n c f, cmd? s id = some c → usesTower c = true → c.work = .fwd f → f.endSent = false →
      (∀ fr, f.frames[n]? = some fr → fr.sent = false → (ctx s c.ctx).st ≠ .resetting →
        c.phase = .running ∨ c.phase = .done ∧ c.status = .ok →
        frameChannel s c fr ∉ s.tower.held →
        (∃ t, exec (.towerFrameSend id n true) s = .next t
          ∧ OneCmd s t id { c with progress := c.progress + 1, work := .fwd { f with
              frames := setAt f.frames n { fr with sent := true } } }
          ∧ t = { s with cmds := t.cmds, sent := .frame (frameChannel s c fr) (dataFrame c fr) :: s.sent })
        ∧ exec (.towerFrameSend id n false) s = .next
          { s with tower := { s.tower with held := s.tower.held ++ [frameChannel s c fr] } })
      ∧ (n = f.frames.length → c.phase = .done → c.status ≠ .ok ∨ f.frames.all (·.sent) = true → endChannel c ∉ s.tower.held →
        (∃ t, exec (.towerFrameSend id n true) s = .next t ∧ OneCmd s t id { c with work := .fwd { f with endSent := true } }
          ∧ t = { s with cmds := t.cmds, sent := .frame (endChannel c) (endFrame c c.status) :: s.sent })
        ∧ exec (.towerFrameSend id n false) s = .next
          { s with tower := { s.tower with held := s.tower.held ++ [endChannel c] } }))
    ∧ (∀ ch : BitVec 4, ∃ t, exec (.towerAcceptResume ch) s = .next t ∧ ch.toNat ∉ t.tower.held
      ∧ (∀ k, k ≠ ch.toNat → (k ∈ t.tower.held ↔ k ∈ s.tower.held))
      ∧ (∀ e, e ∈ t.tower.ends ↔ e ∈ s.tower.ends ∧ e.1 ≠ ch.toNat)
      ∧ t.sent = ((s.tower.ends.filter fun e => e.1 == ch.toNat).reverse.map fun e => Out.frame e.1 e.2) ++ s.sent
      ∧ t = { s with tower := t.tower, sent := t.sent })
    ∧ (∀ sl : BitVec 5, sl.toNat < 17 → rdb Reg.LANE_CTRL_TXB_EN 0 s = true → (slice s sl.toNat).txbFail = false →
      ∃ t, exec (.txbParityFail sl) s = .next t ∧ LogsOne s t 0x0050 7 none (unitId 4 sl.toNat) 1
        ∧ slice t sl.toNat = { slice s sl.toNat with txbFail := true } ∧ (∀ k, k ≠ sl.toNat → slice t k = slice s k)
        ∧ unit t (unitId 4 sl.toNat) = { unit s (unitId 4 sl.toNat) with st := .offline }
        ∧ (∀ u, u ≠ unitId 4 sl.toNat → unit t u = unit s u)
        ∧ t = { s.logged t with slices := t.slices, units := { s.units with st := t.units.st } })
    ∧ (∀ (sl g : BitVec 5) i, let u := unitId 3 (17 * sl.toNat + g.toNat)
      sl.toNat < 17 → g.toNat < 17 → servedBy s u = some i → (unit s u).st = .active → spares s 3 i ≠ [] →
      ∃ t, exec (.laneGroupFault sl g) s = .next t ∧ LogsOne s t 0x0051 6 none u 0
        ∧ unit t u = { unit s u with st := .offline } ∧ (∀ w, w ≠ u → unit t w = unit s w)
        ∧ t = { s.logged t with units := { s.units with st := t.units.st } })
    ∧ (∀ (sl : BitVec 5) (k : BitVec 4) (a : BitVec 24), let info := k.toNat + a.toNat * 2 ^ 8
      (k = 6 → ∃ t, exec (.sramUe sl k a) s = .next t ∧ LogsOne s t 0x0052 0 none 0 info
        ∧ t.host.atc = s.host.atc.eraseIdx (a.toNat % max 1 s.host.atc.length)
        ∧ t = { s.logged t with host := { s.host with atc := t.host.atc, msixPending := t.host.msixPending } })
      ∧ (k = 7 → ∃ t, exec (.sramUe sl k a) s = .next t ∧ LogsOne s t 0x0052 0 none 0 info ∧ t = s.logged t))

/-- A SCATTER_GRAD not yet started waits while its forward command is in flight, and ends with ST_BAD_FIELD naming FWD_TAG
where no record of it is held. Started, what it gathers again come, its rows here, and its gradients all had, from the
g records of an interacting CASCADE, from memory or from its frames: it writes the term of every use into the slot
reserved for it, ends with ST_OK, the bags pooled again and its non-finite elements, and keeps its maximum. An
interaction SCATTER_GRAD with unmarked samples and all frames taken, whose windows let it write, writes the dense
gradient of each sample at GRAD_ADDR, gives each sample its g records in place of its vectors, and ends likewise. A
gradient frame whose key a drain has is drained; one that no SCATTER_GRAD claims is refused and counted; one that the
bound SCATTER_GRAD claims is kept, or ends it with ST_BAD_FIELD naming its first bad byte. Frames shorter than a
header, or while frames are discarded, change nothing. -/
def Obligations.gradients_taken : Prop :=
  ∀ s : State, s.sup.halted = false →
    (∀ i id c, (i = .scatterGrad id ∧ Pkt.feature c.words ≠ 63 ∨ i = .interactionScatterGrad id ∧ Pkt.feature c.words = 63) →
      Acts s id 3 c → (scatterOf c).started = false →
      (fwdInFlight s c = true → ∃ t, exec i s = .next t ∧ OneCmd s t id { c with phase := .running } ∧ t = { s with cmds := t.cmds })
      ∧ (fwdInFlight s c = false → fwdRecord s c = none →
        ∃ t, exec i s = .next t ∧ OneCmd s t id (c.endedWith (.badField, fieldPos 10 0 0, 0)) ∧ t = { s with cmds := t.cmds }))
    ∧ (∀ id c g r f gs ins, Acts s id 3 c → Pkt.feature c.words ≠ 63 → c.work = .scatter g →
      g.feature = Pkt.feature c.words → g.started = true → g.written = false → g.pushes = [] →
      s.lehr.find? (fun x => g.fwd == some x.cmd) = some r → r.feats[g.feature]? = some f →
      againDone s c = true → g.again.rows.all (·.asked) = true → remoteChips s f = [] → Sparse.wf {} s.slices = true →
      let n := (table s (Pkt.table c.words)).desc.rowLen
      (r.interacts = true ∧ recordGrads r g.feature = some gs ∧ ins = []
        ∨ r.interacts = false ∧ Pkt.gradSel c.words = true ∧ (∃ bs, memoryGrads s c g n = .ok bs
          ∧ let h := { g with taken := memoryTaken s c g n bs }
            gs = takenGrads s c h n ∧ ins = takenInputs h)
        ∨ r.interacts = false ∧ Pkt.gradSel c.words = false ∧ allTaken g = true ∧ gs = takenGrads s c g n ∧ ins = takenInputs g) →
      let ts := termsOf f (bagGrads s c r g.again g.feature gs)
      ∃ t e, exec (.scatterGrad id) s = .next t ∧ cmd? t id = some e ∧ e.phase = .done ∧ e.status = .ok
        ∧ e.d0 = (againBags r g.feature).length ∧ e.d1 = nonfiniteOf gs ∧ (scatterOf e).amax = amaxOf gs
        ∧ e.inputs = c.inputs ++ ins ∧ OtherCmds s t id
        ∧ (∀ k, slice t k = { slice s k with
            slots := (slice s k).slots.map fun x => if x.owner = .chip id then
                { x with codes := ((ts.find? fun e => e.1.idx == x.use).map fun e => e.2.codes).getD x.codes }
              else x })
        ∧ t = { s with cmds := t.cmds, slices := t.slices })
    ∧ (∀ id c g r, Acts s id 3 c → Pkt.feature c.words = 63 → c.work = .scatter g → g.feature = 63 → g.started = true →
      g.written = false → g.pushes = [] → allTaken g = true → s.lehr.find? (fun x => g.fwd == some x.cmd) = some r →
      againDone s c = true → g.again.rows.all (·.asked) = true → (∀ b, (r.bags.getD b {}).recompute = false) →
      let at_ := fun b => Pkt.addrA c.words + b * r.rowLen * 4
      let gs := takenGrads s c g (gradLen s c r)
      let x := fun (b : Nat) => sampleOf s c r g.again b
      let du := fun (e : Grad × Nat) => sampleBack s c r (x e.2) e.1
      (∀ e ∈ gs.zipIdx, windowAllows s c.ctx (at_ e.2) (bytesOf ((du e).headD [])).length true = true) →
      ∃ t e, exec (.interactionScatterGrad id) s = .next t ∧ cmd? t id = some e ∧ e.phase = .done ∧ e.status = .ok
        ∧ e.d0 = 0 ∧ e.d1 = nonfiniteOf gs ∧ (scatterOf e).amax = amaxOf gs ∧ OtherCmds s t id
        ∧ t.mem = gs.zipIdx.foldl (fun m e =>
            writeKeys m (memKey (spaceOf s c.ctx) (at_ e.2)) (bytesOf ((du e).headD []))) s.mem
        ∧ (∀ q ∈ t.lehr, q.cmd = r.cmd → q.bags = gs.zipIdx.map fun e =>
            { r.bags.getD e.2 {} with y := [], g := sampleG r (x e.2) (du e) })
        ∧ t = { s with cmds := t.cmds, mem := t.mem, sent := t.sent, lehr := t.lehr, tiers := t.tiers })
    ∧ (∀ (ch : BitVec 4) bytes, let k := frameKey bytes
      (framesOff s = true ∨ bytes.length < 16 → exec (.gradientFrame ch bytes) s = .next s)
      ∧ (framesOff s = false → 16 ≤ bytes.length →
        ((s.drains.any fun d => decide ((d.slot, d.tag, d.feature) = k)) = true →
          exec (.gradientFrame ch bytes) s = .next { s with drains := drainFrame k (frameIndex bytes) s.drains })
        ∧ ((s.drains.any fun d => decide ((d.slot, d.tag, d.feature) = k)) = false →
          (s.cmds.find? (claims s k) = none →
            ∃ t, exec (.gradientFrame ch bytes) s = .next t ∧ t.sent = .nack ch.toNat bytes :: s.sent
              ∧ rd Reg.TWR_NACK_CNT_COUNT 0 t = satAdd 32 (rd Reg.TWR_NACK_CNT_COUNT 0 s) 1
              ∧ RegsKept s t [Reg.TWR_NACK_CNT_COUNT.key 0] ∧ t = { s with regs := t.regs, sent := t.sent })
          ∧ (∀ c g r m, s.cmds.find? (claims s k) = some c → cmd? s c.id = some c → c.phase ≠ .done → c.work = .scatter g →
            g.again.rows.all (·.asked) = true → g.feature = Pkt.feature c.words → g.fwd = some m → fwdRecord s c = some r →
            s.lehr.find? (fun x => g.fwd == some x.cmd) = some r →
            let d := (table s (Pkt.table c.words)).desc
            let len := gradLen s c r * fmtBytes d.actFmt
            let h := { g with taken := g.taken ++ [(frameIndex bytes, BitVec.ofNat 8 (hdr bytes 14 1 7 0), (bytes.drop 16).take len)] }
            let fault := frameFault bytes (if g.feature = 63 then 1 else 0) d.actFmt len (BitVec.ofInt 8 g.e) (Pkt.bags c.words)
              (g.taken.map (·.1))
            (∀ b, fault = some b → ∃ t, exec (.gradientFrame ch bytes) s = .next t
              ∧ OneCmd s t c.id ({ c with work := .scatter h }.endedWith (.badField, fieldPos b 0 12, frameIndex bytes))
              ∧ t = { s with cmds := t.cmds })
            ∧ (fault = none → g.started = false ∨ allTaken h = false → ∃ t, exec (.gradientFrame ch bytes) s = .next t
              ∧ OneCmd s t c.id { c with work := .scatter h, progress := c.progress + 1 } ∧ t = { s with cmds := t.cmds })))))

/-- A MERGE_APPLY ends with ST_NO_TABLE where the working version is gone, and with ST_STEP_STALE where its step has
committed; it waits while another merges the table. Else it begins, and waits while a SCATTER_GRAD of its step is in
flight. With no row left on a table without adapter it is merged. Its one row left, held by no structure of its slice,
whose place can give it, is fetched, filling the basin unless the table bypasses it, or waits for room in the cullet
buffer; a row that has come is updated by the optimiser with the exact sum of its slots, and the new content waits in
the row's pin, in a PENDING way or with the command; a row whose tiles failed keeps its content and is counted. At the
commit point, its reads done and its rows merged, the table's committed step becomes the command's, E and the maxima
move on as the delayed scaling says, the step maximum and the reservations are cleared, the slots of the step are
freed, and the command ends with ST_OK, the new E and the rows updated; a row of an unversioned table in a TRAIN pin
has the new content there, dirty. No other table changes. A gather that the step held, which may now read, begins to. -/
def Obligations.merge_and_commit : Prop :=
  ∀ s : State, s.sup.halted = false → ∀ id c m, c.work = .merge m →
    let n := Pkt.table c.words
    let tb := table s n
    let d := tb.desc
    let step := Pkt.step c.words
    let xs := stepSlots s n step
    (Acts s id 4 c →
      (tb.working = none →
        ∃ t, exec (.mergeApply id) s = .next t ∧ OneCmd s t id (c.endedWith (noWorking c)) ∧ t = { s with cmds := t.cmds })
      ∧ (∀ w, tb.working = some w →
        (step ≤ tb.step → ∃ t, exec (.mergeApply id) s = .next t ∧ OneCmd s t id (c.endedWith (.stepStale, tb.step, n))
          ∧ t = { s with cmds := t.cmds })
        ∧ (tb.step < step →
          (∀ j, tb.merging = some j → j ≠ id → ∃ t, exec (.mergeApply id) s = .next t
            ∧ OneCmd s t id { c with phase := .running } ∧ t = { s with cmds := t.cmds })
          ∧ (tb.merging = none ∨ tb.merging = some id → m.merged = false →
            let waits := s.cmds.any fun x => x.op == 3 && Pkt.table x.words == n && Pkt.step x.words == step
            let begun := fun (t : State) => table t n = { tb with merging := some id } ∧ ∀ k, k ≠ n → table t k = table s k
            let running : Cmd := { c with phase := .running }
            (waits = true → ∃ t, exec (.mergeApply id) s = .next t ∧ begun t
              ∧ OneCmd s t id { running with work := .merge { m with begun := true } }
              ∧ t = { s with cmds := t.cmds, tables := t.tables })
            ∧ (waits = false → d.adapter = false →
              (mergeLeft m (slotRows xs) = [] → ∃ t, exec (.mergeApply id) s = .next t ∧ begun t
                ∧ OneCmd s t id { running with
                    progress := c.progress + 1, work := .merge { m with begun := true, merged := true, db := none } }
                ∧ t = { s with cmds := t.cmds, tables := t.tables })
              ∧ (∀ row, mergeLeft m (slotRows xs) = [row] → let sl := cmdSlice s c row
                (row ∉ c.asked → gotOf c row = none → findSpot s (slice s sl) n row w.num = none →
                  joinable s sl n row w.num = none → reach s (rowPlace s n w.num row) d.stride = .ok →
                  ∃ t e, exec (.mergeApply id) s = .next t ∧ begun t ∧ cmd? t id = some e ∧ e.phase = .running
                    ∧ e.work = .merge { m with begun := true } ∧ OtherCmds s t id ∧ t.tiers = s.tiers
                    ∧ (rdb Reg.SKIM_TABLE_CFG_TRACK n s = false → t.mem = s.mem)
                    ∧ (row ∈ e.asked ∧ (∃ dest, StartsFetch s t id sl n row w.num dest ∧ (bypasses s n = true → dest = .none))
                      ∨ bypasses s n = false ∧ row ∉ e.asked ∧ t.fetches = s.fetches ∧ t.slices = s.slices))
                ∧ (row ∈ c.asked → ∀ bs, gotOf c row = some ⟨row, some bs⟩ →
                  let new := storeVec d row bs (optStep (optCfg d (BitVec.ofNat 32 (Pkt.w9 c.words))) (rowVec d bs)
                    (mergedGrad xs row d.rowLen))
                  let done : Cmd := { running with progress := c.progress + 2, got := c.got.filter fun g => g.row != row }
                  let m2 : Merge := { m with
                    begun := true, merged := true, db := none, rows := m.rows ++ [{ row := row, a := [], g := [] }] }
                  (∀ i p, commitPin s (slice s sl) n row = some i → (slice s sl).punty[i]? = some p →
                    ∃ t, exec (.mergeApply id) s = .next t ∧ begun t ∧ OneCmd s t id { done with work := .merge m2 }
                      ∧ (slice t sl).punty[i]? = some { p with pend := (p.pend.filter fun e => e.1 != id) ++ [(id, new)] }
                      ∧ (∀ k, k ≠ sl → slice t k = slice s k)
                      ∧ t = { s with cmds := t.cmds, tables := t.tables, slices := t.slices, waits := t.waits })
                  ∧ (commitPin s (slice s sl) n row = none → ∃ t e, exec (.mergeApply id) s = .next t ∧ begun t
                    ∧ cmd? t id = some e ∧ OtherCmds s t id ∧ t.mem = s.mem ∧ t.tiers = s.tiers
                    ∧ (bypasses s n = true → e = { done with work := .merge { m2 with spare := m.spare ++ [(row, new)] } }
                      ∧ t = { s with cmds := t.cmds, tables := t.tables, waits := t.waits })
                    ∧ (bypasses s n = false →
                      e = { done with work := .merge { m2 with spare := m.spare ++ [(row, new)] } }
                      ∨ e = { done with work := .merge m2 } ∧ (∃ k v : Nat, ((Sparse.get {} (slice t sl).sets k).ways[v]?) = some
                          ({ st := .pending, copy := { table := n, row := row, bytes := new }, freq := 0, owner := id } : Way))
                      ∨ e = { running with work := .merge { m with begun := true } } ∧ t.slices = s.slices)))
                ∧ (row ∈ c.asked → gotOf c row = some ⟨row, none⟩ → ∃ t, exec (.mergeApply id) s = .next t ∧ begun t
                  ∧ OneCmd s t id { running with
                      progress := c.progress + 2
                      got := c.got.filter fun g => g.row != row
                      work := .merge { m with begun := true, merged := true, db := none, corrupt := m.corrupt ++ [row] } }
                  ∧ rd Reg.TBL_MERGE_CORRUPT_CNT_COUNT n t = satAdd 32 (rd Reg.TBL_MERGE_CORRUPT_CNT_COUNT n s) 1
                  ∧ t = { s with cmds := t.cmds, tables := t.tables, regs := t.regs })))))))
    ∧ (∀ w, cmd? s id = some c → c.op = 4 → c.phase = .running → tb.working = some w → mayCommit s c = true → d.adapter = false →
      tb.zero = [] → m.corrupt = [] → (∀ h ∈ s.remote.heldPushes, msgTable h.msg ≠ n) → (∀ x ∈ s.cmds, rereads x n w.num = false) →
      Sparse.wf {} s.slices = true →
      let done := fun (t : State) => exec (.commitPoint id) s = .next t
        ∧ OneCmd s t id (c.endedWith (.ok, ((nextExp tb).1 % 256).toNat, m.rows.length))
        ∧ table t n = { tb with step := step, gradExp := (nextExp tb).1, hist := (nextExp tb).2, amax := 0#32, amaxAny := false,
                                resv := [], merging := none }
        ∧ (∀ k, k ≠ n → table t k = table s k)
        ∧ (∀ k, (slice t k).slots = (slice s k).slots.filter fun x => !(x.table == n && x.step == step && !x.prov))
        ∧ (∀ r ∈ s.lehr, step < r.step → (r.complete && r.spent) = false → r ∈ t.lehr)
        ∧ (∀ x, x ∈ t.remote.partsB ↔ x ∈ s.remote.partsB ∧ ¬ (x.1 = n ∧ x.2.1 ≤ step))
        ∧ t = { s with cmds := t.cmds, tables := t.tables, slices := t.slices, lehr := t.lehr, regs := t.regs, waits := t.waits,
                       fetches := t.fetches, remote := { s.remote with partsB := t.remote.partsB } }
      let holds := fun (x : Cmd) => match x.work with
        | .fwd f => x.phase = .running ∧ f.intake = true ∧ f.reading = false
        | _ => False
      ((∀ x ∈ s.cmds, ¬ holds x) → (m.rows = [] → ∃ t, done t)
        ∧ (∀ row bs i p, let sl := cmdSlice s c row
          m.rows.map (·.row) = [row] → d.versioned = false → newContent s c sl n row = some bs → pinIdx (slice s sl) true n row = some i →
          (slice s sl).punty[i]? = some p → p.copy.hi = none → pendingWay (slice s sl) id n row = none →
          ∃ t, done t ∧ ∃ q, (slice t sl).punty[i]? = some q ∧ q.dirty = true ∧ q.pend = p.pend.filter (fun e => e.1 != id)
            ∧ q.copy = { table := n, row := row, lo := 0, hi := none, bytes := bs } ∧ q.owners = p.owners ∧ q.train = p.train))
      ∧ (∀ x g, x ∈ s.cmds → x.work = .fwd g → holds x → cmd? s x.id = some x → (∀ y ∈ s.cmds, y ≠ x → ¬ holds y) → m.rows = [] →
        (∀ f ∈ g.feats, f.trained = true → (if f.table = n then step else (table s f.table).step) + 1 = Pkt.step x.words) →
        ∃ t e h, exec (.commitPoint id) s = .next t ∧ cmd? t x.id = some e ∧ e.work = .fwd h ∧ h.reading = true
          ∧ (table t n).step = step))

/-- A READY chip answers a LOOKUP_REQ at a fenced edge with status 5, and keeps any other in the serve queue, in flight on
its version, or has it sent again where that queue is full. A grant of the serve queue answers a lookup that fails a
check with its status; one of one use, whose row a pin of its slice holds, with that row's exact partial; for one
whose row no structure holds it starts a fetch. A PARTIAL_RSP nobody waits for is counted and its tag retired; one
with status OK adds its partials to the leaves of the command that asked, and with LAST marks its rows served; a
failing one (other than of corrupt data) and LOOKUP_TIMEOUT end a forward command with ST_REMOTE_LOST, a SCATTER_GRAD
with ST_HW_ERROR after ERR_REMOTE. A MIGRATE_REQ for rows that are not here is refused with status 4; one for one
movable row reserves its move and waits. The last MIGRATE_ACK ends the ROW_MIGRATE that waits for nothing else with
ST_OK, a failing one and the time-out with ST_REMOTE_LOST. A message of a reserved kind is counted. Messages are sent
where a rim port is up. -/
def Obligations.remote_lookups : Prop :=
  ∀ s : State, s.sup.halted = false →
    let out := fun (p : Nat) (bs : List Byte) => match rimPort s p with
      | some k => [Out.message p k bs]
      | none => []
    let retired := fun (t : State) (k req : Nat) => (∀ j, j ≠ k → ctx t j = ctx s j)
      ∧ ((ctx s k).st ≠ .quarantined → ctx t k = { ctx s k with tags := (ctx s k).tags.filter fun e => decide (e.2 ≠ .req req) })
    let late := fun (t : State) (k req : Nat) =>
      rd Reg.CTX_LATE_CNT_COUNT k t = satAdd 32 (rd Reg.CTX_LATE_CNT_COUNT k s) 1 ∧ RegsKept s t [Reg.CTX_LATE_CNT_COUNT.key k]
      ∧ retired t k req
    let counts := fun (t : State) (n v : Nat) (d : Int) =>
      (table t n).version? v = ((table s n).version? v).map (fun x => { x with inflight := ((x.inflight : Int) + d).toNat })
      ∧ (∀ w, w ≠ v → (table t n).version? w = (table s n).version? w) ∧ (∀ m, m ≠ n → table t m = table s m)
    (∀ msg, isMsg 1 msg = true → isReady s = true →
      let n := msgTable msg
      let v := msgWord msg 4
      (fencedTable s n = true → ∃ t, exec (.lookupReq msg) s = .next t
        ∧ t.sent = out (msgChip msg) (rspHeader s 5 1 (msgReq msg) 0 0) ++ s.sent ∧ t = { s with sent := t.sent })
      ∧ (fencedTable s n = false → 4096 ≤ s.remote.served.length →
        exec (.lookupReq msg) s = .next { s with sent := .rnrNak (msgChip msg) :: s.sent })
      ∧ (fencedTable s n = false → s.remote.served.length < 4096 → ∃ t, exec (.lookupReq msg) s = .next t
        ∧ t.remote.served = s.remote.served ++
          [{ id := lookupBase + s.remote.nextServed, msg := msg, chip := msgChip msg, table := n, version := v,
             held := ((table s n).version? v).isSome, step := if bit (msgWord msg 0) 12 then some (msgWord msg 5) else none }]
        ∧ counts t n v 1
        ∧ t = { s with tables := t.tables, remote := { s.remote with served := t.remote.served, nextServed := s.remote.nextServed + 1 } }))
    ∧ (∀ u w, nextGrant s = some (serveQueue, u) → nextLookup u = some w → w.begun = false → served? s w.id = some w →
      (∀ x ∈ s.remote.served, x.id = w.id → x = w) →
      let n := w.table
      let left := s.remote.served.filter fun x => x.id != w.id
      let counted := fun (t : State) => if w.held then counts t n w.version (-1) else t.tables = s.tables
      (∀ st, lookupCheck u w.msg = some st → ∃ t, exec .arbiterGrant s = .next t
        ∧ t.sent = out (msgChip w.msg) (rspHeader s st 1 (msgReq w.msg) 0 0) ++ s.sent ∧ counted t ∧ t.remote.served = left
        ∧ t.cmds = s.cmds ∧ t.slices = s.slices ∧ t.tiers = s.tiers ∧ t.mem = s.mem)
      ∧ (∀ x, lookupCheck u w.msg = none → (table s n).refill = false → lookupUses w.msg = [x] → w.got = [] →
        let d := (table s n).desc
        let sl := homeSlice s d.trainCtx (homeOf x.row)
        (∀ k cp, findSpot s (slice s sl) n x.row w.version = some (.punty k) → copyAt (slice s sl) (.punty k) = some cp →
          cp.fails s d.pools = false → (∀ f ∈ s.fetches, w.id ∉ f.waiters) →
          let p := ((x.feature, x.bag), useTerms x.pool (rowElems d (matB s n w.version) cp.bytes) x.weight x.pos)
          ∃ t, exec .arbiterGrant s = .next t
            ∧ t.sent = out (msgChip w.msg) (rspHeader s 0 1 (msgReq w.msg) 1 0 ++ rspPartial d.format (if x.pos < 255 then 1 else 2) p)
              ++ s.sent
            ∧ counted t ∧ t.remote.served = left ∧ t.cmds = s.cmds ∧ t.slices = s.slices ∧ t.tiers = s.tiers ∧ t.mem = s.mem)
        ∧ (findSpot s (slice s sl) n x.row w.version = none → joinable s sl n x.row w.version = none →
          reach s (rowPlace s n w.version x.row) d.stride = .ok → bypasses s n = true →
          (∀ f ∈ s.fetches, ¬ (f.table = n ∧ f.row = x.row ∧ w.id ∈ f.waiters)) →
          ∃ t, exec .arbiterGrant s = .next t ∧ StartsFetch s t w.id sl n x.row w.version .none ∧ t.tables = s.tables
            ∧ t.remote.served = s.remote.served.map (fun y => if y.id = w.id then { y with begun := true } else y)
            ∧ t.cmds = s.cmds ∧ t.slices = s.slices)))
    ∧ (∀ msg, isMsg 2 msg = true → let req := msgReq msg
      (s.remote.lookups.find? (fun l => l.req == req) = none →
        ∃ t, exec (.partialRsp msg) s = .next t ∧ late t (reqCtx req) req ∧ t = { s with regs := t.regs, ctxs := t.ctxs })
      ∧ (∀ l c f, s.remote.lookups.find? (fun l => l.req == req) = some l → cmd? s l.cmd = some c → c.phase ≠ .done →
        c.op = 1 ∨ c.op = 2 → c.work = .fwd f →
        let st := field (msgWord msg 0) 15 8
        let ts := (rspParts (msgWord msg 3) (msg.drop 32)).map (leafOf s f l)
        let left := s.remote.lookups.filter fun x => x.req != req
        (st = 0 → bit (msgWord msg 0) 16 = false → ∃ t, exec (.partialRsp msg) s = .next t
          ∧ OneCmd s t l.cmd { c with progress := c.progress + 1, work := .fwd { f with terms := f.terms ++ ts } }
          ∧ t = { s with cmds := t.cmds })
        ∧ (st = 0 → bit (msgWord msg 0) 16 = true →
          ∃ t e g, exec (.partialRsp msg) s = .next t ∧ cmd? t l.cmd = some e ∧ e.work = .fwd g
          ∧ g.terms = f.terms ++ ts ∧ g.rows = f.rows.map (fun x =>
            if x.table = l.table ∧ x.row ∈ l.rows then { x with done := true } else x)
          ∧ OtherCmds s t l.cmd ∧ t.remote.lookups = left ∧ retired t (reqCtx req) req
          ∧ t.tables = s.tables ∧ t.fetches = s.fetches ∧ t.partials = s.partials)
        ∧ (st ≠ 0 → st ≠ 3 → ∃ t, exec (.partialRsp msg) s = .next t
          ∧ OneCmd s t l.cmd (c.endedWith (.remoteLost, l.port, l.chip)) ∧ t.remote.lookups = left ∧ retired t (reqCtx req) req
          ∧ t = { s with cmds := t.cmds, ctxs := t.ctxs, remote := { s.remote with lookups := left } })))
    ∧ (∀ (req : Word) l c, s.remote.lookups.find? (fun l => l.req == req.toNat) = some l → cmd? s l.cmd = some c → c.phase ≠ .done →
      (c.op ≠ 3 → ∃ t, exec (.lookupTimeout req) s = .next t ∧ OneCmd s t l.cmd (c.endedWith (.remoteLost, l.port, l.chip))
        ∧ t = { s with cmds := t.cmds })
      ∧ (c.op = 3 → ∃ t, exec (.lookupTimeout req) s = .next t ∧ OneCmd s t l.cmd (c.endedWith (.hwError, s.errs.head, 0))
        ∧ LogsOne s t 0x0031 0 (some c.ctx) 0 (l.port % 4 + l.chip % 2 ^ 12 * 2 ^ 16) ∧ t = { s.logged t with cmds := t.cmds }))
    ∧ (∀ msg, isMsg 5 msg = true → isReady s = true → let n := msgTable msg
      ((∃ r ∈ migrateRows msg, localRow (table s n) r = false) → ∃ t, exec (.migrateReq msg) s = .next t
        ∧ t.sent = out (msgChip msg) (migrateAckBytes s 4 (msgReq msg)) ++ s.sent ∧ t = { s with sent := t.sent })
      ∧ (∀ row tgt, migrateRows msg = [row] → localRow (table s n) row = true → pentry? s n row = none →
        msgWord msg 4 % 16 ≠ 0 → msgWord msg 4 % 16 ≤ 4 → moveDest s n row (msgWord msg 4 % 16) = some tgt →
        rptCount s.place.entries (rptSet n row) < 8 → (∀ m ∈ s.remote.migServed, moveWaits s m.id = true) →
        ∃ t m p, exec (.migrateReq msg) s = .next t ∧ t.remote.migServed = s.remote.migServed ++ [m] ∧ m.chip = msgChip msg
          ∧ m.req = msgReq msg ∧ pentry? t n row = some p ∧ p.moving = true ∧ p.waiting = true ∧ p.new = tgt ∧ p.cmds = [m.id]
          ∧ (∀ k r, (k, r) ≠ (n, row) → pentry? t k r = pentry? s k r)
          ∧ t = { s with regs := t.regs, place := { s.place with entries := t.place.entries, filter := t.place.filter },
                         remote := { s.remote with migServed := t.remote.migServed } }))
    ∧ (∀ msg m c r, isMsg 6 msg = true → s.remote.migs.find? (fun m => m.req == msgReq msg) = some m → cmd? s m.cmd = some c →
      c.op = 8 → c.phase = .running → c.work = .rows r → r.intake = true →
      let gone := fun (t : State) => t.remote.migs = s.remote.migs.filter (fun x => x.req != msgReq msg)
        ∧ (∀ j, j ≠ reqCtx (msgReq msg) → ctx t j = ctx s j)
        ∧ t = { s with cmds := t.cmds, ctxs := t.ctxs, remote := { s.remote with migs := t.remote.migs } }
      (field (msgWord msg 0) 15 8 = 0 → moveWaits s m.cmd = false → (∀ x ∈ s.remote.migs, x.req ≠ msgReq msg → x.cmd ≠ m.cmd) →
        ∃ t, exec (.migrateAck msg) s = .next t ∧ OneCmd s t m.cmd (c.endedWith okVerdict) ∧ gone t)
      ∧ (field (msgWord msg 0) 15 8 ≠ 0 →
        ∃ t, exec (.migrateAck msg) s = .next t ∧ OneCmd s t m.cmd (c.endedWith (.remoteLost, m.port, m.chip)) ∧ gone t))
    ∧ (∀ id m c, s.remote.migs.find? (fun m => m.cmd == id) = some m → cmd? s id = some c → c.phase ≠ .done →
      ∃ t, exec (.migrateAckTimeout id) s = .next t ∧ OneCmd s t id (c.endedWith (.remoteLost, m.port, m.chip))
        ∧ t = { s with cmds := t.cmds })
    ∧ (∀ msg, msgKind msg < 1 ∨ 6 < msgKind msg → ∃ t, exec (.remoteBadMsg msg) s = .next t
      ∧ rd Reg.REMOTE_BAD_MSG_COUNT 0 t = satAdd 32 (rd Reg.REMOTE_BAD_MSG_COUNT 0 s) 1
      ∧ RegsKept s t [Reg.REMOTE_BAD_MSG_COUNT.key 0] ∧ t = { s with regs := t.regs })

/-- At a READY home chip a GRAD_PUSH DATA is answered with status 5 while its partition is fenced, held while it belongs
to the step after the next commit, answered with status 2 where it comes too late, and else, with one entry that fits
an unversioned table, stored in a provisional slot of the row's home slice and acknowledged. COMMIT in time, its table
live and not fenced and its TRAIN_CTX not RESETTING, makes the push's slots part of the step and is acknowledged, with
status 5 where a close or reset has freed them all (log entry 85) and where the table is not live; DISCARD frees its
provisional slots and drops what is held. A message of a partial of dB replaces the one of its number. At the sender,
an acknowledgement of a DATA message is noted while others are out; that of the last COMMIT ends the SCATTER_GRAD
whose terms are written with ST_OK; status 6 ends it with ST_NO_SPACE; another status, and no acknowledgement in time,
log ERR_PUSH and end it with ST_HW_ERROR. A partial of dB that does not come in time ends the MERGE_APPLY with
ST_REMOTE_LOST. -/
def Obligations.gradient_pushes : Prop :=
  ∀ s : State, s.sup.halted = false →
    let out := fun (p : Nat) (bs : List Byte) => match rimPort s p with
      | some k => [Out.message p k bs]
      | none => []
    (∀ msg, isMsg 3 msg = true → pushPhase msg = 0 → isReady s = true →
      let n := msgTable msg
      let tb := table s n
      let answers := fun (st : Nat) => ∃ t, exec (.gradPushData msg) s = .next t
        ∧ t.sent = out (msgChip msg) (ackBytes s st (msgReq msg) (msgWord msg 6) 0) ++ s.sent ∧ t = { s with sent := t.sent }
      (fencedTable s n = true → answers 5)
      ∧ (fencedTable s n = false → (∀ e ∈ pushEntries msg tb.desc.rowLen, localRow tb e.1 = true) →
        (tb.working = none → answers 5)
        ∧ (tb.working ≠ none → tb.desc.trainEn = true → trainOpen s n = true →
          (msgWord msg 4 = tb.step + 2 → exec (.gradPushData msg) s =
            .next { s with remote := { s.remote with heldPushes := s.remote.heldPushes ++ [{ msg := msg }] } })
          ∧ (msgWord msg 4 < tb.step + 1 ∨ msgWord msg 4 = tb.step + 1 ∧ tb.merging ≠ none → answers 2)
          ∧ (∀ e, msgWord msg 4 = tb.step + 1 → tb.merging = none → pushEntries msg tb.desc.rowLen = [e] → tb.pooled = false →
            let sl := homeSlice s tb.desc.trainCtx (homeOf e.1)
            let x : Slot := {
              table := n, row := e.1, step := msgWord msg 4, owner := pushOwner msg, prov := true, fmt := pushFmt msg,
              exp := if pushFmt msg = 0 then 0 else signedOf 8 (msgWord msg 5), use := 0, codes := e.2 }
            slotShort (addSlot sl x s) [sl] = [] →
            ∃ t, exec (.gradPushData msg) s = .next t
              ∧ slice t sl = { slice s sl with slots := (slice s sl).slots ++ [x] } ∧ (∀ k, k ≠ sl → slice t k = slice s k)
              ∧ t.sent = out (msgChip msg) (ackBytes s 0 (msgReq msg) (msgWord msg 6) 0) ++ s.sent
              ∧ t = { s with slices := t.slices, sent := t.sent }))))
    ∧ (∀ msg, isMsg 3 msg = true → isReady s = true → Sparse.wf {} s.slices = true →
      let n := msgTable msg
      let tb := table s n
      let acked := fun (t : State) => t.sent = out (msgChip msg) (ackBytes s 0 (msgReq msg) 0xFFFFFFFF 0) ++ s.sent
      let live := fencedTable s n = false ∧ (ctx s tb.desc.trainCtx).st ≠ .resetting
      (pushPhase msg = 1 → tb.working ≠ none → live → msgWord msg 4 = tb.step + 1 → tb.merging = none → pushHeld msg s = false →
        ∃ t, exec (.gradPushCommit msg) s = .next t ∧ t = { s with sent := t.sent }
          ∧ t.sent = out (msgChip msg) (ackBytes s 5 (msgReq msg) 0xFFFFFFFF 0) ++ s.sent)
      ∧ (pushPhase msg = 1 → ¬ live → ∃ t, exec (.gradPushCommit msg) s = .next t
          ∧ t.sent = out (msgChip msg) (ackBytes s 5 (msgReq msg) 0xFFFFFFFF 0) ++ s.sent)
      ∧ (pushPhase msg = 1 → tb.working ≠ none → live → msgWord msg 4 = tb.step + 1 → tb.merging = none → pushHeld msg s = true →
        ∃ t, exec (.gradPushCommit msg) s = .next t ∧ acked t
          ∧ (∀ k, slice t k = { slice s k with
              slots := (slice s k).slots.map fun x => if x.owner = pushOwner msg then { x with prov := false } else x })
          ∧ t = { s with slices := t.slices, sent := t.sent })
      ∧ (pushPhase msg = 2 → ∃ t, exec (.gradPushDiscard msg) s = .next t ∧ acked t
        ∧ (∀ k, (slice t k).slots = (slice s k).slots.filter fun x => !(x.prov && decide (x.owner = pushOwner msg)))
        ∧ (∀ h, h ∈ t.remote.heldPushes ↔ h ∈ s.remote.heldPushes ∧ ¬ (pushOwner h.msg = pushOwner msg ∧ msgTable h.msg = n))
        ∧ (∀ x ∈ (table t n).resv, pushHolder msg ∉ x.holders) ∧ (∀ k, k ≠ n → table t k = table s k)
        ∧ t = { s with slices := t.slices, tables := t.tables, sent := t.sent,
                       remote := { s.remote with heldPushes := t.remote.heldPushes } })
      ∧ (pushPhase msg = 3 → let e := (n, msgWord msg 4, msgChip msg, msgWord msg 6, wordsOf (msgEntries msg) (msg.drop 32))
        ∃ t, exec (.bPartial msg) s = .next t
        ∧ (∀ x, x ∈ t.remote.partsB ↔ x = e ∨ x ∈ s.remote.partsB
            ∧ ¬ (x.1 = e.1 ∧ x.2.1 = e.2.1 ∧ x.2.2.1 = e.2.2.1 ∧ x.2.2.2.1 = e.2.2.2.1))
        ∧ t = { s with remote := { s.remote with partsB := t.remote.partsB } }))
    ∧ (∀ msg c g p, isMsg 4 msg = true → pushCmd s (msgChip msg) (msgReq msg) = some c → cmd? s c.id = some c → c.work = .scatter g →
      g.pushes.find? (fun p => p.chip == msgChip msg && p.req == msgReq msg) = some p → c.phase ≠ .done →
      let st := field (msgWord msg 0) 15 8
      let seq := msgWord msg 3
      let mine := fun (x : Push) => x.chip = msgChip msg ∧ x.req = msgReq msg
      (st = 0 → seq ≠ 0xFFFFFFFF → (∃ x ∈ g.pushes, ¬ mine x ∧ x.waiting ≠ []) → ∃ t, exec (.gradAck msg) s = .next t
        ∧ OneCmd s t c.id { c with progress := c.progress + 1, work := .scatter { g with
            pushes := g.pushes.map fun x => if x.chip == msgChip msg && x.req == msgReq msg then
                { x with waiting := x.waiting.filter (· != seq) } else x } }
        ∧ t = { s with cmds := t.cmds })
      ∧ (st = 0 → seq = 0xFFFFFFFF → p.committed = true → g.written = true → (∀ x ∈ g.pushes, ¬ mine x → x.acked = true) →
        ∃ t e, exec (.gradAck msg) s = .next t ∧ cmd? t c.id = some e ∧ e.phase = .done ∧ e.status = .ok ∧ e.d0 = g.repooled
          ∧ e.d1 = g.nonfinite ∧ OtherCmds s t c.id
          ∧ ((ctx s c.ctx).st ≠ .quarantined →
            ctx t c.ctx = { ctx s c.ctx with tags := (ctx s c.ctx).tags.filter fun e => decide (e.2 ≠ .req (msgReq msg)) })
          ∧ (∀ j, j ≠ c.ctx → ctx t j = ctx s j) ∧ t = { s with cmds := t.cmds, ctxs := t.ctxs })
      ∧ (st = 6 → ∃ t, exec (.gradAck msg) s = .next t ∧ OneCmd s t c.id (c.endedWith (.noSpace, 0x41, msgWord msg 4))
        ∧ t = { s with cmds := t.cmds })
      ∧ (st ≠ 0 → st ≠ 6 → ∃ t, exec (.gradAck msg) s = .next t ∧ OneCmd s t c.id (c.endedWith (.hwError, s.errs.head, 0))
        ∧ LogsOne s t 0x0030 0 (some c.ctx) 0 (p.port % 4 + p.chip % 2 ^ 12 * 2 ^ 16 + st % 256 * 2 ^ 32)
        ∧ t = { s.logged t with cmds := t.cmds }))
    ∧ (∀ id c g p, cmd? s id = some c → c.op = 3 → c.phase ≠ .done → c.work = .scatter g → g.pushes.find? (fun p => !p.acked) = some p →
      ∃ t, exec (.gradAckTimeout id) s = .next t ∧ OneCmd s t id (c.endedWith (.hwError, s.errs.head, 0))
        ∧ LogsOne s t 0x0030 0 (some c.ctx) 0 (p.port % 4 + p.chip % 2 ^ 12 * 2 ^ 16 + 0xFF * 2 ^ 32)
        ∧ t = { s.logged t with cmds := t.cmds })
    ∧ (∀ id c m p ps, cmd? s id = some c → c.op = 4 → c.phase ≠ .done → c.work = .merge m → m.merged = true →
      (table s m.table).desc.adapter = true → missingB s m.table (Pkt.step c.words) = p :: ps →
      ∃ t, exec (.bPartialTimeout id) s = .next t
        ∧ OneCmd s t id (c.endedWith (.remoteLost, (rimPort s p).getD 0xFFFFFFFF, p)) ∧ t = { s with cmds := t.cmds })

/-- The successful read of a fetch that commands wait for puts the blocks' bytes into the target's image and ends the NVMe
command, and the target's next command that waits goes out. A row that moves is kept when its read succeeds; then a
row that does not fill whole blocks is merged into those read and written, and a successful write marks its copy
complete. A failing command without DNR and with tries left is sent again and LAST_ERR shows the code; a move whose
command fails for good is to be read again. A time-out, or a completion that fails for good, of a fetch into no cache
on which one forward command waits ends that command with ST_REMOTE_LOST, the port and the target. A lost connection
without commands out only clears CONNECTED. CONNECT written 1 where the target answers, a port is up, the engine is
READY and no write-back waits connects it and shows its capacity; written 0 with nothing out it clears CONNECTED; both
send the request. A keep-alive goes to each connected target. -/
def Obligations.flash_targets : Prop :=
  ∀ s : State, s.sup.halted = false →
    (∀ id io, io? s id = some io →
      let gone := s.remote.ios.filter fun x => x.id != id
      let calm := ∀ x ∈ gone, x.target = io.target → x.sent = true
      let p : Place := ⟨4, io.target, io.lba * lbaBytes s io.target⟩
      let n := io.blocks * lbaBytes s io.target
      (∀ f g dnr data, io.fetch = some f → fetch? s f = some g → g.waiters ≠ [] ∨ g.served = true →
        (calm → exec (.nvmeCompletion id 0#8 dnr data) s = .next { s with
          tiers := (writeTier p (padTo n data) s).tiers, remote := { s.remote with ios := gone } })
        ∧ (∀ y, (gone.filter fun x => x.target == io.target && !x.sent) = [y] → rdb Reg.NVMF_TGT_STAT_CONNECTED io.target s = true →
          (gone.filter fun x => x.target == io.target && x.sent).length < ioLimit s io.target →
          ∃ t, exec (.nvmeCompletion id 0#8 dnr data) s = .next t ∧ t.tiers = (writeTier p (padTo n data) s).tiers
            ∧ t.sent = .nvme y.id y.target y.lba y.blocks y.write y.data :: s.sent
            ∧ t.remote.ios = gone.map (fun x => if x.id == y.id then { x with sent := true } else x)
            ∧ t = { s with tiers := t.tiers, sent := t.sent, remote := { s.remote with ios := t.remote.ios } }))
      ∧ (∀ m e dnr data, io.fetch = none → io.back = none → io.move = some m → pentry? s m.1 m.2 = some e → calm →
        let others := fun (t : State) => ∀ x r, (x, r) ≠ m → pentry? t x r = pentry? s x r
        (e.read = none → ∃ t, exec (.nvmeCompletion id 0#8 dnr data) s = .next t
          ∧ pentry? t m.1 m.2 = some { e with
              read := some (((padTo n data).drop ((homeNow s m.1 m.2).addr - p.addr)).take (table s m.1).desc.stride) }
          ∧ others t ∧ t.tiers = (writeTier p (padTo n data) s).tiers
          ∧ t = { s with tiers := t.tiers, place := { s.place with entries := t.place.entries }, remote := { s.remote with ios := gone } })
        ∧ (∀ bs, e.read = some bs → io.write = true → ∃ t, exec (.nvmeCompletion id 0#8 dnr data) s = .next t
          ∧ pentry? t m.1 m.2 = some { e with copied := true, read := none } ∧ others t
          ∧ t.tiers = (writeTier (moveTo s e) bs s).tiers
          ∧ t = { s with tiers := t.tiers, place := { s.place with entries := t.place.entries }, remote := { s.remote with ios := gone } })
        ∧ (∀ bs, e.read = some bs → io.write = false → ∃ t w, exec (.nvmeCompletion id 0#8 dnr data) s = .next t
          ∧ w ∈ t.remote.ios ∧ w.id = s.remote.nextIo ∧ w.target = io.target ∧ w.lba = io.lba ∧ w.blocks = io.blocks ∧ w.write = true
          ∧ w.move = some m ∧ w.data = mergeBlocks s io (moveTo s e).addr bs data ∧ w.tries = 0
          ∧ (∀ x, x ∈ gone → x ∈ t.remote.ios) ∧ t.place = s.place ∧ t.tiers = (writeTier p (padTo n data) s).tiers)
        ∧ (∀ st : BitVec 8, st ≠ 0#8 → dnr = true ∨ 3 ≤ io.tries → ∃ t, exec (.nvmeCompletion id st dnr data) s = .next t
          ∧ rd Reg.NVMF_TGT_STAT_LAST_ERR io.target t = st.toNat ∧ RegsKept s t [Reg.NVMF_TGT_STAT_LAST_ERR.key io.target]
          ∧ pentry? t m.1 m.2 = some { e with read := none } ∧ others t
          ∧ t = { s with regs := t.regs, place := { s.place with entries := t.place.entries },
                         remote := { s.remote with ios := gone } }))
      ∧ (∀ (st : BitVec 8) data, st ≠ 0#8 → io.tries < 3 → ∃ t,
        exec (.nvmeCompletion id st false data) s = .next t ∧ rd Reg.NVMF_TGT_STAT_LAST_ERR io.target t = st.toNat
        ∧ RegsKept s t [Reg.NVMF_TGT_STAT_LAST_ERR.key io.target]
        ∧ t = { s with regs := t.regs, sent := .nvme id io.target io.lba io.blocks io.write io.data :: s.sent,
                       remote := { s.remote with
                         ios := s.remote.ios.map fun x => if x.id == id then { x with tries := x.tries + 1 } else x } })
      ∧ (∀ f g j c, io.fetch = some f → fetch? s f = some g → g.waiters = [j] → g.dest = .none → j < lookupBase → cmd? s j = some c →
        c.phase ≠ .done → calm → (ctx s g.ctx).st ≠ .quarantined →
        let lost := fun (t : State) => OneCmd s t j (c.endedWith (.remoteLost, flashPort s io.target, io.target))
          ∧ t.fetches = s.fetches.filter (fun x => x.id != g.id)
        (∃ t, exec (.nvmfTimeout id) s = .next t ∧ lost t
          ∧ t = { s with cmds := t.cmds, fetches := t.fetches, place := { s.place with old := t.place.old },
                         remote := { s.remote with ios := gone } })
        ∧ (∀ (st : BitVec 8) dnr data, st ≠ 0#8 → dnr = true ∨ 3 ≤ io.tries → ∃ t, exec (.nvmeCompletion id st dnr data) s = .next t
          ∧ lost t ∧ rd Reg.NVMF_TGT_STAT_LAST_ERR io.target t = st.toNat
          ∧ t = { s with cmds := t.cmds, fetches := t.fetches, regs := t.regs, place := { s.place with old := t.place.old },
                         remote := { s.remote with ios := gone } })))
    ∧ (∀ k : TargetNo, rdb Reg.NVMF_TGT_STAT_CONNECTED k.toNat s = true → (∀ io ∈ s.remote.ios, io.target ≠ k.toNat) →
      ∃ t, exec (.nvmfConnectionLost k) s = .next t ∧ rd Reg.NVMF_TGT_STAT_CONNECTED k.toNat t = 0
        ∧ RegsKept s t [Reg.NVMF_TGT_STAT_CONNECTED.key k.toNat] ∧ t = { s with regs := t.regs })
    ∧ (∀ capacity : Dword, Serves s 0x1830 →
      let a := s.accessed
      let k := rd Reg.NVMF_TGT_SEL_TARGET 0 a
      (∀ answered, (∀ io ∈ s.remote.ios, io.target ≠ k) → ∃ t, exec (.nvmfConnect false answered capacity) s = .next t
        ∧ rd Reg.NVMF_TGT_CTRL_CONNECT k t = 0 ∧ rd Reg.NVMF_TGT_STAT_CONNECTED k t = 0
        ∧ RegsKept a t [Reg.NVMF_TGT_CTRL_CONNECT.key k, Reg.NVMF_TGT_STAT_CONNECTED.key k]
        ∧ t = { a with regs := t.regs, sent := .nvmfConnect k false :: a.sent })
      ∧ (isReady a = true → targetPort a k = true → rdb Reg.NVMF_TGT_STAT_CONNECTED k a = false →
        (∀ e ∈ s.slices, e.2.cullet = [] ∧ e.2.hold = [] ∧ e.2.kept = []) → Sparse.wf {} s.slices = true →
        ∃ t, exec (.nvmfConnect true true capacity) s = .next t
        ∧ rd Reg.NVMF_TGT_CTRL_CONNECT k t = 1 ∧ rd Reg.NVMF_TGT_STAT_CONNECTED k t = 1
        ∧ rd Reg.NVMF_TGT_STAT_CAPACITY k t = capacity.toNat
        ∧ RegsKept a t [Reg.NVMF_TGT_CTRL_CONNECT.key k, Reg.NVMF_TGT_STAT_CONNECTED.key k, Reg.NVMF_TGT_STAT_CAPACITY.key k]
        ∧ t = { a with regs := t.regs, sent := .nvmfConnect k true :: a.sent }))
    ∧ (∃ t, exec .keepAlive s = .next t ∧ t = { s with sent := t.sent }
      ∧ ∀ o, o ∈ t.sent ↔ o ∈ s.sent ∨ ∃ k, k < 256 ∧ rdb Reg.NVMF_TGT_STAT_CONNECTED k s = true ∧ o = .keepAlive k)

/-- CONNECT written 1 for the selected peer and port starts the exchange where this chip has the lower number, the port is
up and not both queue pairs are connected: REQ goes out and they are connecting; written 0 it takes both down. A
reconnect attempt does the same. A REQ at the chip with the higher number is answered by REP and both begin; a REP at
the one that leads, while one connects, is answered by RTU and they are connected; RTU connects the other side. A CNP
halves a connected queue pair's rate; each recovery raises every queue pair's rate by 5 % of line rate up to line
rate; an error shows a queue pair that is not down as in error. RIM_LINK_DOWN clears UP of the port; RIM_LINK_UP, of a
port whose every position has an active pair and that nothing keeps down, sets it and shows whether the spare serves. -/
def Obligations.rim_queue_pairs : Prop :=
  ∀ s : State, s.sup.halted = false →
    let only := fun (a t : State) (p k : Nat) => ∀ j, j ≠ p * 4 + k → Sparse.get {} t.remote.qps j = Sparse.get {} a.remote.qps j
    (Serves s 0x18C4 →
      let a := s.accessed
      let p := rd Reg.RIM_PEER_SEL_PEER 0 a
      let k := rd Reg.RIM_PEER_SEL_PORT 0 a
      let v := peerQps a p k
      (∃ t, exec (.rimPeerConnect false) s = .next t ∧ rd Reg.RIM_PEER_CTRL_CONNECT (p * 4 + k) t = 0 ∧ peerQps t p k = {}
        ∧ only a t p k ∧ RegsKept a t [Reg.RIM_PEER_CTRL_CONNECT.key (p * 4 + k)]
        ∧ t = { a with regs := t.regs, remote := { a.remote with qps := t.remote.qps } })
      ∧ (rdb Reg.RIM_PORT_STAT_UP k a = true → ¬ (v.data.st = .connected ∧ v.abort.st = .connected) → leads a p = true →
        ∃ t, exec (.rimPeerConnect true) s = .next t ∧ rd Reg.RIM_PEER_CTRL_CONNECT (p * 4 + k) t = 1
        ∧ peerQps t p k = v.map Qp.begin ∧ only a t p k ∧ RegsKept a t [Reg.RIM_PEER_CTRL_CONNECT.key (p * 4 + k)]
        ∧ t = { a with regs := t.regs, sent := .cm p k .req :: a.sent, remote := { a.remote with qps := t.remote.qps } }))
    ∧ (∀ (peer : ChipNo) (port : PortNo),
      let p := peer.toNat
      let k := port.toNat
      let v := peerQps s p k
      let becomes := fun (i : Instr) (w : PeerQps) (os : List Out) => ∃ t, exec i s = .next t ∧ peerQps t p k = w ∧ only s t p k
        ∧ t = { s with sent := os ++ s.sent, remote := { s.remote with qps := t.remote.qps } }
      (mayConnect s p k = true →
        (leads s p = true →
          (¬ (v.data.st = .connected ∧ v.abort.st = .connected) → becomes (.qpReconnect peer port) (v.map Qp.begin) [.cm p k .req])
          ∧ (v.data.st = .connecting ∨ v.abort.st = .connecting →
            becomes (.cmMessage peer port .rep) (v.map Qp.join) [.cm p k .rtu]))
        ∧ (leads s p = false → becomes (.cmMessage peer port .req) (v.map Qp.begin) [.cm p k .rep]
          ∧ becomes (.cmMessage peer port .rtu) (v.map Qp.join) []))
      ∧ (mayConnect s p k = false → exec (.qpReconnect peer port) s = .next s
        ∧ ∀ m, exec (.cmMessage peer port m) s = .next s)
      ∧ (v.data.st = .connected → becomes (.cnp peer port false) { v with data := { v.data with halvings := v.data.halvings + 1 } } [])
      ∧ (v.abort.st = .connected → becomes (.cnp peer port true) { v with abort := { v.abort with halvings := v.abort.halvings + 1 } } [])
      ∧ (v.data.st ≠ .down → becomes (.queuePairError peer port false) { v with data := { v.data with st := .error } } [])
      ∧ (v.abort.st ≠ .down → becomes (.queuePairError peer port true) { v with abort := { v.abort with st := .error } } []))
    ∧ (Sparse.wf {} s.remote.qps = true → ∃ t, exec .rateRecovery s = .next t
      ∧ t = { s with remote := { s.remote with qps := t.remote.qps } }
      ∧ ∀ p k, Sparse.get {} s.remote.qps (p * 4 + k) ≠ {} → peerQps t p k = (peerQps s p k).map Qp.recover)
    ∧ (∀ port : PortNo,
      (∃ t, exec (.rimLinkDown port) s = .next t ∧ rd Reg.RIM_PORT_STAT_UP port.toNat t = 0
        ∧ RegsKept s t [Reg.RIM_PORT_STAT_UP.key port.toNat] ∧ t = { s with regs := t.regs })
      ∧ (phaseOf s ≠ 0 → phaseOf s ≠ 7 → port.toNat ∉ s.sup.tripped → asleep s = false →
        (if port.toNat < 2 then s.pins.rim0Fail else s.pins.rim1Fail) = false →
        (∀ i ∈ portPositions port.toNat, vacant s 8 i = false) → ∃ t, exec (.rimLinkUp port) s = .next t
        ∧ rd Reg.RIM_PORT_STAT_UP port.toNat t = 1 ∧ rd Reg.RIM_PORT_STAT_SPARE_USED port.toNat t = b2n (spareUsed s port.toNat)
        ∧ RegsKept s t [Reg.RIM_PORT_STAT_UP.key port.toNat, Reg.RIM_PORT_STAT_SPARE_USED.key port.toNat]
        ∧ t = { s with regs := t.regs }))

/-- While no rung runs and no dump is being collected, no command is being read, no lookup or invalidation waits and the
last dump was read, ENGINE_RESET, PARTITION_RESET of a partition of the layout (both in READY) and CHIP_RESET (outside
SUPERVISOR and FAULT) begin rungs 2, 3 and 4, and CHIP_RST_N low for 1 us or more begins rung 4 for the tray
controller: every OPEN context of the domain is RESETTING, its ACTIVE, HELD and OVERRUN queues are FENCED, provisional
slots of pushes to its tables are freed, the DRAM is zeroed where the start-up was still to do it (R365), rung 4
closes the host path, which drops its translations and leaves it with neither ATS nor page requests enabled, and the
dump begins with the time, the log and its head. A shorter CHIP_RST_N does nothing. A shared block that stops
answering in READY logs ERR_NOT_RESPONDING and begins rung 2; a rung below 4 past its dump that runs out of time logs
ERR_RUNG_TIMEOUT and begins the next for every partition. A rung above the cap is recorded as held: it fences and
takes no dump. -/
def Obligations.resets_begin : Prop :=
  ∀ s : State, s.sup.halted = false → Sparse.wf {} s.queues = true → Sparse.wf {} s.slices = true →
    (∀ c ∈ s.cmds, c.phase ≠ .reading) →
    s.remote.served = [] → s.host.invals = [] → s.dump.collect = none → s.dump.unread = false →
    let fences := fun (a t : State) (r : Rung) =>
      let mine := fun (k : Nat) => (ctx a k).st = .opened ∧ r.covers a k = true
      (∀ k, (mine k → ctx t k = { ctx a k with st := .resetting }) ∧ (¬ mine k → ctx t k = ctx a k))
      ∧ (∀ q, (mine (queue a q).cfg.ctx → queue t q = (queue a q).fence) ∧ (¬ mine (queue a q).cfg.ctx → queue t q = queue a q))
      ∧ (∀ k, slice t k = { slice a k with slots := (slice a k).slots.filter fun x => !(x.prov && fencedTable t x.table
          && match x.owner with
            | .peer _ _ _ _ => true
            | .chip _ => false) })
      ∧ t.host = (if r.rung = 4 then { a.host with st := .closed, atc := [], asked := [], ats := false } else a.host)
    let begins := fun (a t : State) (r : Rung) => fences a t r
      ∧ t.rung = some { r with step := 2 }
      ∧ t.dump = { a.dump with
          silent := []
          collect := some { time := a.cycle, head := a.errs.head, log := a.errs.slots, rung := r.rung,
                            part := if r.rung = 3 then r.part else 0, errSeq := r.errSeq } }
      ∧ (t.tiers = if r.rung = 4 ∧ phaseOf a = 1 ∧ a.rung = none then { a.tiers with dram := [], poison := [] } else a.tiers)
      ∧ t = { a with ctxs := t.ctxs, queues := t.queues, slices := t.slices, host := t.host, rung := t.rung, dump := t.dump,
                     tiers := t.tiers }
    let asked := fun (k p who : Nat) (fw : Bool) =>
      ({ rung := k, parts := [p], part := p, step := 0, held := false, requester := who, reload := fw, errSeq := noSeq } : Rung)
    (s.rung = none →
      (Serves s 0x2060 → let a := s.accessed
        (isReady a = true → (∃ t, exec .engineReset s = .next t ∧ begins a t (asked 2 0 0 false))
          ∧ ∀ p : BitVec 2, p.toNat < (layoutOf a).length → ∃ t, exec (.partitionReset p) s = .next t
            ∧ begins a t (asked 3 p.toNat 0 false))
        ∧ (∀ fw, phaseOf a ≠ 0 → phaseOf a ≠ 7 → ∃ t, exec (.chipReset fw) s = .next t ∧ begins a t (asked 4 0 0 fw)))
      ∧ (∀ n, (1000 ≤ n → phaseOf s ≠ 0 → phaseOf s ≠ 7 → ∃ t, exec (.chipRstN n) s = .next t ∧ begins s t (asked 4 0 2 false))
        ∧ (n < 1000 → exec (.chipRstN n) s = .next s))
      ∧ (∀ block : Byte, isReady s = true → block.toNat ≠ 0 → block.toNat ≤ 4 →
        let r : Rung := { asked 2 0 1 false with errSeq := s.errs.head }
        (overCap s 2 = false → ∃ t, exec (.notResponding 0 block) s = .next t ∧ LogsOne s t 0x0062 2 none 0 block.toNat
          ∧ begins (s.logged t) t r)
        ∧ (overCap s 2 = true → ∃ t, exec (.notResponding 0 block) s = .next t ∧ LogsOne s t 0x0062 8 none 0 block.toNat
          ∧ fences (s.logged t) t r ∧ t.rung = some { r with held := true, step := 1 } ∧ t.dump = s.dump
          ∧ t = { s.logged t with ctxs := t.ctxs, queues := t.queues, slices := t.slices, rung := t.rung })))
    ∧ (∀ r, s.rung = some r → r.held = false → 3 ≤ r.step → r.rung < 4 → isReady s = true →
      let n : Rung := { r with rung := r.rung + 1, parts := List.range (layoutOf s).length, part := 0, step := 0, held := false,
                               requester := 1, errSeq := s.errs.head }
      (overCap s (r.rung + 1) = false → ∃ t, exec .rungTimeout s = .next t ∧ LogsOne s t 0x0064 (r.rung + 1) none 0 r.rung
        ∧ begins (s.logged t) t n)
      ∧ (overCap s (r.rung + 1) = true → ∃ t, exec .rungTimeout s = .next t ∧ LogsOne s t 0x0064 8 none 0 r.rung
        ∧ fences (s.logged t) t n ∧ t.rung = some { n with held := true, step := 1 } ∧ t.dump = s.dump
        ∧ t = { s.logged t with ctxs := t.ctxs, queues := t.queues, slices := t.slices, host := t.host, rung := t.rung }))

/-- TRIGGER, with no dump being collected and the last one read, begins a collection with the time, the log and its head;
with one unread that may not be overwritten it is counted as not taken. A core or slice that does not answer while a
dump is collected is logged as ERR_DUMP_SKIP and its later sections are empty. ACK clears UNREAD. A read of
UM_DUMP_DATA gives the next four bytes and advances the offset by 4, and nothing beyond LEN. A core in service that
fails a check (1 or 3), lets its watchdog expire (2) or differs from its image (4) while another is left logs ERR_CORE
with its unit, and its context where it held one command, ends that command with ST_HW_ERROR and is OFFLINE. A sample
of the hang detector in READY without a new cycle or a newly frozen command classes the admitted commands, notes the
replies posted and keeps the cycles that still stand. -/
def Obligations.dumps_cores_hangs : Prop :=
  ∀ s : State, s.sup.halted = false →
    (Serves s 0x2084 → let a := s.accessed
      (a.dump.collect = none → a.dump.unread = false → exec .dumpTrigger s = .next { a with dump := { a.dump with
        silent := []
        collect := some { time := a.cycle, head := a.errs.head, log := a.errs.slots, rung := 0, part := 0, errSeq := noSeq } } })
      ∧ (a.dump.collect = none → a.dump.unread = true → rdb Reg.DUMP_CFG_OVERWRITE 0 a = false →
        ∃ t, exec .dumpTrigger s = .next t ∧ rd Reg.DUMP_SKIP_CNT_COUNT 0 t
          = satAdd Reg.DUMP_SKIP_CNT_COUNT.width (rd Reg.DUMP_SKIP_CNT_COUNT 0 a) 1
        ∧ RegsKept a t [Reg.DUMP_SKIP_CNT_COUNT.key 0] ∧ t = { a with regs := t.regs })
      ∧ exec .dumpAck s = .next { a with dump := { a.dump with unread := false } })
    ∧ (Serves s 0x20A4 → let a := s.accessed
      let o := rd Reg.DUMP_OFFSET_OFFSET 0 a
      (o < a.dump.len → ∃ t, exec .dumpDataRead s = .next t ∧ t.bus.rdata = fromLE ((a.dump.bytes.drop o).take 4)
        ∧ rd Reg.DUMP_OFFSET_OFFSET 0 t = (o + 4) % 2 ^ Reg.DUMP_OFFSET_OFFSET.width
        ∧ RegsKept a t [Reg.DUMP_OFFSET_OFFSET.key 0]
        ∧ t = { a with regs := t.regs, bus := { a.bus with rdata := t.bus.rdata } })
      ∧ (a.dump.len ≤ o → exec .dumpDataRead s = .next { a with bus := { a.bus with rdata := 0 } }))
    ∧ (∀ u : UnitId, s.dump.collect ≠ none → isUnit u.toNat = true → u.toNat / 4096 = 1 ∨ u.toNat / 4096 = 2 → u ∉ s.dump.silent →
      ∃ t, exec (.dumpSkip u) s = .next t ∧ LogsOne s t 0x0063 0 none u.toNat (s.dump.taken % 2 ^ 32)
        ∧ t = { s.logged t with dump := { s.dump with silent := s.dump.silent ++ [u] } })
    ∧ (∀ (p : BitVec 4) i k pos, p.toNat < 9 →
      (i, k) ∈ [(Instr.coreFault p 1#4, 1), (.coreFault p 3#4, 3), (.coreWatchdogExpiry p, 2), (.coreImageCheck [p.toNat], 4)] →
      let u := unitId 2 p.toNat
      (unit s u).st = .active → servedBy s u = some pos →
      (∃ q, q < 9 ∧ q ≠ p.toNat ∧ ((unit s (unitId 2 q)).st = .active ∨ (unit s (unitId 2 q)).st = .standby)) →
      let gone := fun (t : State) => unit t u = { unit s u with st := .offline } ∧ (∀ w, w ≠ u → unit t w = unit s w)
      (heldBy s p.toNat = [] → k ≠ 2 → ∃ t, exec i s = .next t ∧ LogsOne s t 0x0060 (takeover s 2 pos) none u k ∧ gone t
        ∧ t = { s.logged t with units := { s.units with st := t.units.st } })
      ∧ (∀ c, heldBy s p.toNat = [c] → cmd? s c.id = some c → ∃ t, exec i s = .next t
        ∧ LogsOne s t 0x0060 (takeover s 2 pos) (some c.ctx) u k ∧ gone t
        ∧ OneCmd s t c.id (c.endedWith (.hwError, s.errs.head % 2 ^ 32, 0))
        ∧ t = { s.logged t with cmds := t.cmds, units := { s.units with st := t.units.st } }))
    ∧ (isReady s = true → newCycles s = [] → newFrozen s = [] → ∃ t, exec .hangSample s = .next t ∧ t.hang.nodes = classed s
      ∧ t.hang.lastReplies = s.hang.replies ∧ t.hang.quiet = quietSamples s ∧ t.hang.replies = s.hang.replies
      ∧ (∀ l, l ∈ t.hang.cycles ↔ l ∈ s.hang.cycles ∧ ∀ e ∈ l, ∃ c, cmd? s e.1 = some c ∧ c.progress = e.2)
      ∧ t = { s with regs := t.regs, hang := t.hang })
    ∧ (isReady s = false → exec .hangSample s = .next s)

/-- A mapping epoch with one position to fill counts the epoch and makes the first unit that stands by for it ACTIVE
there; with none it changes nothing. OFFLINE of an active unit whose position a unit can take makes it OFFLINE, a
slice leaving at the next reset of its partition, and any other existing unit is refused. RESTORE takes an OFFLINE
unit into SCRUB, PREFER marks a STANDBY slice. After its scrub a unit is in SELFTEST with cleared state: a slice empty
but for its transpose buffer's failure, a memory unit zeroed and unpoisoned with its counts cleared. A self-test that
passes puts it in STANDBY, a memory unit poisoned; one that fails counts and leaves it OFFLINE, or FAILED at the
limit, and logs ERR_TXB and sets TXB_FAIL for a transpose buffer. No other unit changes. -/
def Obligations.units_and_epochs : Prop :=
  ∀ s : State, s.sup.halted = false →
    let others := fun (a t : State) (u : Nat) => ∀ w, w ≠ u → unit t w = unit a w
    let units := fun (a t : State) => { a.units with st := t.units.st }
    (openPositions s = [] → exec .mappingEpoch s = .next s)
    ∧ (∀ k i p ps, openPositions s = [(k, i)] → vacant s k i = true → spares s k i = p :: ps →
      ∃ t, exec .mappingEpoch s = .next t ∧ rd Reg.MAP_EPOCH_EPOCH 0 t = satAdd 32 (rd Reg.MAP_EPOCH_EPOCH 0 s) 1
        ∧ unit t (unitId k p) = { unit s (unitId k p) with st := .active, prefer := false } ∧ others s t (unitId k p)
        ∧ physOf t k i = some p
        ∧ (∀ j, j ≠ unitId k i → Sparse.get Pos.own t.units.pos j = Sparse.get Pos.own s.units.pos j)
        ∧ (k = 2 ∨ k = 3 → RegsKept s t [Reg.MAP_EPOCH_EPOCH.key 0] ∧ t = { s with regs := t.regs, units := t.units }))
    ∧ (Serves s 0x20C8 → let a := s.accessed
      let u := selUnit a
      let ok := (unit a u).st = .active ∧ (u / 4096 = 5 ∨ ∃ i, servedBy a u = some i ∧ spares a (u / 4096) i ≠ [])
      isUnit u = true →
      (ok → u / 4096 ≠ 1 → ∃ t, exec .unitOffline s = .next t ∧ unit t u = { unit a u with st := .offline } ∧ others a t u
        ∧ t = { a with units := units a t })
      ∧ (ok → u / 4096 = 1 → ∃ t, exec .unitOffline s = .next t ∧ unit t u = { unit a u with leaving := true } ∧ others a t u
        ∧ t = { a with units := units a t })
      ∧ (¬ ok → ∃ t, exec .unitOffline s = .next t ∧ rd Reg.UNIT_STAT_REFUSED u t = 1 ∧ RegsKept a t [Reg.UNIT_STAT_REFUSED.key u]
        ∧ t = { a with regs := t.regs })
      ∧ ((unit a u).st = .offline → ∃ t, exec .unitRestore s = .next t ∧ unit t u = { unit a u with st := .scrub } ∧ others a t u
        ∧ t = { a with units := units a t })
      ∧ ((unit a u).st ≠ .offline → exec .unitRestore s = .next a)
      ∧ (u / 4096 = 1 → (unit a u).st = .standby → ∃ t, exec .unitPrefer s = .next t
        ∧ unit t u = { unit a u with prefer := true } ∧ others a t u ∧ t = { a with units := units a t })
      ∧ (u / 4096 ≠ 1 ∨ (unit a u).st ≠ .standby → exec .unitPrefer s = .next a))
    ∧ (∀ id : UnitId, let u := id.toNat
      let k := u / 4096
      let i := u % 4096
      let lo := if k = 6 then vaultKey i 0 else channelKey i 0
      let hi := if k = 6 then vaultKey i (3 * 2 ^ 26) else channelKey i (2 ^ 31)
      ((unit s u).st = .scrub → ∃ t, exec (.unitScrubDone id) s = .next t ∧ unit t u = { unit s u with st := .selftest }
        ∧ others s t u
        ∧ (k = 1 → slice t i = { txbFail := (slice s i).txbFail } ∧ (∀ j, j ≠ i → slice t j = slice s j) ∧ t = { s with units := units s t, slices := t.slices })
        ∧ (k = 6 ∨ k = 7 → memUnit t u = { memUnit s u with found := [], ues := 0 } ∧ (∀ j, j ≠ u → memUnit t j = memUnit s j)
          ∧ (∀ e, e ∈ t.tiers.dram ↔ e ∈ s.tiers.dram ∧ (e.1 < lo ∨ hi ≤ e.1))
          ∧ (∀ e, e ∈ t.tiers.poison ↔ e ∈ s.tiers.poison ∧ (e.1 < lo ∨ hi ≤ e.1))
          ∧ t = { s with units := units s t, mems := t.mems,
                         tiers := { s.tiers with dram := t.tiers.dram, poison := t.tiers.poison } })
        ∧ (k ≠ 1 → k ≠ 6 → k ≠ 7 → t = { s with units := units s t }))
      ∧ ((unit s u).st = .selftest → (∃ t, exec (.selftestDone id true) s = .next t
          ∧ unit t u = { unit s u with st := .standby } ∧ others s t u
          ∧ t.tiers.poison = (if k = 6 ∨ k = 7 then [(lo, hi)] else []) ++ s.tiers.poison
          ∧ t = { s with units := units s t, tiers := { s.tiers with poison := t.tiers.poison } })
        ∧ (∃ t, exec (.selftestDone id false) s = .next t ∧ others s t u
          ∧ unit t u = { unit s u with
              fails := (unit s u).fails + 1
              st := if (unit s u).fails + 1 ≥ rd Reg.UNIT_CFG_MAX_TRIES 0 s then .failed else .offline }
          ∧ (k = 4 → LogsOne s t 0x0050 7 none u 0 ∧ slice t i = { slice s i with txbFail := true } ∧ ∀ j, j ≠ i → slice t j = slice s j)
          ∧ (k ≠ 4 → t = { s with units := units s t, regs := t.regs, ret := t.ret, repair := t.repair,
                                  tiers := { s.tiers with poison := t.tiers.poison } }))))

/-- A scrub pass of a serving vault that finds nothing begins a new period of its counts, and vault 0 those of the
channels; one corrected error below the threshold is counted. A vault past its error limit (cause 2), or with a queued
row without spare (3), logs ERR_VAULT with the takeover, logical vault and cause, and is OFFLINE; a channel that does
not answer, on which no fetch waits, logs ERR_CHANNEL and is OFFLINE. A cistern vault takes the refresh band of its
temperature; a stack's channels take the rate they are given, and no other unit changes. START of an allowed, free and
well configured exerciser notes its range, shows BUSY and clears its results; otherwise it shows REFUSED. A finished
run poisons its range, ends BUSY, sets DONE, and shows its results and cycles; of a sequential write and read with a
defined pattern these are: PASS where no word of the range differs, the number that do (32 bits at most), the lowest
of them with the expected word XOR the word read, and twice the range in bytes. -/
def Obligations.memory_health : Prop :=
  ∀ s : State, s.sup.halted = false →
    (∀ v : BitVec 9, let u := unitId 6 v.toNat
      v.toNat < 260 → rdb Reg.CIST_SCRUB_EN 0 s = true → unitServes s u = true → Sparse.wf {} s.mems = true →
      (∃ t, exec (.cisternScrub v []) s = .next t ∧ memUnit t u = { memUnit s u with found := [], ues := 0 }
        ∧ (∀ j, j ≠ u → memUnit t j = if v = 0 ∧ j / 4096 = 7 then { memUnit s j with found := [], ues := 0 } else memUnit s j)
        ∧ t = { s with mems := t.mems })
      ∧ (∀ f, f.uncorrected = false →
        Sparse.get 0 (memUnit s u).found (rowKey f.bank.toNat f.row.toNat) + f.corrected < rd Reg.CIST_SCRUB_THRESH 0 s →
        ∃ t, exec (.cisternScrub v [f]) s = .next t
          ∧ rd Reg.MEM_ECC_CE_CNT_COUNT u t = satAdd 32 (rd Reg.MEM_ECC_CE_CNT_COUNT u s) f.corrected
          ∧ RegsKept s t [Reg.MEM_ECC_CE_CNT_COUNT.key u] ∧ t = { s with mems := t.mems, regs := t.regs }))
    ∧ (∀ (v : BitVec 9) (c : BitVec 2), let u := unitId 6 v.toNat
      let l := logicalVault s v.toNat
      v.toNat < 260 → unitServes s u = true →
      c = 2 ∧ rd Reg.CIST_SCRUB_VAULT_UE_LIMIT 0 s < (memUnit s u).ues ∨ c = 3 ∧ queuedShort s v.toNat = true →
      ∃ t, exec (.vaultOut v c) s = .next t ∧ LogsOne s t 0x0023 (takeover s 6 l) none u (l + c.toNat * 2 ^ 8)
        ∧ unit t u = { unit s u with st := .offline } ∧ (∀ w, w ≠ u → unit t w = unit s w)
        ∧ t = { s.logged t with units := { s.units with st := t.units.st } })
    ∧ (∀ ch : BitVec 8, let u := unitId 7 ch.toNat
      unitServes s u = true → waitingIn s u = [] → (∀ f ∈ s.fetches, fetchIn s u f = false) →
      ∃ t, exec (.channelOut ch) s = .next t ∧ LogsOne s t 0x0024 7 none u 0
        ∧ unit t u = { unit s u with st := .offline } ∧ (∀ w, w ≠ u → unit t w = unit s w)
        ∧ t = { s.logged t with units := { s.units with st := t.units.st } })
    ∧ (∀ v : BitVec 9, let u := unitId 6 v.toNat
      v.toNat < 260 → ∃ t, exec (.cisternRefresh v) s = .next t
        ∧ memUnit t u = { memUnit s u with band := bandFor (filtered s 1 v.toNat) (memUnit s u).band }
        ∧ (∀ w, w ≠ u → memUnit t w = memUnit s w) ∧ t = { s with mems := t.mems })
    ∧ (∀ k r : BitVec 3, ∃ t, exec (.hbmRefresh k r) s = .next t ∧ t = { s with mems := t.mems }
      ∧ (∀ j, j < 32 → memUnit t (unitId 7 (32 * k.toNat + j)) = { memUnit s (unitId 7 (32 * k.toNat + j)) with rate := r.toNat })
      ∧ (∀ w, (∀ j, j < 32 → w ≠ unitId 7 (32 * k.toNat + j)) → memUnit t w = memUnit s w))
    ∧ (Serves s 0x104C → let a := s.accessed
      let u := selExer a
      isUnit u = true →
      let ok := exerAllowed a u = true ∧ (memUnit a u).exer = none ∧ exerBadCfg a u = false
      (ok → ∃ t, exec .exerStart s = .next t ∧ memUnit t u = { memUnit a u with exer := some (exerRange a u) }
        ∧ (∀ w, w ≠ u → memUnit t w = memUnit a w) ∧ rd Reg.EXER_STAT_BUSY u t = 1
        ∧ (∀ f ∈ [Reg.EXER_ERR_CNT_COUNT, Reg.EXER_ERR_ADDR_ADDR, Reg.EXER_ERR_XOR_XOR, Reg.EXER_BYTES_BYTES, Reg.EXER_CYCLES_CYCLES,
            Reg.EXER_STAT_DONE, Reg.EXER_STAT_PASS], rd f u t = 0)
        ∧ RegsKept a t ([Reg.EXER_ERR_CNT_COUNT, Reg.EXER_ERR_ADDR_ADDR, Reg.EXER_ERR_XOR_XOR, Reg.EXER_BYTES_BYTES,
            Reg.EXER_CYCLES_CYCLES, Reg.EXER_STAT_DONE, Reg.EXER_STAT_PASS, Reg.EXER_STAT_BUSY].map fun f => f.key u)
        ∧ t = { a with mems := t.mems, regs := t.regs })
      ∧ (¬ ok → ∃ t, exec .exerStart s = .next t ∧ rd Reg.EXER_STAT_REFUSED u t = 1 ∧ RegsKept a t [Reg.EXER_STAT_REFUSED.key u]
        ∧ t = { a with regs := t.regs }))
    ∧ (∀ (k : BitVec 1) (i : BitVec 9) (x : ExerResult) b n, let u := unitId (6 + k.toNat) i.toNat
      let lo := if k = 0 then vaultKey i.toNat b else channelKey i.toNat b
      let p := rd Reg.EXER_CFG_DATA u s
      let want := fun (e : Word × Word) => exerWord p (rd Reg.EXER_SEED_SEED u s) e.1.toNat 0
      let met := x.faults.filter fun e =>
        e.1.toNat % 4 == 0 && decide (b ≤ e.1.toNat) && decide (e.1.toNat < b + n) && e.2.toNat != want e
      (memUnit s u).exer = some (b, n) →
      ∃ t, exec (.exerDone k i x) s = .next t ∧ memUnit t u = { memUnit s u with exer := none }
        ∧ (∀ w, w ≠ u → memUnit t w = memUnit s w) ∧ t.tiers.poison = (lo, lo + n) :: s.tiers.poison
        ∧ rd Reg.EXER_STAT_BUSY u t = 0 ∧ rd Reg.EXER_STAT_DONE u t = 1 ∧ rd Reg.EXER_CYCLES_CYCLES u t = x.cycles.toNat
        ∧ (∀ e ∈ exerResults s u b n x, rd e.1 u t = e.2 % 2 ^ e.1.width)
        ∧ (rd Reg.EXER_CFG_ORDER u s = 0 → rd Reg.EXER_CFG_OPS u s = 0 → p ≤ 5 → n % 32 = 0 → n < 2 ^ 32 →
          rd Reg.EXER_STAT_PASS u t = b2n met.isEmpty ∧ rd Reg.EXER_ERR_CNT_COUNT u t = min met.length (2 ^ 32 - 1)
          ∧ rd Reg.EXER_BYTES_BYTES u t = 2 * n
          ∧ (met = [] → rd Reg.EXER_ERR_ADDR_ADDR u t = 0 ∧ rd Reg.EXER_ERR_XOR_XOR u t = 0)
          ∧ (met ≠ [] → ∃ e ∈ met, (∀ g ∈ met, e.1.toNat ≤ g.1.toNat) ∧ rd Reg.EXER_ERR_ADDR_ADDR u t = e.1.toNat
            ∧ rd Reg.EXER_ERR_XOR_XOR u t = (want e ^^^ e.2.toNat) % 2 ^ 32))
        ∧ t = { s with mems := t.mems, regs := t.regs, tiers := { s.tiers with poison := t.tiers.poison },
                       freeCtr := if p ≤ 5 then s.freeCtr else s.freeCtr + 1 })

/-- For every queue that is not DISABLED, every value and every access size, a write to an offset of UM_Q_BASE,
UM_Q_REPLY_BASE or UM_Q_CFG of that queue leaves its command ring, its reply ring and its configuration as they were;
where the aperture serves the access and it is aligned, the write changes nothing at all but what every served access
does (it wakes the engine and lowers NT_ERR). -/
def Obligations.queue_setup_locked : Prop :=
  ∀ (s : State) (q : QueueNo) (off : Offset) (size : Nat) (v : Dword), let o := off.toNat
    let w := queue s q.toNat
    w.st ≠ .disabled → (0x4000 + 16 * q.toNat ≤ o ∧ o < 0x4010 + 16 * q.toNat ∨ 0x8018 + 32 * q.toNat ≤ o ∧ o < 0x801C + 32 * q.toNat) →
    (∃ t, exec (.registerWrite off size v) s = .next t ∧ (queue t q.toNat).base = w.base
      ∧ (queue t q.toNat).replyBase = w.replyBase ∧ (queue t q.toNat).cfg = w.cfg)
    ∧ (Serves s o → accessOk o size = true → exec (.registerWrite off size v) s = .next s.accessed)

/-- A served, aligned access to words of the aperture that no field of a register covers (outside the key hashes, the
stream indices, the error log window and the NQN words, and below the queue arrays) changes nothing but what every
served access does: a write is ignored, a read returns zero; NT_ERR is low and no error record is written. -/
def Obligations.empty_offsets : Prop :=
  ∀ (s : State) (off : Offset) (size : Nat) (v : Dword), let o := off.toNat
    let empty := fun (k : Nat) => k < 0x4000 ∧ fieldsOf k = [] ∧ ¬ (0x0300 ≤ k ∧ k < 0x03C0) ∧ ¬ (0x1C14 ≤ k ∧ k < 0x1C2C)
      ∧ ¬ (0x2020 ≤ k ∧ k < 0x2040)
    Serves s o → accessOk o size = true → empty o → (size = 8 → empty (o + 4)) →
    exec (.registerWrite off size v) s = .next s.accessed
    ∧ exec (.rcRegisterRead off size) s = .next { s.accessed with bus := { s.accessed.bus with rdata := 0 } }
    ∧ (size = 4 → exec (.multiwordLowRead off) s = .next { s.accessed with bus := { s.accessed.bus with rdata := 0 } })

/-- A served 4-byte write to a register of one field in its word that starts no action: a read-write field takes the value
cut to its width where its rule allows it, other fields and registers are unchanged; a read-only, clear-on-read or
write-only field ignores it; a write-1-to-clear field clears where the bit is 1. A served 4-byte read of a word that
is not a later word of a multi-word register returns the word, latches the later words of a multi-word read-only or
clear-on-read register and clears a clear-on-read field; a read of a later word returns what was latched and changes
nothing. An access of another size or alignment returns zero with NT_ERR and has no effect. In U3 a write that is not
served is counted. -/
def Obligations.aperture_accesses : Prop :=
  ∀ s : State, s.sup.halted = false → ∀ (off : Offset) (v : Dword), let o := off.toNat
    (∀ size, accessOk o size = false → exec (.registerWrite off size v) s = .next { s with bus := { s.bus with rdata := 0, err := true } }
      ∧ exec (.rcRegisterRead off size) s = .next { s with bus := { s.bus with rdata := 0, err := true } })
    ∧ (∀ f i, Serves s o → o % 4 = 0 → o < 0x4000 → fieldsOf o = [f] → f.off = o → f.lsb = 0 → f.width ≤ 32 → (∀ u n, wordAction o n u = u) →
      let a := s.accessed
      let n := v.toNat % 2 ^ 32
      selObj a f.sel = some i →
      (f.acc = .rw → taken a f i (n % 2 ^ f.width) = .yes → ∃ t, exec (.registerWrite off 4 v) s = .next t
        ∧ rd f i t = n % 2 ^ f.width ∧ RegsKept a t [f.key i] ∧ t = { a with regs := t.regs })
      ∧ (f.acc = .rw → taken a f i (n % 2 ^ f.width) = .no → exec (.registerWrite off 4 v) s = .next a)
      ∧ (f.acc = .ro ∨ f.acc = .rc ∨ f.acc = .wo → exec (.registerWrite off 4 v) s = .next a)
      ∧ (f.acc = .w1c → f.width = 1 → (n % 2 = 0 → exec (.registerWrite off 4 v) s = .next a)
        ∧ (n % 2 = 1 → ∃ t, exec (.registerWrite off 4 v) s = .next t ∧ rd f i t = 0 ∧ RegsKept a t [f.key i]
          ∧ t = { a with regs := t.regs }))
      ∧ (f.acc = .rc → shown a f i = none → highWords o = [] → ∃ t, exec (.rcRegisterRead off 4) s = .next t ∧ t.bus.rdata = rd f i a % 2 ^ f.width
        ∧ rd f i t = 0 ∧ RegsKept a t [f.key i] ∧ t = { a with regs := t.regs, bus := { a.bus with rdata := t.bus.rdata } }))
    ∧ (Serves s o → o % 4 = 0 → isHigh o = false → ∃ t, exec (.multiwordLowRead off) s = .next t
      ∧ exec (.rcRegisterRead off 4) s = .next t ∧ t.bus.rdata = liveWord (wakeUp s) o
      ∧ (∀ k ∈ highWords o, Sparse.get 0 t.bus.latch k = liveWord (wakeUp s) k)
      ∧ (∀ k, k ∉ highWords o → Sparse.get 0 t.bus.latch k = Sparse.get 0 s.bus.latch k) ∧ t.bus.err = false
      ∧ t = { wakeUp s with regs := t.regs, queues := t.queues, bus := { s.bus with rdata := t.bus.rdata, err := false, latch := t.bus.latch } })
    ∧ (Serves s o → o % 4 = 0 → isHigh o = true → exec (.multiwordLowRead off) s =
      .next { s.accessed with bus := { s.accessed.bus with rdata := Sparse.get 0 s.bus.latch o } })
    ∧ (∀ size, accessOk o size = true → size = 4 → served s o = false → rung4Runs s = false → asleep s = true →
      ∃ t, exec (.registerWrite off size v) s = .next t
        ∧ rd Reg.SUP_PSTATE_STAT_ASLEEP_CNT 0 t
          = satAdd Reg.SUP_PSTATE_STAT_ASLEEP_CNT.width (rd Reg.SUP_PSTATE_STAT_ASLEEP_CNT 0 s) 1
        ∧ RegsKept s t [Reg.SUP_PSTATE_STAT_ASLEEP_CNT.key 0] ∧ t = { s with regs := t.regs })

/-- A served LOAD outside FW_WAIT only shows REFUSED. In FW_WAIT it shows the result of the checks: an image that passes
is stored and start-up enters CORES; another is counted and the phase stays. COMMIT_SVN raises MIN_SVN to the running
image's SVN and writes the security region, where there is an image and no retention write runs. A key revocation in
READY that leaves another key usable and does not revoke the running image's key is taken and written likewise; any
other is ignored. A retention write that ends stores its region and counts it, one that fails shows the region and
leaves the copy before it; the next write then runs. -/
def Obligations.firmware_and_retention : Prop :=
  ∀ s : State, s.sup.halted = false →
    (∀ m noc, Serves s 0x28 → let a := s.accessed
      let r := checkImage a m noc
      (phaseOf a ≠ 2 → ∃ t, exec (.fwLoad m noc) s = .next t ∧ rd Reg.FW_STAT_REFUSED 0 t = 1
        ∧ RegsKept a t [Reg.FW_STAT_REFUSED.key 0] ∧ t = { a with regs := t.regs })
      ∧ (phaseOf a = 2 → ∃ t, exec (.fwLoad m noc) s = .next t ∧ rd Reg.FW_STAT_RESULT 0 t = r
        ∧ (r = 1 → t.fw.image = some (storedImage m) ∧ phaseOf t = 4
          ∧ RegsKept a t [Reg.FW_STAT_RESULT.key 0, Reg.BOOT_STAT_PHASE.key 0]
          ∧ t = { a with regs := t.regs, fw := { a.fw with image := t.fw.image } })
        ∧ (r ≠ 1 → rd Reg.FW_FAIL_CNT_COUNT 0 t = satAdd Reg.FW_FAIL_CNT_COUNT.width (rd Reg.FW_FAIL_CNT_COUNT 0 a) 1
          ∧ RegsKept a t [Reg.FW_STAT_RESULT.key 0, Reg.FW_FAIL_CNT_COUNT.key 0] ∧ t = { a with regs := t.regs })))
    ∧ (Serves s 0x28 → let a := s.accessed
      (∀ m, a.fw.image = some m → retBusy a = false → exec .commitSvn s = .next { a with
        fw := { a.fw with sec := { a.fw.sec with minSvn := max a.fw.sec.minSvn m.svn } }, ret := { a.ret with writing := [2] } })
      ∧ (a.fw.image = none ∨ retBusy a = true → exec .commitSvn s = .next a))
    ∧ (∀ k : BitVec 2, Serves s 0x34 → let a := s.accessed
      (revokeOk a k.toNat = true → ∃ t, exec (.fwKeyRevoke k) s = .next t
        ∧ (∀ j, j ∈ t.fw.sec.revoked ↔ j = k.toNat ∨ j ∈ a.fw.sec.revoked) ∧ (∃ m, t.fw.image = some m ∧ m.key ≠ k.toNat)
        ∧ (∃ j, j < 4 ∧ j ∉ t.fw.sec.revoked) ∧ t.ret.writing = [2]
        ∧ t = { a with fw := { a.fw with sec := { a.fw.sec with revoked := t.fw.sec.revoked } }
                       ret := { a.ret with writing := t.ret.writing } })
      ∧ (revokeOk a k.toNat = false → exec (.fwKeyRevoke k) s = .next a))
    ∧ (∀ r rest, s.ret.writing = r :: rest →
      (∃ t, exec (.retentionWriteDone true) s = .next t ∧ t.ret.writing = rest
        ∧ t.ret.sec = (if r = 2 then s.fw.sec else s.ret.sec) ∧ t.ret.repair = (if r = 3 then s.ret.staged else s.ret.repair)
        ∧ (∀ i, 1 ≤ r → t.ret.counts[i]? = (s.ret.counts[i]?).map fun n => if i + 1 = r then n + 1 else n)
        ∧ t.ret.recs = s.ret.recs ∧ t = { s with ret := t.ret })
      ∧ (∃ t, exec (.retentionWriteDone false) s = .next t ∧ rd Reg.RET_STAT_FAILED_REGION 0 t = r % 2 ^ Reg.RET_STAT_FAILED_REGION.width
        ∧ RegsKept s t [Reg.RET_STAT_FAILED_REGION.key 0] ∧ t = { s with regs := t.regs, ret := { s.ret with writing := rest } }))
    ∧ (s.ret.writing = [] → ∀ ok, exec (.retentionWriteDone ok) s = .next s)

/-- PWR_GOOD rising starts the cycle count, takes the retention store's repair maps and security state and, unless the
supervisor clock failed, enters MEMORY, or FAULT where the configuration region of the retention store fails its check
(with ERR 1), the rail fails or VFLOOR lies above its absolute maximum; when it falls, memory beyond the engine, the
host and flash tiers, the retention store and the keys remain, and everything else is as at reset. MEMORY zeroes the
DRAM and enters FAULT with fewer than 16 slices, CORES with an image, else FW_WAIT. CORES with an active core and no
failure opens context 0 under its next generation. READY follows once context 0 is open. A restart after a chip reset
keeps the DRAM, and where MEMORY and CORES succeed ends in READY with the reset done; without an image it waits for
one. A failed rim reference takes its two ports down. -/
def Obligations.startup_phases : Prop :=
  ∀ s : State,
    (s.pins.pwrGood = true → (∀ ok, exec (.pwrGoodRise ok) s = .next s)
      ∧ ∃ t, exec .pwrGoodFall s = .next t ∧ t.pins = { s.pins with pwrGood := false, vregTries := [] } ∧ t.mem = s.mem
        ∧ t.tiers.host = s.tiers.host ∧ t.tiers.flash = s.tiers.flash ∧ t.tiers.dram = [] ∧ t.ret.sec = s.ret.sec
        ∧ t.ret.repair = s.ret.repair ∧ t.ret.recs = s.ret.recs ∧ t.ret.ageing = s.ret.ageing ∧ t.ret.writing = []
        ∧ t.fw.sec = s.ret.sec ∧ t.fw.keys = s.fw.keys ∧ t.fw.image = none
        ∧ t = { State.reset with pending := s.pending, freeCtr := s.freeCtr, sent := s.sent, mem := t.mem, tiers := t.tiers,
                                 ret := t.ret, fw := t.fw, pins := t.pins })
    ∧ (s.pins.pwrGood = false → exec .pwrGoodFall s = .next s
      ∧ (s.pins.supFail = true → ∀ ok, exec (.pwrGoodRise ok) s =
          .next { s with pins := { s.pins with pwrGood := true }, cycle := 0 })
      ∧ (s.pins.supFail = false → ∀ ok, ∃ t, exec (.pwrGoodRise ok) s = .next t ∧ t.pins.pwrGood = true ∧ t.cycle = 0
        ∧ t.repair = s.ret.repair ∧ t.fw = { s.fw with sec := s.ret.sec } ∧ t.mem = s.mem ∧ t.tiers = s.tiers ∧ t.cmds = s.cmds
        ∧ (s.ret.cfgValid = false → rd Reg.BOOT_STAT_ERR 0 t = 1)
        ∧ phaseOf t = (if s.ret.cfgValid = false ∨ ok = false ∨ rd Reg.SUP_AGE_STAT_VFLOOR 0 t > rd Reg.RET_CFG_VOLT_V_ABS_MAX 0 t then 7 else 1)))
    ∧ (s.sup.halted = false →
      (phaseOf s = 1 → s.rung = none → ∀ bad, ∃ t, exec (.memoryPhase bad) s = .next t ∧ t.tiers.dram = []
        ∧ phaseOf t = (if goodSlices t < 16 then 7 else if s.fw.image.isSome then 4 else 2) ∧ t.fw = s.fw ∧ t.mem = s.mem
        ∧ t.tiers.host = s.tiers.host ∧ t.tiers.flash = s.tiers.flash ∧ t.ctxs = s.ctxs ∧ t.tables = s.tables ∧ t.cmds = s.cmds)
      ∧ (phaseOf s = 4 →
        ((ctx s 0).st ≠ .opened → (∃ p, p < 9 ∧ (unit s (unitId 2 p)).st = .active) →
          ∃ t, exec (.coresPhase []) s = .next t
            ∧ ctx t 0 = { st := .opened, kind := 2, gen := ((ctx s 0).gen + 1) % 2 ^ 32, seq := (ctx s 0).seq, tags := (ctx s 0).tags }
            ∧ (∀ k, k ≠ 0 → ctx t k = ctx s k) ∧ t = { s with ctxs := t.ctxs, units := t.units })
        ∧ ((ctx s 0).st = .opened → s.rung = none → ∃ t, exec .ready s = .next t ∧ phaseOf t = 5 ∧ t.arb.used = false
          ∧ RegsKept s t [Reg.BOOT_STAT_PHASE.key 0] ∧ t.sent = (if s.i3c.events then [.ibi 3] else []) ++ s.sent
          ∧ t = { s with regs := t.regs, arb := { s.arb with used := false }, sent := t.sent }))
      ∧ (∀ r bad, s.rung = some r → r.rung = 4 → r.step = 7 → phaseOf s = 1 →
        let m := afterMemory (reuseImage r (runMemory bad false s))
        let u := runCores bad m
        (phaseOf m ≠ 4 → ∃ t, exec (.chipRestart bad) s = .next t ∧ phaseOf t = (if goodSlices t < 16 then 7 else 2)
          ∧ t.tiers.dram = s.tiers.dram ∧ t.rung = some r)
        ∧ (phaseOf m = 4 → (ctx u 0).st = .opened → ∃ t, exec (.chipRestart bad) s = .next t ∧ phaseOf t = 5 ∧ t.rung = none
          ∧ t.tiers.dram = s.tiers.dram ∧ t.mem = s.mem ∧ t.arb.used = false))
      ∧ (∃ t, exec (.refclkFail .rim0) s = .next t ∧ rd Reg.RIM_PORT_STAT_UP 0 t = 0 ∧ rd Reg.RIM_PORT_STAT_UP 1 t = 0
        ∧ RegsKept s t [Reg.RIM_PORT_STAT_UP.key 0, Reg.RIM_PORT_STAT_UP.key 1]
        ∧ t = { s with regs := t.regs, pins := { s.pins with rim0Fail := true } })
      ∧ (∃ t, exec (.refclkFail .rim1) s = .next t ∧ rd Reg.RIM_PORT_STAT_UP 2 t = 0 ∧ rd Reg.RIM_PORT_STAT_UP 3 t = 0
        ∧ RegsKept s t [Reg.RIM_PORT_STAT_UP.key 2, Reg.RIM_PORT_STAT_UP.key 3]
        ∧ t = { s with regs := t.regs, pins := { s.pins with rim1Fail := true } })
      ∧ exec (.refclkFail .sup) s = .next { s with pins := { s.pins with supFail := true } })

/-- With power good, a sample in its monitor's range that brings no trip enters the monitor's filter; outside U3, above
its throttle limit a temperature monitor starts to throttle and logs THROTTLE; a vault takes its band. The third
period without a sample fails a rim, rail or ageing monitor and logs MON_FAIL. A sample at the trip of a slice, vault
or stack saves the record, halts and asks for a power cycle. A droop event outside U3 stretches its slice; a droop
step goes when no slice is over RATE. A re-plan shows the floor and frequency (of unstated functions of the slack, log
entry 24) within VMAX and 1,000 MHz and its time, and keeps the slack. A low eye margin retrains the port, and after
three in an hour retires the pair with its record. HBM training changes nothing. A hold-up test shows C, V, E, WEAK
and FAIL. An unacknowledged regulator word of rail 0 or 1 is sent again three times, then logged as MON_FAIL. -/
def Obligations.supervisor_loops : Prop :=
  ∀ s : State, s.sup.halted = false →
    let sup := fun (n u v : Nat) => n % 2 ^ 16 + u % 2 ^ 16 * 2 ^ 16 + v % 2 ^ 32 * 2 ^ 32
    (s.pins.pwrGood = true →
      (∀ x v, let k := x.kind.toNat
        let i := x.index.toNat
        let m := mon s k i
        let val := fun (u : State) => filtered (setMon k i (m.valid k v) u) k i
        i < monCount k → x.value = some v → inRange k v = true → s.sup.stretched = [] →
        (k < 3 → val s < tripLimit k) →
        ∃ t, exec (.monitorSample [x]) s = .next t ∧ (mon t k i).samples = (v :: m.samples).take (monWindow k) ∧ (mon t k i).bad = 0
          ∧ (∀ j, j ≠ k * 512 + i → Sparse.get {} t.sup.mons j = Sparse.get {} s.sup.mons j)
          ∧ (asleep s = false → k ≤ 3 → throttleLimit s k < val s → m.throttled = false → (mon t k i).throttled = true
            ∧ LogsOne s t 0x0070 0 none 0 (sup 1 (monUnit k i) (supValue (val s))))
          ∧ (asleep s = false → k = 1 → memUnit t (unitId 6 i) = { memUnit s (unitId 6 i) with band := bandFor (val s) (memUnit s (unitId 6 i)).band })
          ∧ t = { s with regs := t.regs, errs := t.errs, bus := { s.bus with irq := t.bus.irq }, sent := t.sent, sup := t.sup,
                         pins := { s.pins with vregTries := t.pins.vregTries }, mems := t.mems,
                         host := { s.host with msixPending := t.host.msixPending } })
      ∧ (∀ x, let k := x.kind.toNat
        let i := x.index.toNat
        let m := mon s k i
        k = 3 ∨ k = 5 ∨ k = 6 → i < monCount k → x.value = none → m.bad = 2 → m.failed = false →
        ∃ t, exec (.monitorSample [x]) s = .next t ∧ (mon t k i).failed = true
          ∧ LogsOne s t 0x0070 0 none 0 (sup 4 (monUnit k i) 0) ∧ t.sup.halted = false)
      ∧ (∀ x v, let k := x.kind.toNat
        let i := x.index.toNat
        let m := mon s k i
        k < 3 → i < monCount k → x.value = some v → inRange k v = true → tripLimit k ≤ filtered (setMon k i (m.valid k v) s) k i →
        ∃ t, exec (.monitorSample [x]) s = .next t ∧ t.sup.halted = true ∧ t.i3c.cycleAsked = true
          ∧ (t.rung.map fun r => (r.rung, r.held)) = some (4, true))
      ∧ (∀ sl : BitVec 5, sl.toNat < 17 → asleep s = false → ∃ t, exec (.droopEvent sl) s = .next t ∧ t.sup.stretched = sl.toNat :: s.sup.stretched
        ∧ rd Reg.THROTTLE_STAT_CAUSE 0 t = throttleCause t % 64
        ∧ RegsKept s t [Reg.THROTTLE_STAT_CAUSE.key 0, Reg.THROTTLE_STAT_HBM_PCT.key 0, Reg.THROTTLE_STAT_CIST_PCT.key 0,
            Reg.THROTTLE_STAT_CLK_MHZ.key 0]
        ∧ t = { s with regs := t.regs, sup := { s.sup with stretched := t.sup.stretched } })
      ∧ (let w := worstSlack s
        let g := rd Reg.SUP_AGE_CFG_MARGIN_PCT 0 s
        ∃ t, exec .ageReplan s = .next t
          ∧ rd Reg.SUP_AGE_STAT_VFLOOR 0 t = min (5 * Config.vfloorCode w g) (rd Reg.SUP_VF_LIMIT_VMAX 0 s) % 2 ^ 10
          ∧ rd Reg.SUP_AGE_STAT_VFLOOR 0 t ≤ rd Reg.SUP_VF_LIMIT_VMAX 0 s ∧ rd Reg.SUP_AGE_STAT_FMAX 0 t ≤ 1000
          ∧ rd Reg.SUP_AGE_STAT_TIME 0 t = s.cycle % 2 ^ 64 ∧ t.ret.ageing = w.toList ++ s.ret.ageing ∧ 4 ∈ t.ret.writing
          ∧ t.sup.clk ≤ s.sup.clk ∧ t.mem = s.mem ∧ t.cmds = s.cmds ∧ t.tables = s.tables)
      ∧ (∀ d v, let c := if d = 0 then 65535 else min 65535 (100000000 / d)
        let n := 50 * (v * v - 3240000)
        let e := if d = 0 then 65535 else min 65535 (n / d)
        let weak := decide (100000000 < 3300 * d)
        let fail := decide (n < 6000 * d) || (mon s 7 0).failed
        ∃ t, exec (.holdTest d v) s = .next t ∧ rd Reg.SUP_HOLD_STAT_C_UF 0 t = c ∧ rd Reg.SUP_HOLD_STAT_V_MV 0 t = min 65535 v
          ∧ rd Reg.SUP_HOLD_STAT_E_UJ 0 t = e ∧ rd Reg.SUP_HOLD_STAT_WEAK 0 t = b2n weak ∧ rd Reg.SUP_HOLD_STAT_FAIL 0 t = b2n fail
          ∧ (weak = false → fail = false → t = { s with regs := t.regs })
          ∧ (weak = true → fail = false → LogsOne s t 0x0070 0 none 0 (sup 7 0x7000 c) ∧ t = s.logged t)
          ∧ (weak = false → fail = true → LogsOne s t 0x0070 0 none 0 (sup 8 0x7000 e) ∧ t = s.logged t)))
    ∧ ((∀ i, i < 17 → filtered s 4 i ≤ (rd Reg.SUP_DROOP_CFG_RATE 0 s : Int)) →
      exec .droopStepRemove s = .next { s with sup := { s.sup with droop := s.sup.droop - 1 } })
    ∧ (∀ (port : PortNo) (pair : BitVec 4) margin pos, let i := 9 * port.toNat + pair.toNat
      let u := unitId 8 i
      let recent := s.sup.retrains.filter fun e => decide (e.2 + hourCycles > s.cycle)
      let low := (recent.filter fun e => e.1 == i).length
      pair.toNat < 9 → rdb Reg.RIM_PORT_STAT_UP port.toNat s = true → servedBy s u = some pos →
      (rd Reg.SUP_EQ_CFG_RIM_MIN 0 s ≤ margin → exec (.rimEyeCheck port pair margin) s = .next s)
      ∧ (margin < rd Reg.SUP_EQ_CFG_RIM_MIN 0 s → ∃ t, exec (.rimEyeCheck port pair margin) s = .next t
        ∧ rd Reg.RIM_PORT_STAT_UP port.toNat t = 0
        ∧ rd Reg.RIM_PORT_STAT_RETRAINS port.toNat t = satAdd 16 (rd Reg.RIM_PORT_STAT_RETRAINS port.toNat s) 1
        ∧ (low < 3 → LogsOne s t 0x0070 0 none 0 (sup 6 u margin) ∧ t.sup.retrains = (i, s.cycle) :: recent
          ∧ t = { s.logged t with sup := { s.sup with retrains := t.sup.retrains } })
        ∧ (3 ≤ low → LogsOne s t 0x0034 (takeover s 8 pos) none u 0 ∧ unit t u = { unit s u with st := .offline }
          ∧ (∀ w, w ≠ u → unit t w = unit s w)
          ∧ t = { s.logged t with sup := { s.sup with retrains := t.sup.retrains }, units := { s.units with st := t.units.st } })))
    ∧ (∀ ch, exec (.hbmTraining ch) s = .next s)
    ∧ (∀ rail : BitVec 4, let r := rail.toNat
      let n := Sparse.get 0 s.pins.vregTries r
      (1 < r → exec (.vregWordUnacknowledged rail) s = .next s)
      ∧ (r ≤ 1 → n < 3 → ∃ t, exec (.vregWordUnacknowledged rail) s = .next t ∧ Sparse.get 0 t.pins.vregTries r = n + 1
        ∧ t = { s with sent := .vreg r (if r = 0 then coreWord s.sup.vset else 150) :: s.sent,
                       pins := { s.pins with vregTries := t.pins.vregTries } })
      ∧ (r ≤ 1 → 3 ≤ n → ∃ t, exec (.vregWordUnacknowledged rail) s = .next t ∧ Sparse.get 0 t.pins.vregTries r = 0
        ∧ LogsOne s t 0x0070 0 none 0 (sup 4 (monUnit 5 r) 0)
        ∧ t = { s.logged t with pins := { s.pins with vregTries := t.pins.vregTries } }))

/-- In READY outside U3, gating a running domain stops it: the engine is in U0 while a live domain runs, in U1 once all
have stopped, in U2 once every active slice is parked as well. A restart runs the domain again and unparks its slice.
An idle slice without records parks where parking is enabled: its gob buffer is lost, its basin and punty entries
stay. A served request for U3 in READY without a rung is refused with its reason, which is shown, where a queue,
descriptor, move, fold or unread dump stands against it; else the engine enters U3 with its queues, fetches and lehr
empty; both raise the in-band interrupt where enabled. A write of 0 wakes it. A second low sample of the supply saves
the record of cause 1 in the slot without the newest one and halts the supervisor; a single one is counted. -/
def Obligations.power_states : Prop :=
  ∀ s : State, s.sup.halted = false →
    let settled := fun (t : State) => s.sup.pstate ≠ 3 →
      rd Reg.SUP_PSTATE_STAT_STATE 0 t = t.sup.pstate
      ∧ (t.sup.pstate = 0 ↔ ∃ k ∈ liveDomains s, k ∉ t.sup.stopped)
      ∧ (t.sup.pstate = 2 ↔ (∀ k ∈ liveDomains s, k ∈ t.sup.stopped)
          ∧ ∀ i, i < 17 → (unit s (unitId 1 i)).st = .active → i ∈ t.sup.parked)
    let only := fun (t : State) => RegsKept s t [Reg.SUP_PSTATE_STAT_STATE.key 0]
      ∧ t.sup = { s.sup with pstate := t.sup.pstate, stopped := t.sup.stopped, parked := t.sup.parked }
    (∀ d, let k := domainKey d
      (isReady s = true → k ∉ s.sup.stopped → ∃ t, exec (.domainGate d) s = .next t ∧ t.sup.stopped = k :: s.sup.stopped
        ∧ t.sup.parked = s.sup.parked ∧ settled t ∧ only t ∧ t = { s with regs := t.regs, sup := t.sup })
      ∧ (k ∈ s.sup.stopped → ∃ t, exec (.domainRestart d) s = .next t ∧ t.sup.stopped = s.sup.stopped.filter (· != k)
        ∧ (∀ i, i ∈ t.sup.parked ↔ i ∈ s.sup.parked ∧ ¬ ∃ j : BitVec 5, d = .slice j ∧ i = j.toNat) ∧ settled t ∧ only t
        ∧ t = { s with regs := t.regs, sup := t.sup })
      ∧ (k ∉ s.sup.stopped → exec (.domainRestart d) s = .next s))
    ∧ (∀ i : BitVec 5, let p := i.toNat
      isReady s = true → asleep s = false → p < 17 → rd Reg.SUP_IDLE_CFG_PARK_US 0 s ≠ 0 → holdsRecords s p = false → p ∉ s.sup.parked →
      ∃ t, exec (.slicePark i) s = .next t ∧ t.sup.parked = p :: s.sup.parked ∧ 512 + p ∈ t.sup.stopped
        ∧ slice t p = { slice s p with gob := [] } ∧ (∀ j, j ≠ p → slice t j = slice s j) ∧ settled t ∧ only t
        ∧ t = { s with regs := t.regs, sup := t.sup, slices := t.slices })
    ∧ (Serves s 0x2434 → let a := s.accessed
      let ibi := if a.i3c.events then [Out.ibi 4] else []
      (isReady a = true → a.rung = none → a.sup.pstate ≠ 3 →
        (u3Reason a ≠ 0 → ∃ t, exec .u3Entry s = .next t ∧ rd Reg.SUP_PSTATE_STAT_REFUSED 0 t = 1
          ∧ rd Reg.SUP_PSTATE_STAT_REASON 0 t = u3Reason a ∧ t.sent = ibi ++ a.sent
          ∧ RegsKept a t [Reg.SUP_PSTATE_STAT_REFUSED.key 0, Reg.SUP_PSTATE_STAT_REASON.key 0]
          ∧ t = { a with regs := t.regs, sent := t.sent })
        ∧ (u3Reason a = 0 → ∃ t, exec .u3Entry s = .next t ∧ t.sup.pstate = 3 ∧ rd Reg.SUP_PSTATE_STAT_STATE 0 t = 3
          ∧ t.queues = [] ∧ t.fetches = [] ∧ t.lehr = [] ∧ t.partials = [] ∧ t.host.atc = [] ∧ t.sup.staged.isSome = true
          ∧ (∀ p, p < 4 → rd Reg.RIM_PORT_STAT_UP p t = 0)))
      ∧ (a.sup.pstate = 3 → ∃ t, exec .u3Wake s = .next t ∧ rd Reg.SUP_PSTATE_STAT_STATE 0 t = 0
        ∧ RegsKept a t [Reg.SUP_PSTATE_STAT_STATE.key 0]
        ∧ t = { a with regs := t.regs, sup := { a.sup with pstate := 0, staged := none } })
      ∧ (a.sup.pstate ≠ 3 → exec .u3Wake s = .next a))
    ∧ (s.pins.pwrGood = true →
      (∃ t, exec (.sagConfirm true) s = .next t ∧ t.sup = { s.sup with halted := true }
        ∧ (∀ i, i < 2 → s.ret.recs.length = 2 →
          t.ret.recs.getD i [] = if some i = newestRec s ∨ newestRec s = none ∧ i = 1 then recSlot s i
            else recordBytes s 1 (match newestRec s with
              | none => 0
              | some j => recSeq (recSlot s j) + 1))
        ∧ (2 ∉ s.ret.writing → t.ret = { s.ret with recs := t.ret.recs })
        ∧ (2 ∈ s.ret.writing → t.ret.sec = s.fw.sec ∧ t.ret.writing = s.ret.writing.filter (· != 2) ∧ t.ret.repair = s.ret.repair)
        ∧ t = { s with sup := t.sup, ret := t.ret })
      ∧ (∃ t, exec (.sagConfirm false) s = .next t
        ∧ rd Reg.SUP_SAG_GLITCH_CNT_COUNT 0 t = satAdd 32 (rd Reg.SUP_SAG_GLITCH_CNT_COUNT 0 s) 1
        ∧ RegsKept s t [Reg.SUP_SAG_GLITCH_CNT_COUNT.key 0] ∧ t = { s with regs := t.regs }))

/-- With power good (a command wakes the engine from U1 or U2 unless halted) GET_STATUS returns the status bytes and
clears CMD_ERR; SET_TRAY_LIMIT takes 100 to 900 W; CHIP_RESET with its key is the request that CHIP_RST_N makes;
POWER_CYCLE with its key saves the record and halts; ENTER_U3 is refused with its reason, or enters U3; WAKE leaves
it; REC_OFFSET below 65,536 sets the offset; REC_READ returns 64 bytes there and advances; MONITOR returns the
filtered value of a monitor that exists; ENTDAA and SETDASA give an address where there is none, RSTDAA takes it, ENEC
and DISEC enable interrupts or not, the identity reads return the bytes of the right number (their values unstated,
log entry 32). A bad key, value or code sets CMD_ERR alone. A halted supervisor takes no command with an effect on the
engine; without power none does anything. A served read of UM_SUP_REC_DATA returns the word of the record at the
offset and advances it by 4. -/
def Obligations.tray_controller : Prop :=
  ∀ s : State,
    let b := if s.sup.halted then s else wakeUp s
    let err := { b with i3c := { b.i3c with cmdErr := true } }
    let ran := !s.sup.halted
    (s.pins.pwrGood = false → ∀ i ∈ [Instr.getStatus, .enterU3, .wake, .recRead], exec i s = .next s)
    ∧ (s.pins.pwrGood = true →
      exec .getStatus s = .next { b with sent := .i3c (statusBytes b) :: b.sent, i3c := { b.i3c with cmdErr := false } }
      ∧ (∀ w : BitVec 16, (w.toNat < 100 ∨ 900 < w.toNat → exec (.setTrayLimit w) s = .next err)
        ∧ (100 ≤ w.toNat → w.toNat ≤ 900 → (ran = false → exec (.setTrayLimit w) s = .next b)
          ∧ (ran = true → ∃ t, exec (.setTrayLimit w) s = .next t ∧ rd Reg.SUP_TRAY_LIMIT_W 0 t = w.toNat
            ∧ (rd Reg.SUP_TRAY_LIMIT_W 0 b ≠ w.toNat → LogsOne b t 0x0070 0 none 0 (9 + w.toNat * 2 ^ 32))
            ∧ (rd Reg.SUP_TRAY_LIMIT_W 0 b = w.toNat → t.errs = b.errs) ∧ t = b.logged t)))
      ∧ (∀ k : Byte, (k ≠ 0x5A#8 → exec (.i3cChipReset k) s = .next err)
        ∧ (k = 0x5A#8 → ran = true → phaseOf b ≠ 0 → phaseOf b ≠ 7 → b.rung = none → b.dump.collect = none → b.dump.unread = false →
          b.remote.served = [] → (∀ c ∈ b.cmds, c.phase ≠ .reading) →
          ∃ t, exec (.i3cChipReset k) s = .next t ∧ exec (.chipRstN 1000) b = .next t ∧ t.host.st = .closed
            ∧ t.rung = some { rung := 4, parts := [0], part := 0, step := 2, held := false, requester := 2, reload := false,
                              errSeq := noSeq })
        ∧ (k ≠ 0xA5#8 → exec (.powerCycle k) s = .next err)
        ∧ (k = 0xA5#8 → ran = true → ∃ t, exec (.powerCycle k) s = .next t ∧ t.sup = { b.sup with halted := true }
          ∧ t.i3c = { b.i3c with saveDone := true } ∧ t.sent = (if b.i3c.events then [.ibi 2] else []) ++ b.sent
          ∧ t.ret = (saveRecord 3 b).ret ∧ t = { b with sup := t.sup, i3c := t.i3c, sent := t.sent, ret := t.ret }))
      ∧ (ran = true → isReady b = true → b.rung = none → b.sup.pstate ≠ 3 →
        (u3Reason b ≠ 0 → ∃ t, exec .enterU3 s = .next t ∧ rd Reg.SUP_PSTATE_STAT_REFUSED 0 t = 1
          ∧ rd Reg.SUP_PSTATE_STAT_REASON 0 t = u3Reason b ∧ t.sent = (if b.i3c.events then [.ibi 4] else []) ++ b.sent
          ∧ t = { b with regs := t.regs, sent := t.sent })
        ∧ (u3Reason b = 0 → ∃ t, exec .enterU3 s = .next t ∧ t.sup.pstate = 3 ∧ t.queues = [] ∧ t.fetches = [] ∧ t.lehr = []))
      ∧ (ran = true → b.sup.pstate = 3 → ∃ t, exec .wake s = .next t ∧ rd Reg.SUP_PSTATE_STAT_STATE 0 t = 0
        ∧ RegsKept b t [Reg.SUP_PSTATE_STAT_STATE.key 0]
        ∧ t = { b with regs := t.regs, sup := { b.sup with pstate := 0, staged := none } })
      ∧ (ran = true → b.sup.pstate ≠ 3 → exec .wake s = .next b)
      ∧ (∀ o : Word, (65536 ≤ o.toNat → exec (.recOffset o) s = .next err)
        ∧ (o.toNat < 65536 → exec (.recOffset o) s = .next { b with i3c := { b.i3c with recOff := o.toNat } }))
      ∧ exec .recRead s = .next { b with
          sent := .i3c ((List.range 64).map fun i => (takenRec b).getD (b.i3c.recOff + i) 0#8) :: b.sent
          i3c := { b.i3c with recOff := b.i3c.recOff + 64 } }
      ∧ (∀ k i : Byte, (i.toNat < monCount k.toNat → exec (.monitor k i) s = .next { b with
            sent := .i3c (toLE 4 (filtered b k.toNat i.toNat % 2 ^ 32).toNat) :: b.sent })
        ∧ (monCount k.toNat ≤ i.toNat → exec (.monitor k i) s = .next err))
      ∧ (∀ a : BitVec 7, ∀ c ∈ [I3cCode.entdaa a, .setdasa a], exec (.i3cCcc c) s =
          .next { b with i3c := { b.i3c with addr := if b.i3c.addr.isNone then some a.toNat else b.i3c.addr } })
      ∧ exec (.i3cCcc .rstdaa) s = .next { b with i3c := { b.i3c with addr := none } }
      ∧ exec (.i3cCcc .enec) s = .next { b with i3c := { b.i3c with events := true } }
      ∧ exec (.i3cCcc .disec) s = .next { b with i3c := { b.i3c with events := false } }
      ∧ (∀ p ∈ [(I3cCode.getpid, 6), (.getbcr, 1), (.getdcr, 1), (.getstatus, 2)], ∃ t bs, exec (.i3cCcc p.1) s = .next t
        ∧ bs.length = p.2 ∧ t = { b with sent := .i3c bs :: b.sent, freeCtr := b.freeCtr + p.2 })
      ∧ (∀ bs, (i3cValid bs = false → exec (.i3cUnknownCode bs) s = .next err)
        ∧ (i3cValid bs = true → exec (.i3cUnknownCode bs) s = .next b)))
    ∧ (Serves s 0x2484 → let a := s.accessed
      let o := rd Reg.SUP_REC_OFFSET_OFFSET 0 a
      ∃ t, exec .supRecDataRead s = .next t
        ∧ t.bus.rdata = fromLE ((List.range 4).map fun i => (takenRec a).getD (o + i) 0#8)
        ∧ rd Reg.SUP_REC_OFFSET_OFFSET 0 t = (o + 4) % 2 ^ 16 ∧ RegsKept a t [Reg.SUP_REC_OFFSET_OFFSET.key 0]
        ∧ t = { a with regs := t.regs, bus := { a.bus with rdata := t.bus.rdata } })

/-- From every state whose memories (the memory beyond the boundary, the DRAM, the CXL memory and the flash) are in
canonical form, addresses strictly rising and no byte listed that reads as an unlisted one, every step that answers a
next state answers one whose memories are in canonical form too, whatever the command: row, gradient, image, reply,
dump and stream writes, zeroing, remaps and the loss of power. The form is the model's (log entry 4). -/
def Obligations.memory_stays_canonical : Prop :=
  ∀ s t : State, s.memoryWf = true → step s = .next t → t.memoryWf = true

/-- From every state whose commands in flight stand in strictly rising order of admission number, each below the next
number to be given, every step that answers a next state answers one of which the same holds, and the next number has
not fallen unless the engine lost power: no admission, completion, cancellation, flush or reset ever reorders the
commands or lets a number name two of them. The numbers are the model's handle on a command (log entry 9). -/
def Obligations.admission_order_kept : Prop :=
  ∀ s t : State, s.CmdsOrdered → step s = .next t →
    t.CmdsOrdered ∧ (s.pins.pwrGood = t.pins.pwrGood → s.nextId ≤ t.nextId)

/-- From every trusted state (the image held has an SVN of at least MIN_SVN and a key that is not revoked, some key slot
is unrevoked, and the retention store's security region asks no more than the engine's), every step that answers a
next state answers a trusted one, in which the retention store's MIN_SVN is no lower and every key slot it held as
revoked is still revoked. So nothing, neither a register write, a reset rung nor the loss of power in the middle of a
retention write, runs an image that the checks forbid or undoes what was written. -/
def Obligations.security_state_only_tightens : Prop :=
  ∀ s t : State, s.Trusted → step s = .next t →
    t.Trusted ∧ s.ret.sec.minSvn ≤ t.ret.sec.minSvn ∧ (∀ k ∈ s.ret.sec.revoked, k ∈ t.ret.sec.revoked) ∧ t.fw.keys = s.fw.keys

/-- In the state right after power is applied the memories are in canonical form, the commands in flight (none) stand in
admission order, and the firmware store and the security region are trusted. That the part comes with one key, and
with no SVN committed and no key revoked, is the model's choice (log entry 7). -/
def Obligations.reset_meets_invariants : Prop :=
  State.reset.memoryWf = true ∧ State.reset.CmdsOrdered ∧ State.reset.Trusted
end

