-- ==== Sys2Proof/Laws/Sparse.lean ====
section
/-! SUPPORT. Sparse maps: what a write leaves at its own key and at every other, and that writes keep the canonical form. -/

namespace Sys2Proof.Machine.Sparse

variable {α : Type}

@[simp] theorem get_nil (d : α) (k : Nat) : get d [] k = d := rfl

@[simp] theorem get_cons (d : α) (j : Nat) (v : α) (m : Sparse α) (k : Nat) :
    get d ((j, v) :: m) k = if k = j then v else get d m k := rfl

theorem erase_cons (j : Nat) (v : α) (m : Sparse α) (k : Nat) :
    erase ((j, v) :: m) k = if j = k then erase m k else (j, v) :: erase m k := by
  by_cases h : j = k <;> simp [erase, h]

theorem get_erase_same (d : α) (m : Sparse α) (k : Nat) : get d (erase m k) k = d := by
  induction m with
  | nil => rfl
  | cons e m ih =>
    obtain ⟨j, v⟩ := e
    rw [erase_cons]
    split
    · exact ih
    · rename_i h
      simp [Ne.symm h, ih]

theorem get_erase_other (d : α) (m : Sparse α) {k k' : Nat} (h : k' ≠ k) : get d (erase m k) k' = get d m k' := by
  induction m with
  | nil => rfl
  | cons e m ih =>
    obtain ⟨j, v⟩ := e
    rw [erase_cons]
    split
    · rename_i hj
      subst hj
      simp [h, ih]
    · simp [ih]

theorem get_place_same (d : α) (m : Sparse α) (k : Nat) (v : α) (h : ∀ e ∈ m, e.1 ≠ k) : get d (place m k v) k = v := by
  induction m with
  | nil => simp [place]
  | cons e m ih =>
    obtain ⟨j, w⟩ := e
    have hj : k ≠ j := fun x => h (j, w) (by simp) x.symm
    simp only [place]
    split
    · simp
    · simp [hj, ih fun e he => h e (by simp [he])]

theorem get_place_other (d : α) (m : Sparse α) {k k' : Nat} (v : α) (h : k' ≠ k) : get d (place m k v) k' = get d m k' := by
  induction m with
  | nil => simp [place, h]
  | cons e m ih =>
    obtain ⟨j, w⟩ := e
    simp only [place]
    split
    · simp [h]
    · simp [ih]

@[simp] theorem get_set_same [DecidableEq α] (d : α) (m : Sparse α) (k : Nat) (v : α) : get d (set d m k v) k = v := by
  unfold set
  split
  · rename_i h
    rw [get_erase_same, h]
  · exact get_place_same d _ k v fun e he => by simpa [erase] using (List.mem_filter.mp he).2

@[simp] theorem get_set_other [DecidableEq α] (d : α) (m : Sparse α) {k k' : Nat} (v : α) (h : k' ≠ k) :
    get d (set d m k v) k' = get d m k' := by
  unfold set
  split
  · exact get_erase_other d m h
  · rw [get_place_other d _ v h, get_erase_other d m h]

theorem get_set [DecidableEq α] (d : α) (m : Sparse α) (k k' : Nat) (v : α) :
    get d (set d m k v) k' = if k' = k then v else get d m k' := by
  split
  · rename_i h
    subst h
    exact get_set_same d m _ v
  · rename_i h
    exact get_set_other d m v h

/-! ### The canonical form -/

theorem wfFrom_mono [DecidableEq α] {d : α} {a b : Nat} (hab : a ≤ b) {m : Sparse α} (h : wfFrom d b m = true) :
    wfFrom d a m = true := by
  cases m with
  | nil => rfl
  | cons e m =>
    obtain ⟨j, v⟩ := e
    simp only [wfFrom, Bool.and_eq_true, decide_eq_true_eq] at h ⊢
    exact ⟨⟨Nat.le_trans hab h.1.1, h.1.2⟩, h.2⟩

theorem wfFrom_filter [DecidableEq α] {d : α} {a : Nat} {m : Sparse α} (p : Nat × α → Bool) (h : wfFrom d a m = true) :
    wfFrom d a (m.filter p) = true := by
  induction m generalizing a with
  | nil => rfl
  | cons e m ih =>
    obtain ⟨j, v⟩ := e
    simp only [wfFrom, Bool.and_eq_true, decide_eq_true_eq] at h
    simp only [List.filter_cons]
    split
    · simp only [wfFrom, Bool.and_eq_true, decide_eq_true_eq]
      exact ⟨h.1, ih h.2⟩
    · exact wfFrom_mono (Nat.le_trans h.1.1 (Nat.le_succ j)) (ih h.2)

theorem wfFrom_place [DecidableEq α] {d : α} {a k : Nat} {v : α} {m : Sparse α} (hv : v ≠ d) (hk : a ≤ k)
    (hm : ∀ e ∈ m, e.1 ≠ k) (h : wfFrom d a m = true) : wfFrom d a (place m k v) = true := by
  induction m generalizing a with
  | nil => simp [place, wfFrom, hk, hv]
  | cons e m ih =>
    obtain ⟨j, w⟩ := e
    have hj : j ≠ k := hm (j, w) (by simp)
    simp only [wfFrom, Bool.and_eq_true, decide_eq_true_eq] at h
    simp only [place]
    split
    · rename_i hlt
      simp only [wfFrom, Bool.and_eq_true, decide_eq_true_eq]
      exact ⟨⟨hk, hv⟩, ⟨hlt, h.1.2⟩, h.2⟩
    · simp only [wfFrom, Bool.and_eq_true, decide_eq_true_eq]
      exact ⟨h.1, ih (by omega) (fun e he => hm e (by simp [he])) h.2⟩

/-- A write keeps the canonical form. -/
theorem wf_set [DecidableEq α] {d : α} {m : Sparse α} (k : Nat) (v : α) (h : wf d m = true) : wf d (set d m k v) = true := by
  unfold set
  split
  · exact wfFrom_filter _ h
  · rename_i hv
    exact wfFrom_place hv (Nat.zero_le k) (fun e he => by simpa [erase] using (List.mem_filter.mp he).2) (wfFrom_filter _ h)

/-- Filtering keeps the canonical form. -/
theorem wf_filter [DecidableEq α] {d : α} {m : Sparse α} (p : Nat × α → Bool) (h : wf d m = true) :
    wf d (m.filter p) = true := wfFrom_filter p h

/-- Erasing keeps the canonical form. -/
theorem wf_erase [DecidableEq α] {d : α} {m : Sparse α} (k : Nat) (h : wf d m = true) : wf d (erase m k) = true :=
  wfFrom_filter _ h

theorem wfFrom_mapVals [DecidableEq α] {d : α} {a : Nat} {m : Sparse α} (f : Nat → α → α) (h : wfFrom d a m = true) :
    wfFrom d a (mapVals d f m) = true := by
  induction m generalizing a with
  | nil => rfl
  | cons e m ih =>
    obtain ⟨j, v⟩ := e
    simp only [wfFrom, Bool.and_eq_true, decide_eq_true_eq] at h
    simp only [mapVals, List.map_cons, List.filter_cons] at ih ⊢
    split
    · rename_i hv
      simp only [wfFrom, Bool.and_eq_true, decide_eq_true_eq]
      exact ⟨⟨h.1.1, by simpa using hv⟩, ih h.2⟩
    · exact wfFrom_mono (Nat.le_trans h.1.1 (Nat.le_succ j)) (ih h.2)

/-- Mapping the values keeps the canonical form. -/
theorem wf_mapVals [DecidableEq α] {d : α} {m : Sparse α} (f : Nat → α → α) (h : wf d m = true) :
    wf d (mapVals d f m) = true := wfFrom_mapVals f h

end Sys2Proof.Machine.Sparse
end

