-- ==== Sys2Proof/Laws/State.lean ====
section
/-! SUPPORT. One lemma for each field of the state and each update that leaves it alone, and for each update what it writes. -/

namespace Sys2Proof.Machine

/-! ### wr -/

@[simp] theorem wr_pending (f : Fld) (i v : Nat) (s : State) : (wr f i v s).pending = s.pending := rfl
@[simp] theorem wr_freeCtr (f : Fld) (i v : Nat) (s : State) : (wr f i v s).freeCtr = s.freeCtr := rfl
@[simp] theorem wr_sent (f : Fld) (i v : Nat) (s : State) : (wr f i v s).sent = s.sent := rfl
@[simp] theorem wr_cycle (f : Fld) (i v : Nat) (s : State) : (wr f i v s).cycle = s.cycle := rfl
@[simp] theorem wr_bus (f : Fld) (i v : Nat) (s : State) : (wr f i v s).bus = s.bus := rfl
@[simp] theorem wr_tower (f : Fld) (i v : Nat) (s : State) : (wr f i v s).tower = s.tower := rfl
@[simp] theorem wr_mem (f : Fld) (i v : Nat) (s : State) : (wr f i v s).mem = s.mem := rfl
@[simp] theorem wr_tiers (f : Fld) (i v : Nat) (s : State) : (wr f i v s).tiers = s.tiers := rfl
@[simp] theorem wr_queues (f : Fld) (i v : Nat) (s : State) : (wr f i v s).queues = s.queues := rfl
@[simp] theorem wr_arb (f : Fld) (i v : Nat) (s : State) : (wr f i v s).arb = s.arb := rfl
@[simp] theorem wr_cmds (f : Fld) (i v : Nat) (s : State) : (wr f i v s).cmds = s.cmds := rfl
@[simp] theorem wr_nextId (f : Fld) (i v : Nat) (s : State) : (wr f i v s).nextId = s.nextId := rfl
@[simp] theorem wr_ctxs (f : Fld) (i v : Nat) (s : State) : (wr f i v s).ctxs = s.ctxs := rfl
@[simp] theorem wr_valves (f : Fld) (i v : Nat) (s : State) : (wr f i v s).valves = s.valves := rfl
@[simp] theorem wr_mods (f : Fld) (i v : Nat) (s : State) : (wr f i v s).mods = s.mods := rfl
@[simp] theorem wr_tables (f : Fld) (i v : Nat) (s : State) : (wr f i v s).tables = s.tables := rfl
@[simp] theorem wr_slices (f : Fld) (i v : Nat) (s : State) : (wr f i v s).slices = s.slices := rfl
@[simp] theorem wr_flushing (f : Fld) (i v : Nat) (s : State) : (wr f i v s).flushing = s.flushing := rfl
@[simp] theorem wr_refills (f : Fld) (i v : Nat) (s : State) : (wr f i v s).refills = s.refills := rfl
@[simp] theorem wr_waits (f : Fld) (i v : Nat) (s : State) : (wr f i v s).waits = s.waits := rfl
@[simp] theorem wr_geom (f : Fld) (i v : Nat) (s : State) : (wr f i v s).geom = s.geom := rfl
@[simp] theorem wr_lehr (f : Fld) (i v : Nat) (s : State) : (wr f i v s).lehr = s.lehr := rfl
@[simp] theorem wr_drains (f : Fld) (i v : Nat) (s : State) : (wr f i v s).drains = s.drains := rfl
@[simp] theorem wr_fetches (f : Fld) (i v : Nat) (s : State) : (wr f i v s).fetches = s.fetches := rfl
@[simp] theorem wr_nextFetch (f : Fld) (i v : Nat) (s : State) : (wr f i v s).nextFetch = s.nextFetch := rfl
@[simp] theorem wr_partials (f : Fld) (i v : Nat) (s : State) : (wr f i v s).partials = s.partials := rfl
@[simp] theorem wr_nextPart (f : Fld) (i v : Nat) (s : State) : (wr f i v s).nextPart = s.nextPart := rfl
@[simp] theorem wr_descs (f : Fld) (i v : Nat) (s : State) : (wr f i v s).descs = s.descs := rfl
@[simp] theorem wr_host (f : Fld) (i v : Nat) (s : State) : (wr f i v s).host = s.host := rfl
@[simp] theorem wr_place (f : Fld) (i v : Nat) (s : State) : (wr f i v s).place = s.place := rfl
@[simp] theorem wr_remote (f : Fld) (i v : Nat) (s : State) : (wr f i v s).remote = s.remote := rfl
@[simp] theorem wr_errs (f : Fld) (i v : Nat) (s : State) : (wr f i v s).errs = s.errs := rfl
@[simp] theorem wr_hang (f : Fld) (i v : Nat) (s : State) : (wr f i v s).hang = s.hang := rfl
@[simp] theorem wr_rung (f : Fld) (i v : Nat) (s : State) : (wr f i v s).rung = s.rung := rfl
@[simp] theorem wr_dump (f : Fld) (i v : Nat) (s : State) : (wr f i v s).dump = s.dump := rfl
@[simp] theorem wr_units (f : Fld) (i v : Nat) (s : State) : (wr f i v s).units = s.units := rfl
@[simp] theorem wr_mems (f : Fld) (i v : Nat) (s : State) : (wr f i v s).mems = s.mems := rfl
@[simp] theorem wr_repair (f : Fld) (i v : Nat) (s : State) : (wr f i v s).repair = s.repair := rfl
@[simp] theorem wr_sup (f : Fld) (i v : Nat) (s : State) : (wr f i v s).sup = s.sup := rfl
@[simp] theorem wr_fw (f : Fld) (i v : Nat) (s : State) : (wr f i v s).fw = s.fw := rfl
@[simp] theorem wr_ret (f : Fld) (i v : Nat) (s : State) : (wr f i v s).ret = s.ret := rfl
@[simp] theorem wr_i3c (f : Fld) (i v : Nat) (s : State) : (wr f i v s).i3c = s.i3c := rfl
@[simp] theorem wr_pins (f : Fld) (i v : Nat) (s : State) : (wr f i v s).pins = s.pins := rfl

/-! ### bump -/

@[simp] theorem bump_pending (f : Fld) (i n : Nat) (s : State) : (bump f i n s).pending = s.pending := rfl
@[simp] theorem bump_freeCtr (f : Fld) (i n : Nat) (s : State) : (bump f i n s).freeCtr = s.freeCtr := rfl
@[simp] theorem bump_sent (f : Fld) (i n : Nat) (s : State) : (bump f i n s).sent = s.sent := rfl
@[simp] theorem bump_cycle (f : Fld) (i n : Nat) (s : State) : (bump f i n s).cycle = s.cycle := rfl
@[simp] theorem bump_bus (f : Fld) (i n : Nat) (s : State) : (bump f i n s).bus = s.bus := rfl
@[simp] theorem bump_tower (f : Fld) (i n : Nat) (s : State) : (bump f i n s).tower = s.tower := rfl
@[simp] theorem bump_mem (f : Fld) (i n : Nat) (s : State) : (bump f i n s).mem = s.mem := rfl
@[simp] theorem bump_tiers (f : Fld) (i n : Nat) (s : State) : (bump f i n s).tiers = s.tiers := rfl
@[simp] theorem bump_queues (f : Fld) (i n : Nat) (s : State) : (bump f i n s).queues = s.queues := rfl
@[simp] theorem bump_arb (f : Fld) (i n : Nat) (s : State) : (bump f i n s).arb = s.arb := rfl
@[simp] theorem bump_cmds (f : Fld) (i n : Nat) (s : State) : (bump f i n s).cmds = s.cmds := rfl
@[simp] theorem bump_nextId (f : Fld) (i n : Nat) (s : State) : (bump f i n s).nextId = s.nextId := rfl
@[simp] theorem bump_ctxs (f : Fld) (i n : Nat) (s : State) : (bump f i n s).ctxs = s.ctxs := rfl
@[simp] theorem bump_valves (f : Fld) (i n : Nat) (s : State) : (bump f i n s).valves = s.valves := rfl
@[simp] theorem bump_mods (f : Fld) (i n : Nat) (s : State) : (bump f i n s).mods = s.mods := rfl
@[simp] theorem bump_tables (f : Fld) (i n : Nat) (s : State) : (bump f i n s).tables = s.tables := rfl
@[simp] theorem bump_slices (f : Fld) (i n : Nat) (s : State) : (bump f i n s).slices = s.slices := rfl
@[simp] theorem bump_flushing (f : Fld) (i n : Nat) (s : State) : (bump f i n s).flushing = s.flushing := rfl
@[simp] theorem bump_refills (f : Fld) (i n : Nat) (s : State) : (bump f i n s).refills = s.refills := rfl
@[simp] theorem bump_waits (f : Fld) (i n : Nat) (s : State) : (bump f i n s).waits = s.waits := rfl
@[simp] theorem bump_geom (f : Fld) (i n : Nat) (s : State) : (bump f i n s).geom = s.geom := rfl
@[simp] theorem bump_lehr (f : Fld) (i n : Nat) (s : State) : (bump f i n s).lehr = s.lehr := rfl
@[simp] theorem bump_drains (f : Fld) (i n : Nat) (s : State) : (bump f i n s).drains = s.drains := rfl
@[simp] theorem bump_fetches (f : Fld) (i n : Nat) (s : State) : (bump f i n s).fetches = s.fetches := rfl
@[simp] theorem bump_nextFetch (f : Fld) (i n : Nat) (s : State) : (bump f i n s).nextFetch = s.nextFetch := rfl
@[simp] theorem bump_partials (f : Fld) (i n : Nat) (s : State) : (bump f i n s).partials = s.partials := rfl
@[simp] theorem bump_nextPart (f : Fld) (i n : Nat) (s : State) : (bump f i n s).nextPart = s.nextPart := rfl
@[simp] theorem bump_descs (f : Fld) (i n : Nat) (s : State) : (bump f i n s).descs = s.descs := rfl
@[simp] theorem bump_host (f : Fld) (i n : Nat) (s : State) : (bump f i n s).host = s.host := rfl
@[simp] theorem bump_place (f : Fld) (i n : Nat) (s : State) : (bump f i n s).place = s.place := rfl
@[simp] theorem bump_remote (f : Fld) (i n : Nat) (s : State) : (bump f i n s).remote = s.remote := rfl
@[simp] theorem bump_errs (f : Fld) (i n : Nat) (s : State) : (bump f i n s).errs = s.errs := rfl
@[simp] theorem bump_hang (f : Fld) (i n : Nat) (s : State) : (bump f i n s).hang = s.hang := rfl
@[simp] theorem bump_rung (f : Fld) (i n : Nat) (s : State) : (bump f i n s).rung = s.rung := rfl
@[simp] theorem bump_dump (f : Fld) (i n : Nat) (s : State) : (bump f i n s).dump = s.dump := rfl
@[simp] theorem bump_units (f : Fld) (i n : Nat) (s : State) : (bump f i n s).units = s.units := rfl
@[simp] theorem bump_mems (f : Fld) (i n : Nat) (s : State) : (bump f i n s).mems = s.mems := rfl
@[simp] theorem bump_repair (f : Fld) (i n : Nat) (s : State) : (bump f i n s).repair = s.repair := rfl
@[simp] theorem bump_sup (f : Fld) (i n : Nat) (s : State) : (bump f i n s).sup = s.sup := rfl
@[simp] theorem bump_fw (f : Fld) (i n : Nat) (s : State) : (bump f i n s).fw = s.fw := rfl
@[simp] theorem bump_ret (f : Fld) (i n : Nat) (s : State) : (bump f i n s).ret = s.ret := rfl
@[simp] theorem bump_i3c (f : Fld) (i n : Nat) (s : State) : (bump f i n s).i3c = s.i3c := rfl
@[simp] theorem bump_pins (f : Fld) (i n : Nat) (s : State) : (bump f i n s).pins = s.pins := rfl

/-! ### setQueue -/

@[simp] theorem setQueue_pending (q : Nat) (v : Queue) (s : State) : (setQueue q v s).pending = s.pending := rfl
@[simp] theorem setQueue_freeCtr (q : Nat) (v : Queue) (s : State) : (setQueue q v s).freeCtr = s.freeCtr := rfl
@[simp] theorem setQueue_sent (q : Nat) (v : Queue) (s : State) : (setQueue q v s).sent = s.sent := rfl
@[simp] theorem setQueue_cycle (q : Nat) (v : Queue) (s : State) : (setQueue q v s).cycle = s.cycle := rfl
@[simp] theorem setQueue_bus (q : Nat) (v : Queue) (s : State) : (setQueue q v s).bus = s.bus := rfl
@[simp] theorem setQueue_tower (q : Nat) (v : Queue) (s : State) : (setQueue q v s).tower = s.tower := rfl
@[simp] theorem setQueue_regs (q : Nat) (v : Queue) (s : State) : (setQueue q v s).regs = s.regs := rfl
@[simp] theorem setQueue_mem (q : Nat) (v : Queue) (s : State) : (setQueue q v s).mem = s.mem := rfl
@[simp] theorem setQueue_tiers (q : Nat) (v : Queue) (s : State) : (setQueue q v s).tiers = s.tiers := rfl
@[simp] theorem setQueue_arb (q : Nat) (v : Queue) (s : State) : (setQueue q v s).arb = s.arb := rfl
@[simp] theorem setQueue_cmds (q : Nat) (v : Queue) (s : State) : (setQueue q v s).cmds = s.cmds := rfl
@[simp] theorem setQueue_nextId (q : Nat) (v : Queue) (s : State) : (setQueue q v s).nextId = s.nextId := rfl
@[simp] theorem setQueue_ctxs (q : Nat) (v : Queue) (s : State) : (setQueue q v s).ctxs = s.ctxs := rfl
@[simp] theorem setQueue_valves (q : Nat) (v : Queue) (s : State) : (setQueue q v s).valves = s.valves := rfl
@[simp] theorem setQueue_mods (q : Nat) (v : Queue) (s : State) : (setQueue q v s).mods = s.mods := rfl
@[simp] theorem setQueue_tables (q : Nat) (v : Queue) (s : State) : (setQueue q v s).tables = s.tables := rfl
@[simp] theorem setQueue_slices (q : Nat) (v : Queue) (s : State) : (setQueue q v s).slices = s.slices := rfl
@[simp] theorem setQueue_flushing (q : Nat) (v : Queue) (s : State) : (setQueue q v s).flushing = s.flushing := rfl
@[simp] theorem setQueue_refills (q : Nat) (v : Queue) (s : State) : (setQueue q v s).refills = s.refills := rfl
@[simp] theorem setQueue_waits (q : Nat) (v : Queue) (s : State) : (setQueue q v s).waits = s.waits := rfl
@[simp] theorem setQueue_geom (q : Nat) (v : Queue) (s : State) : (setQueue q v s).geom = s.geom := rfl
@[simp] theorem setQueue_lehr (q : Nat) (v : Queue) (s : State) : (setQueue q v s).lehr = s.lehr := rfl
@[simp] theorem setQueue_drains (q : Nat) (v : Queue) (s : State) : (setQueue q v s).drains = s.drains := rfl
@[simp] theorem setQueue_fetches (q : Nat) (v : Queue) (s : State) : (setQueue q v s).fetches = s.fetches := rfl
@[simp] theorem setQueue_nextFetch (q : Nat) (v : Queue) (s : State) : (setQueue q v s).nextFetch = s.nextFetch := rfl
@[simp] theorem setQueue_partials (q : Nat) (v : Queue) (s : State) : (setQueue q v s).partials = s.partials := rfl
@[simp] theorem setQueue_nextPart (q : Nat) (v : Queue) (s : State) : (setQueue q v s).nextPart = s.nextPart := rfl
@[simp] theorem setQueue_descs (q : Nat) (v : Queue) (s : State) : (setQueue q v s).descs = s.descs := rfl
@[simp] theorem setQueue_host (q : Nat) (v : Queue) (s : State) : (setQueue q v s).host = s.host := rfl
@[simp] theorem setQueue_place (q : Nat) (v : Queue) (s : State) : (setQueue q v s).place = s.place := rfl
@[simp] theorem setQueue_remote (q : Nat) (v : Queue) (s : State) : (setQueue q v s).remote = s.remote := rfl
@[simp] theorem setQueue_errs (q : Nat) (v : Queue) (s : State) : (setQueue q v s).errs = s.errs := rfl
@[simp] theorem setQueue_hang (q : Nat) (v : Queue) (s : State) : (setQueue q v s).hang = s.hang := rfl
@[simp] theorem setQueue_rung (q : Nat) (v : Queue) (s : State) : (setQueue q v s).rung = s.rung := rfl
@[simp] theorem setQueue_dump (q : Nat) (v : Queue) (s : State) : (setQueue q v s).dump = s.dump := rfl
@[simp] theorem setQueue_units (q : Nat) (v : Queue) (s : State) : (setQueue q v s).units = s.units := rfl
@[simp] theorem setQueue_mems (q : Nat) (v : Queue) (s : State) : (setQueue q v s).mems = s.mems := rfl
@[simp] theorem setQueue_repair (q : Nat) (v : Queue) (s : State) : (setQueue q v s).repair = s.repair := rfl
@[simp] theorem setQueue_sup (q : Nat) (v : Queue) (s : State) : (setQueue q v s).sup = s.sup := rfl
@[simp] theorem setQueue_fw (q : Nat) (v : Queue) (s : State) : (setQueue q v s).fw = s.fw := rfl
@[simp] theorem setQueue_ret (q : Nat) (v : Queue) (s : State) : (setQueue q v s).ret = s.ret := rfl
@[simp] theorem setQueue_i3c (q : Nat) (v : Queue) (s : State) : (setQueue q v s).i3c = s.i3c := rfl
@[simp] theorem setQueue_pins (q : Nat) (v : Queue) (s : State) : (setQueue q v s).pins = s.pins := rfl

/-! ### setCtx -/

@[simp] theorem setCtx_pending (c : Nat) (v : Ctx) (s : State) : (setCtx c v s).pending = s.pending := rfl
@[simp] theorem setCtx_freeCtr (c : Nat) (v : Ctx) (s : State) : (setCtx c v s).freeCtr = s.freeCtr := rfl
@[simp] theorem setCtx_sent (c : Nat) (v : Ctx) (s : State) : (setCtx c v s).sent = s.sent := rfl
@[simp] theorem setCtx_cycle (c : Nat) (v : Ctx) (s : State) : (setCtx c v s).cycle = s.cycle := rfl
@[simp] theorem setCtx_bus (c : Nat) (v : Ctx) (s : State) : (setCtx c v s).bus = s.bus := rfl
@[simp] theorem setCtx_tower (c : Nat) (v : Ctx) (s : State) : (setCtx c v s).tower = s.tower := rfl
@[simp] theorem setCtx_regs (c : Nat) (v : Ctx) (s : State) : (setCtx c v s).regs = s.regs := rfl
@[simp] theorem setCtx_mem (c : Nat) (v : Ctx) (s : State) : (setCtx c v s).mem = s.mem := rfl
@[simp] theorem setCtx_tiers (c : Nat) (v : Ctx) (s : State) : (setCtx c v s).tiers = s.tiers := rfl
@[simp] theorem setCtx_queues (c : Nat) (v : Ctx) (s : State) : (setCtx c v s).queues = s.queues := rfl
@[simp] theorem setCtx_arb (c : Nat) (v : Ctx) (s : State) : (setCtx c v s).arb = s.arb := rfl
@[simp] theorem setCtx_cmds (c : Nat) (v : Ctx) (s : State) : (setCtx c v s).cmds = s.cmds := rfl
@[simp] theorem setCtx_nextId (c : Nat) (v : Ctx) (s : State) : (setCtx c v s).nextId = s.nextId := rfl
@[simp] theorem setCtx_valves (c : Nat) (v : Ctx) (s : State) : (setCtx c v s).valves = s.valves := rfl
@[simp] theorem setCtx_mods (c : Nat) (v : Ctx) (s : State) : (setCtx c v s).mods = s.mods := rfl
@[simp] theorem setCtx_tables (c : Nat) (v : Ctx) (s : State) : (setCtx c v s).tables = s.tables := rfl
@[simp] theorem setCtx_slices (c : Nat) (v : Ctx) (s : State) : (setCtx c v s).slices = s.slices := rfl
@[simp] theorem setCtx_flushing (c : Nat) (v : Ctx) (s : State) : (setCtx c v s).flushing = s.flushing := rfl
@[simp] theorem setCtx_refills (c : Nat) (v : Ctx) (s : State) : (setCtx c v s).refills = s.refills := rfl
@[simp] theorem setCtx_waits (c : Nat) (v : Ctx) (s : State) : (setCtx c v s).waits = s.waits := rfl
@[simp] theorem setCtx_geom (c : Nat) (v : Ctx) (s : State) : (setCtx c v s).geom = s.geom := rfl
@[simp] theorem setCtx_lehr (c : Nat) (v : Ctx) (s : State) : (setCtx c v s).lehr = s.lehr := rfl
@[simp] theorem setCtx_drains (c : Nat) (v : Ctx) (s : State) : (setCtx c v s).drains = s.drains := rfl
@[simp] theorem setCtx_fetches (c : Nat) (v : Ctx) (s : State) : (setCtx c v s).fetches = s.fetches := rfl
@[simp] theorem setCtx_nextFetch (c : Nat) (v : Ctx) (s : State) : (setCtx c v s).nextFetch = s.nextFetch := rfl
@[simp] theorem setCtx_partials (c : Nat) (v : Ctx) (s : State) : (setCtx c v s).partials = s.partials := rfl
@[simp] theorem setCtx_nextPart (c : Nat) (v : Ctx) (s : State) : (setCtx c v s).nextPart = s.nextPart := rfl
@[simp] theorem setCtx_descs (c : Nat) (v : Ctx) (s : State) : (setCtx c v s).descs = s.descs := rfl
@[simp] theorem setCtx_host (c : Nat) (v : Ctx) (s : State) : (setCtx c v s).host = s.host := rfl
@[simp] theorem setCtx_place (c : Nat) (v : Ctx) (s : State) : (setCtx c v s).place = s.place := rfl
@[simp] theorem setCtx_remote (c : Nat) (v : Ctx) (s : State) : (setCtx c v s).remote = s.remote := rfl
@[simp] theorem setCtx_errs (c : Nat) (v : Ctx) (s : State) : (setCtx c v s).errs = s.errs := rfl
@[simp] theorem setCtx_hang (c : Nat) (v : Ctx) (s : State) : (setCtx c v s).hang = s.hang := rfl
@[simp] theorem setCtx_rung (c : Nat) (v : Ctx) (s : State) : (setCtx c v s).rung = s.rung := rfl
@[simp] theorem setCtx_dump (c : Nat) (v : Ctx) (s : State) : (setCtx c v s).dump = s.dump := rfl
@[simp] theorem setCtx_units (c : Nat) (v : Ctx) (s : State) : (setCtx c v s).units = s.units := rfl
@[simp] theorem setCtx_mems (c : Nat) (v : Ctx) (s : State) : (setCtx c v s).mems = s.mems := rfl
@[simp] theorem setCtx_repair (c : Nat) (v : Ctx) (s : State) : (setCtx c v s).repair = s.repair := rfl
@[simp] theorem setCtx_sup (c : Nat) (v : Ctx) (s : State) : (setCtx c v s).sup = s.sup := rfl
@[simp] theorem setCtx_fw (c : Nat) (v : Ctx) (s : State) : (setCtx c v s).fw = s.fw := rfl
@[simp] theorem setCtx_ret (c : Nat) (v : Ctx) (s : State) : (setCtx c v s).ret = s.ret := rfl
@[simp] theorem setCtx_i3c (c : Nat) (v : Ctx) (s : State) : (setCtx c v s).i3c = s.i3c := rfl
@[simp] theorem setCtx_pins (c : Nat) (v : Ctx) (s : State) : (setCtx c v s).pins = s.pins := rfl

/-! ### setTable -/

@[simp] theorem setTable_pending (t : Nat) (v : Table) (s : State) : (setTable t v s).pending = s.pending := rfl
@[simp] theorem setTable_freeCtr (t : Nat) (v : Table) (s : State) : (setTable t v s).freeCtr = s.freeCtr := rfl
@[simp] theorem setTable_sent (t : Nat) (v : Table) (s : State) : (setTable t v s).sent = s.sent := rfl
@[simp] theorem setTable_cycle (t : Nat) (v : Table) (s : State) : (setTable t v s).cycle = s.cycle := rfl
@[simp] theorem setTable_bus (t : Nat) (v : Table) (s : State) : (setTable t v s).bus = s.bus := rfl
@[simp] theorem setTable_tower (t : Nat) (v : Table) (s : State) : (setTable t v s).tower = s.tower := rfl
@[simp] theorem setTable_regs (t : Nat) (v : Table) (s : State) : (setTable t v s).regs = s.regs := rfl
@[simp] theorem setTable_mem (t : Nat) (v : Table) (s : State) : (setTable t v s).mem = s.mem := rfl
@[simp] theorem setTable_tiers (t : Nat) (v : Table) (s : State) : (setTable t v s).tiers = s.tiers := rfl
@[simp] theorem setTable_queues (t : Nat) (v : Table) (s : State) : (setTable t v s).queues = s.queues := rfl
@[simp] theorem setTable_arb (t : Nat) (v : Table) (s : State) : (setTable t v s).arb = s.arb := rfl
@[simp] theorem setTable_cmds (t : Nat) (v : Table) (s : State) : (setTable t v s).cmds = s.cmds := rfl
@[simp] theorem setTable_nextId (t : Nat) (v : Table) (s : State) : (setTable t v s).nextId = s.nextId := rfl
@[simp] theorem setTable_ctxs (t : Nat) (v : Table) (s : State) : (setTable t v s).ctxs = s.ctxs := rfl
@[simp] theorem setTable_valves (t : Nat) (v : Table) (s : State) : (setTable t v s).valves = s.valves := rfl
@[simp] theorem setTable_mods (t : Nat) (v : Table) (s : State) : (setTable t v s).mods = s.mods := rfl
@[simp] theorem setTable_slices (t : Nat) (v : Table) (s : State) : (setTable t v s).slices = s.slices := rfl
@[simp] theorem setTable_flushing (t : Nat) (v : Table) (s : State) : (setTable t v s).flushing = s.flushing := rfl
@[simp] theorem setTable_refills (t : Nat) (v : Table) (s : State) : (setTable t v s).refills = s.refills := rfl
@[simp] theorem setTable_waits (t : Nat) (v : Table) (s : State) : (setTable t v s).waits = s.waits := rfl
@[simp] theorem setTable_geom (t : Nat) (v : Table) (s : State) : (setTable t v s).geom = s.geom := rfl
@[simp] theorem setTable_lehr (t : Nat) (v : Table) (s : State) : (setTable t v s).lehr = s.lehr := rfl
@[simp] theorem setTable_drains (t : Nat) (v : Table) (s : State) : (setTable t v s).drains = s.drains := rfl
@[simp] theorem setTable_fetches (t : Nat) (v : Table) (s : State) : (setTable t v s).fetches = s.fetches := rfl
@[simp] theorem setTable_nextFetch (t : Nat) (v : Table) (s : State) : (setTable t v s).nextFetch = s.nextFetch := rfl
@[simp] theorem setTable_partials (t : Nat) (v : Table) (s : State) : (setTable t v s).partials = s.partials := rfl
@[simp] theorem setTable_nextPart (t : Nat) (v : Table) (s : State) : (setTable t v s).nextPart = s.nextPart := rfl
@[simp] theorem setTable_descs (t : Nat) (v : Table) (s : State) : (setTable t v s).descs = s.descs := rfl
@[simp] theorem setTable_host (t : Nat) (v : Table) (s : State) : (setTable t v s).host = s.host := rfl
@[simp] theorem setTable_place (t : Nat) (v : Table) (s : State) : (setTable t v s).place = s.place := rfl
@[simp] theorem setTable_remote (t : Nat) (v : Table) (s : State) : (setTable t v s).remote = s.remote := rfl
@[simp] theorem setTable_errs (t : Nat) (v : Table) (s : State) : (setTable t v s).errs = s.errs := rfl
@[simp] theorem setTable_hang (t : Nat) (v : Table) (s : State) : (setTable t v s).hang = s.hang := rfl
@[simp] theorem setTable_rung (t : Nat) (v : Table) (s : State) : (setTable t v s).rung = s.rung := rfl
@[simp] theorem setTable_dump (t : Nat) (v : Table) (s : State) : (setTable t v s).dump = s.dump := rfl
@[simp] theorem setTable_units (t : Nat) (v : Table) (s : State) : (setTable t v s).units = s.units := rfl
@[simp] theorem setTable_mems (t : Nat) (v : Table) (s : State) : (setTable t v s).mems = s.mems := rfl
@[simp] theorem setTable_repair (t : Nat) (v : Table) (s : State) : (setTable t v s).repair = s.repair := rfl
@[simp] theorem setTable_sup (t : Nat) (v : Table) (s : State) : (setTable t v s).sup = s.sup := rfl
@[simp] theorem setTable_fw (t : Nat) (v : Table) (s : State) : (setTable t v s).fw = s.fw := rfl
@[simp] theorem setTable_ret (t : Nat) (v : Table) (s : State) : (setTable t v s).ret = s.ret := rfl
@[simp] theorem setTable_i3c (t : Nat) (v : Table) (s : State) : (setTable t v s).i3c = s.i3c := rfl
@[simp] theorem setTable_pins (t : Nat) (v : Table) (s : State) : (setTable t v s).pins = s.pins := rfl

/-! ### setSlice -/

@[simp] theorem setSlice_pending (i : Nat) (v : Slice) (s : State) : (setSlice i v s).pending = s.pending := rfl
@[simp] theorem setSlice_freeCtr (i : Nat) (v : Slice) (s : State) : (setSlice i v s).freeCtr = s.freeCtr := rfl
@[simp] theorem setSlice_sent (i : Nat) (v : Slice) (s : State) : (setSlice i v s).sent = s.sent := rfl
@[simp] theorem setSlice_cycle (i : Nat) (v : Slice) (s : State) : (setSlice i v s).cycle = s.cycle := rfl
@[simp] theorem setSlice_bus (i : Nat) (v : Slice) (s : State) : (setSlice i v s).bus = s.bus := rfl
@[simp] theorem setSlice_tower (i : Nat) (v : Slice) (s : State) : (setSlice i v s).tower = s.tower := rfl
@[simp] theorem setSlice_regs (i : Nat) (v : Slice) (s : State) : (setSlice i v s).regs = s.regs := rfl
@[simp] theorem setSlice_mem (i : Nat) (v : Slice) (s : State) : (setSlice i v s).mem = s.mem := rfl
@[simp] theorem setSlice_tiers (i : Nat) (v : Slice) (s : State) : (setSlice i v s).tiers = s.tiers := rfl
@[simp] theorem setSlice_queues (i : Nat) (v : Slice) (s : State) : (setSlice i v s).queues = s.queues := rfl
@[simp] theorem setSlice_arb (i : Nat) (v : Slice) (s : State) : (setSlice i v s).arb = s.arb := rfl
@[simp] theorem setSlice_cmds (i : Nat) (v : Slice) (s : State) : (setSlice i v s).cmds = s.cmds := rfl
@[simp] theorem setSlice_nextId (i : Nat) (v : Slice) (s : State) : (setSlice i v s).nextId = s.nextId := rfl
@[simp] theorem setSlice_ctxs (i : Nat) (v : Slice) (s : State) : (setSlice i v s).ctxs = s.ctxs := rfl
@[simp] theorem setSlice_valves (i : Nat) (v : Slice) (s : State) : (setSlice i v s).valves = s.valves := rfl
@[simp] theorem setSlice_mods (i : Nat) (v : Slice) (s : State) : (setSlice i v s).mods = s.mods := rfl
@[simp] theorem setSlice_tables (i : Nat) (v : Slice) (s : State) : (setSlice i v s).tables = s.tables := rfl
@[simp] theorem setSlice_flushing (i : Nat) (v : Slice) (s : State) : (setSlice i v s).flushing = s.flushing := rfl
@[simp] theorem setSlice_refills (i : Nat) (v : Slice) (s : State) : (setSlice i v s).refills = s.refills := rfl
@[simp] theorem setSlice_waits (i : Nat) (v : Slice) (s : State) : (setSlice i v s).waits = s.waits := rfl
@[simp] theorem setSlice_geom (i : Nat) (v : Slice) (s : State) : (setSlice i v s).geom = s.geom := rfl
@[simp] theorem setSlice_lehr (i : Nat) (v : Slice) (s : State) : (setSlice i v s).lehr = s.lehr := rfl
@[simp] theorem setSlice_drains (i : Nat) (v : Slice) (s : State) : (setSlice i v s).drains = s.drains := rfl
@[simp] theorem setSlice_fetches (i : Nat) (v : Slice) (s : State) : (setSlice i v s).fetches = s.fetches := rfl
@[simp] theorem setSlice_nextFetch (i : Nat) (v : Slice) (s : State) : (setSlice i v s).nextFetch = s.nextFetch := rfl
@[simp] theorem setSlice_partials (i : Nat) (v : Slice) (s : State) : (setSlice i v s).partials = s.partials := rfl
@[simp] theorem setSlice_nextPart (i : Nat) (v : Slice) (s : State) : (setSlice i v s).nextPart = s.nextPart := rfl
@[simp] theorem setSlice_descs (i : Nat) (v : Slice) (s : State) : (setSlice i v s).descs = s.descs := rfl
@[simp] theorem setSlice_host (i : Nat) (v : Slice) (s : State) : (setSlice i v s).host = s.host := rfl
@[simp] theorem setSlice_place (i : Nat) (v : Slice) (s : State) : (setSlice i v s).place = s.place := rfl
@[simp] theorem setSlice_remote (i : Nat) (v : Slice) (s : State) : (setSlice i v s).remote = s.remote := rfl
@[simp] theorem setSlice_errs (i : Nat) (v : Slice) (s : State) : (setSlice i v s).errs = s.errs := rfl
@[simp] theorem setSlice_hang (i : Nat) (v : Slice) (s : State) : (setSlice i v s).hang = s.hang := rfl
@[simp] theorem setSlice_rung (i : Nat) (v : Slice) (s : State) : (setSlice i v s).rung = s.rung := rfl
@[simp] theorem setSlice_dump (i : Nat) (v : Slice) (s : State) : (setSlice i v s).dump = s.dump := rfl
@[simp] theorem setSlice_units (i : Nat) (v : Slice) (s : State) : (setSlice i v s).units = s.units := rfl
@[simp] theorem setSlice_mems (i : Nat) (v : Slice) (s : State) : (setSlice i v s).mems = s.mems := rfl
@[simp] theorem setSlice_repair (i : Nat) (v : Slice) (s : State) : (setSlice i v s).repair = s.repair := rfl
@[simp] theorem setSlice_sup (i : Nat) (v : Slice) (s : State) : (setSlice i v s).sup = s.sup := rfl
@[simp] theorem setSlice_fw (i : Nat) (v : Slice) (s : State) : (setSlice i v s).fw = s.fw := rfl
@[simp] theorem setSlice_ret (i : Nat) (v : Slice) (s : State) : (setSlice i v s).ret = s.ret := rfl
@[simp] theorem setSlice_i3c (i : Nat) (v : Slice) (s : State) : (setSlice i v s).i3c = s.i3c := rfl
@[simp] theorem setSlice_pins (i : Nat) (v : Slice) (s : State) : (setSlice i v s).pins = s.pins := rfl

/-! ### setDesc -/

@[simp] theorem setDesc_pending (d : Nat) (v : SDesc) (s : State) : (setDesc d v s).pending = s.pending := rfl
@[simp] theorem setDesc_freeCtr (d : Nat) (v : SDesc) (s : State) : (setDesc d v s).freeCtr = s.freeCtr := rfl
@[simp] theorem setDesc_sent (d : Nat) (v : SDesc) (s : State) : (setDesc d v s).sent = s.sent := rfl
@[simp] theorem setDesc_cycle (d : Nat) (v : SDesc) (s : State) : (setDesc d v s).cycle = s.cycle := rfl
@[simp] theorem setDesc_bus (d : Nat) (v : SDesc) (s : State) : (setDesc d v s).bus = s.bus := rfl
@[simp] theorem setDesc_tower (d : Nat) (v : SDesc) (s : State) : (setDesc d v s).tower = s.tower := rfl
@[simp] theorem setDesc_regs (d : Nat) (v : SDesc) (s : State) : (setDesc d v s).regs = s.regs := rfl
@[simp] theorem setDesc_mem (d : Nat) (v : SDesc) (s : State) : (setDesc d v s).mem = s.mem := rfl
@[simp] theorem setDesc_tiers (d : Nat) (v : SDesc) (s : State) : (setDesc d v s).tiers = s.tiers := rfl
@[simp] theorem setDesc_queues (d : Nat) (v : SDesc) (s : State) : (setDesc d v s).queues = s.queues := rfl
@[simp] theorem setDesc_arb (d : Nat) (v : SDesc) (s : State) : (setDesc d v s).arb = s.arb := rfl
@[simp] theorem setDesc_cmds (d : Nat) (v : SDesc) (s : State) : (setDesc d v s).cmds = s.cmds := rfl
@[simp] theorem setDesc_nextId (d : Nat) (v : SDesc) (s : State) : (setDesc d v s).nextId = s.nextId := rfl
@[simp] theorem setDesc_ctxs (d : Nat) (v : SDesc) (s : State) : (setDesc d v s).ctxs = s.ctxs := rfl
@[simp] theorem setDesc_valves (d : Nat) (v : SDesc) (s : State) : (setDesc d v s).valves = s.valves := rfl
@[simp] theorem setDesc_mods (d : Nat) (v : SDesc) (s : State) : (setDesc d v s).mods = s.mods := rfl
@[simp] theorem setDesc_tables (d : Nat) (v : SDesc) (s : State) : (setDesc d v s).tables = s.tables := rfl
@[simp] theorem setDesc_slices (d : Nat) (v : SDesc) (s : State) : (setDesc d v s).slices = s.slices := rfl
@[simp] theorem setDesc_flushing (d : Nat) (v : SDesc) (s : State) : (setDesc d v s).flushing = s.flushing := rfl
@[simp] theorem setDesc_refills (d : Nat) (v : SDesc) (s : State) : (setDesc d v s).refills = s.refills := rfl
@[simp] theorem setDesc_waits (d : Nat) (v : SDesc) (s : State) : (setDesc d v s).waits = s.waits := rfl
@[simp] theorem setDesc_geom (d : Nat) (v : SDesc) (s : State) : (setDesc d v s).geom = s.geom := rfl
@[simp] theorem setDesc_lehr (d : Nat) (v : SDesc) (s : State) : (setDesc d v s).lehr = s.lehr := rfl
@[simp] theorem setDesc_drains (d : Nat) (v : SDesc) (s : State) : (setDesc d v s).drains = s.drains := rfl
@[simp] theorem setDesc_fetches (d : Nat) (v : SDesc) (s : State) : (setDesc d v s).fetches = s.fetches := rfl
@[simp] theorem setDesc_nextFetch (d : Nat) (v : SDesc) (s : State) : (setDesc d v s).nextFetch = s.nextFetch := rfl
@[simp] theorem setDesc_partials (d : Nat) (v : SDesc) (s : State) : (setDesc d v s).partials = s.partials := rfl
@[simp] theorem setDesc_nextPart (d : Nat) (v : SDesc) (s : State) : (setDesc d v s).nextPart = s.nextPart := rfl
@[simp] theorem setDesc_host (d : Nat) (v : SDesc) (s : State) : (setDesc d v s).host = s.host := rfl
@[simp] theorem setDesc_place (d : Nat) (v : SDesc) (s : State) : (setDesc d v s).place = s.place := rfl
@[simp] theorem setDesc_remote (d : Nat) (v : SDesc) (s : State) : (setDesc d v s).remote = s.remote := rfl
@[simp] theorem setDesc_errs (d : Nat) (v : SDesc) (s : State) : (setDesc d v s).errs = s.errs := rfl
@[simp] theorem setDesc_hang (d : Nat) (v : SDesc) (s : State) : (setDesc d v s).hang = s.hang := rfl
@[simp] theorem setDesc_rung (d : Nat) (v : SDesc) (s : State) : (setDesc d v s).rung = s.rung := rfl
@[simp] theorem setDesc_dump (d : Nat) (v : SDesc) (s : State) : (setDesc d v s).dump = s.dump := rfl
@[simp] theorem setDesc_units (d : Nat) (v : SDesc) (s : State) : (setDesc d v s).units = s.units := rfl
@[simp] theorem setDesc_mems (d : Nat) (v : SDesc) (s : State) : (setDesc d v s).mems = s.mems := rfl
@[simp] theorem setDesc_repair (d : Nat) (v : SDesc) (s : State) : (setDesc d v s).repair = s.repair := rfl
@[simp] theorem setDesc_sup (d : Nat) (v : SDesc) (s : State) : (setDesc d v s).sup = s.sup := rfl
@[simp] theorem setDesc_fw (d : Nat) (v : SDesc) (s : State) : (setDesc d v s).fw = s.fw := rfl
@[simp] theorem setDesc_ret (d : Nat) (v : SDesc) (s : State) : (setDesc d v s).ret = s.ret := rfl
@[simp] theorem setDesc_i3c (d : Nat) (v : SDesc) (s : State) : (setDesc d v s).i3c = s.i3c := rfl
@[simp] theorem setDesc_pins (d : Nat) (v : SDesc) (s : State) : (setDesc d v s).pins = s.pins := rfl

/-! ### setValve -/

@[simp] theorem setValve_pending (v n : Nat) (s : State) : (setValve v n s).pending = s.pending := rfl
@[simp] theorem setValve_freeCtr (v n : Nat) (s : State) : (setValve v n s).freeCtr = s.freeCtr := rfl
@[simp] theorem setValve_sent (v n : Nat) (s : State) : (setValve v n s).sent = s.sent := rfl
@[simp] theorem setValve_cycle (v n : Nat) (s : State) : (setValve v n s).cycle = s.cycle := rfl
@[simp] theorem setValve_bus (v n : Nat) (s : State) : (setValve v n s).bus = s.bus := rfl
@[simp] theorem setValve_tower (v n : Nat) (s : State) : (setValve v n s).tower = s.tower := rfl
@[simp] theorem setValve_regs (v n : Nat) (s : State) : (setValve v n s).regs = s.regs := rfl
@[simp] theorem setValve_mem (v n : Nat) (s : State) : (setValve v n s).mem = s.mem := rfl
@[simp] theorem setValve_tiers (v n : Nat) (s : State) : (setValve v n s).tiers = s.tiers := rfl
@[simp] theorem setValve_queues (v n : Nat) (s : State) : (setValve v n s).queues = s.queues := rfl
@[simp] theorem setValve_arb (v n : Nat) (s : State) : (setValve v n s).arb = s.arb := rfl
@[simp] theorem setValve_cmds (v n : Nat) (s : State) : (setValve v n s).cmds = s.cmds := rfl
@[simp] theorem setValve_nextId (v n : Nat) (s : State) : (setValve v n s).nextId = s.nextId := rfl
@[simp] theorem setValve_ctxs (v n : Nat) (s : State) : (setValve v n s).ctxs = s.ctxs := rfl
@[simp] theorem setValve_tables (v n : Nat) (s : State) : (setValve v n s).tables = s.tables := rfl
@[simp] theorem setValve_slices (v n : Nat) (s : State) : (setValve v n s).slices = s.slices := rfl
@[simp] theorem setValve_flushing (v n : Nat) (s : State) : (setValve v n s).flushing = s.flushing := rfl
@[simp] theorem setValve_refills (v n : Nat) (s : State) : (setValve v n s).refills = s.refills := rfl
@[simp] theorem setValve_waits (v n : Nat) (s : State) : (setValve v n s).waits = s.waits := rfl
@[simp] theorem setValve_geom (v n : Nat) (s : State) : (setValve v n s).geom = s.geom := rfl
@[simp] theorem setValve_lehr (v n : Nat) (s : State) : (setValve v n s).lehr = s.lehr := rfl
@[simp] theorem setValve_drains (v n : Nat) (s : State) : (setValve v n s).drains = s.drains := rfl
@[simp] theorem setValve_fetches (v n : Nat) (s : State) : (setValve v n s).fetches = s.fetches := rfl
@[simp] theorem setValve_nextFetch (v n : Nat) (s : State) : (setValve v n s).nextFetch = s.nextFetch := rfl
@[simp] theorem setValve_partials (v n : Nat) (s : State) : (setValve v n s).partials = s.partials := rfl
@[simp] theorem setValve_nextPart (v n : Nat) (s : State) : (setValve v n s).nextPart = s.nextPart := rfl
@[simp] theorem setValve_descs (v n : Nat) (s : State) : (setValve v n s).descs = s.descs := rfl
@[simp] theorem setValve_host (v n : Nat) (s : State) : (setValve v n s).host = s.host := rfl
@[simp] theorem setValve_place (v n : Nat) (s : State) : (setValve v n s).place = s.place := rfl
@[simp] theorem setValve_remote (v n : Nat) (s : State) : (setValve v n s).remote = s.remote := rfl
@[simp] theorem setValve_errs (v n : Nat) (s : State) : (setValve v n s).errs = s.errs := rfl
@[simp] theorem setValve_hang (v n : Nat) (s : State) : (setValve v n s).hang = s.hang := rfl
@[simp] theorem setValve_rung (v n : Nat) (s : State) : (setValve v n s).rung = s.rung := rfl
@[simp] theorem setValve_dump (v n : Nat) (s : State) : (setValve v n s).dump = s.dump := rfl
@[simp] theorem setValve_units (v n : Nat) (s : State) : (setValve v n s).units = s.units := rfl
@[simp] theorem setValve_mems (v n : Nat) (s : State) : (setValve v n s).mems = s.mems := rfl
@[simp] theorem setValve_repair (v n : Nat) (s : State) : (setValve v n s).repair = s.repair := rfl
@[simp] theorem setValve_sup (v n : Nat) (s : State) : (setValve v n s).sup = s.sup := rfl
@[simp] theorem setValve_fw (v n : Nat) (s : State) : (setValve v n s).fw = s.fw := rfl
@[simp] theorem setValve_ret (v n : Nat) (s : State) : (setValve v n s).ret = s.ret := rfl
@[simp] theorem setValve_i3c (v n : Nat) (s : State) : (setValve v n s).i3c = s.i3c := rfl
@[simp] theorem setValve_pins (v n : Nat) (s : State) : (setValve v n s).pins = s.pins := rfl

/-! ### setUnit -/

@[simp] theorem setUnit_pending (u : Nat) (v : UnitRec) (s : State) : (setUnit u v s).pending = s.pending := rfl
@[simp] theorem setUnit_freeCtr (u : Nat) (v : UnitRec) (s : State) : (setUnit u v s).freeCtr = s.freeCtr := rfl
@[simp] theorem setUnit_sent (u : Nat) (v : UnitRec) (s : State) : (setUnit u v s).sent = s.sent := rfl
@[simp] theorem setUnit_cycle (u : Nat) (v : UnitRec) (s : State) : (setUnit u v s).cycle = s.cycle := rfl
@[simp] theorem setUnit_bus (u : Nat) (v : UnitRec) (s : State) : (setUnit u v s).bus = s.bus := rfl
@[simp] theorem setUnit_tower (u : Nat) (v : UnitRec) (s : State) : (setUnit u v s).tower = s.tower := rfl
@[simp] theorem setUnit_regs (u : Nat) (v : UnitRec) (s : State) : (setUnit u v s).regs = s.regs := rfl
@[simp] theorem setUnit_mem (u : Nat) (v : UnitRec) (s : State) : (setUnit u v s).mem = s.mem := rfl
@[simp] theorem setUnit_tiers (u : Nat) (v : UnitRec) (s : State) : (setUnit u v s).tiers = s.tiers := rfl
@[simp] theorem setUnit_queues (u : Nat) (v : UnitRec) (s : State) : (setUnit u v s).queues = s.queues := rfl
@[simp] theorem setUnit_arb (u : Nat) (v : UnitRec) (s : State) : (setUnit u v s).arb = s.arb := rfl
@[simp] theorem setUnit_cmds (u : Nat) (v : UnitRec) (s : State) : (setUnit u v s).cmds = s.cmds := rfl
@[simp] theorem setUnit_nextId (u : Nat) (v : UnitRec) (s : State) : (setUnit u v s).nextId = s.nextId := rfl
@[simp] theorem setUnit_ctxs (u : Nat) (v : UnitRec) (s : State) : (setUnit u v s).ctxs = s.ctxs := rfl
@[simp] theorem setUnit_valves (u : Nat) (v : UnitRec) (s : State) : (setUnit u v s).valves = s.valves := rfl
@[simp] theorem setUnit_mods (u : Nat) (v : UnitRec) (s : State) : (setUnit u v s).mods = s.mods := rfl
@[simp] theorem setUnit_tables (u : Nat) (v : UnitRec) (s : State) : (setUnit u v s).tables = s.tables := rfl
@[simp] theorem setUnit_slices (u : Nat) (v : UnitRec) (s : State) : (setUnit u v s).slices = s.slices := rfl
@[simp] theorem setUnit_flushing (u : Nat) (v : UnitRec) (s : State) : (setUnit u v s).flushing = s.flushing := rfl
@[simp] theorem setUnit_refills (u : Nat) (v : UnitRec) (s : State) : (setUnit u v s).refills = s.refills := rfl
@[simp] theorem setUnit_waits (u : Nat) (v : UnitRec) (s : State) : (setUnit u v s).waits = s.waits := rfl
@[simp] theorem setUnit_geom (u : Nat) (v : UnitRec) (s : State) : (setUnit u v s).geom = s.geom := rfl
@[simp] theorem setUnit_lehr (u : Nat) (v : UnitRec) (s : State) : (setUnit u v s).lehr = s.lehr := rfl
@[simp] theorem setUnit_drains (u : Nat) (v : UnitRec) (s : State) : (setUnit u v s).drains = s.drains := rfl
@[simp] theorem setUnit_fetches (u : Nat) (v : UnitRec) (s : State) : (setUnit u v s).fetches = s.fetches := rfl
@[simp] theorem setUnit_nextFetch (u : Nat) (v : UnitRec) (s : State) : (setUnit u v s).nextFetch = s.nextFetch := rfl
@[simp] theorem setUnit_partials (u : Nat) (v : UnitRec) (s : State) : (setUnit u v s).partials = s.partials := rfl
@[simp] theorem setUnit_nextPart (u : Nat) (v : UnitRec) (s : State) : (setUnit u v s).nextPart = s.nextPart := rfl
@[simp] theorem setUnit_descs (u : Nat) (v : UnitRec) (s : State) : (setUnit u v s).descs = s.descs := rfl
@[simp] theorem setUnit_host (u : Nat) (v : UnitRec) (s : State) : (setUnit u v s).host = s.host := rfl
@[simp] theorem setUnit_place (u : Nat) (v : UnitRec) (s : State) : (setUnit u v s).place = s.place := rfl
@[simp] theorem setUnit_remote (u : Nat) (v : UnitRec) (s : State) : (setUnit u v s).remote = s.remote := rfl
@[simp] theorem setUnit_errs (u : Nat) (v : UnitRec) (s : State) : (setUnit u v s).errs = s.errs := rfl
@[simp] theorem setUnit_hang (u : Nat) (v : UnitRec) (s : State) : (setUnit u v s).hang = s.hang := rfl
@[simp] theorem setUnit_rung (u : Nat) (v : UnitRec) (s : State) : (setUnit u v s).rung = s.rung := rfl
@[simp] theorem setUnit_dump (u : Nat) (v : UnitRec) (s : State) : (setUnit u v s).dump = s.dump := rfl
@[simp] theorem setUnit_mems (u : Nat) (v : UnitRec) (s : State) : (setUnit u v s).mems = s.mems := rfl
@[simp] theorem setUnit_repair (u : Nat) (v : UnitRec) (s : State) : (setUnit u v s).repair = s.repair := rfl
@[simp] theorem setUnit_sup (u : Nat) (v : UnitRec) (s : State) : (setUnit u v s).sup = s.sup := rfl
@[simp] theorem setUnit_fw (u : Nat) (v : UnitRec) (s : State) : (setUnit u v s).fw = s.fw := rfl
@[simp] theorem setUnit_ret (u : Nat) (v : UnitRec) (s : State) : (setUnit u v s).ret = s.ret := rfl
@[simp] theorem setUnit_i3c (u : Nat) (v : UnitRec) (s : State) : (setUnit u v s).i3c = s.i3c := rfl
@[simp] theorem setUnit_pins (u : Nat) (v : UnitRec) (s : State) : (setUnit u v s).pins = s.pins := rfl

/-! ### setMemUnit -/

@[simp] theorem setMemUnit_pending (u : Nat) (v : MemUnit) (s : State) : (setMemUnit u v s).pending = s.pending := rfl
@[simp] theorem setMemUnit_freeCtr (u : Nat) (v : MemUnit) (s : State) : (setMemUnit u v s).freeCtr = s.freeCtr := rfl
@[simp] theorem setMemUnit_sent (u : Nat) (v : MemUnit) (s : State) : (setMemUnit u v s).sent = s.sent := rfl
@[simp] theorem setMemUnit_cycle (u : Nat) (v : MemUnit) (s : State) : (setMemUnit u v s).cycle = s.cycle := rfl
@[simp] theorem setMemUnit_bus (u : Nat) (v : MemUnit) (s : State) : (setMemUnit u v s).bus = s.bus := rfl
@[simp] theorem setMemUnit_tower (u : Nat) (v : MemUnit) (s : State) : (setMemUnit u v s).tower = s.tower := rfl
@[simp] theorem setMemUnit_regs (u : Nat) (v : MemUnit) (s : State) : (setMemUnit u v s).regs = s.regs := rfl
@[simp] theorem setMemUnit_mem (u : Nat) (v : MemUnit) (s : State) : (setMemUnit u v s).mem = s.mem := rfl
@[simp] theorem setMemUnit_tiers (u : Nat) (v : MemUnit) (s : State) : (setMemUnit u v s).tiers = s.tiers := rfl
@[simp] theorem setMemUnit_queues (u : Nat) (v : MemUnit) (s : State) : (setMemUnit u v s).queues = s.queues := rfl
@[simp] theorem setMemUnit_arb (u : Nat) (v : MemUnit) (s : State) : (setMemUnit u v s).arb = s.arb := rfl
@[simp] theorem setMemUnit_cmds (u : Nat) (v : MemUnit) (s : State) : (setMemUnit u v s).cmds = s.cmds := rfl
@[simp] theorem setMemUnit_nextId (u : Nat) (v : MemUnit) (s : State) : (setMemUnit u v s).nextId = s.nextId := rfl
@[simp] theorem setMemUnit_ctxs (u : Nat) (v : MemUnit) (s : State) : (setMemUnit u v s).ctxs = s.ctxs := rfl
@[simp] theorem setMemUnit_valves (u : Nat) (v : MemUnit) (s : State) : (setMemUnit u v s).valves = s.valves := rfl
@[simp] theorem setMemUnit_mods (u : Nat) (v : MemUnit) (s : State) : (setMemUnit u v s).mods = s.mods := rfl
@[simp] theorem setMemUnit_tables (u : Nat) (v : MemUnit) (s : State) : (setMemUnit u v s).tables = s.tables := rfl
@[simp] theorem setMemUnit_slices (u : Nat) (v : MemUnit) (s : State) : (setMemUnit u v s).slices = s.slices := rfl
@[simp] theorem setMemUnit_flushing (u : Nat) (v : MemUnit) (s : State) : (setMemUnit u v s).flushing = s.flushing := rfl
@[simp] theorem setMemUnit_refills (u : Nat) (v : MemUnit) (s : State) : (setMemUnit u v s).refills = s.refills := rfl
@[simp] theorem setMemUnit_waits (u : Nat) (v : MemUnit) (s : State) : (setMemUnit u v s).waits = s.waits := rfl
@[simp] theorem setMemUnit_geom (u : Nat) (v : MemUnit) (s : State) : (setMemUnit u v s).geom = s.geom := rfl
@[simp] theorem setMemUnit_lehr (u : Nat) (v : MemUnit) (s : State) : (setMemUnit u v s).lehr = s.lehr := rfl
@[simp] theorem setMemUnit_drains (u : Nat) (v : MemUnit) (s : State) : (setMemUnit u v s).drains = s.drains := rfl
@[simp] theorem setMemUnit_fetches (u : Nat) (v : MemUnit) (s : State) : (setMemUnit u v s).fetches = s.fetches := rfl
@[simp] theorem setMemUnit_nextFetch (u : Nat) (v : MemUnit) (s : State) : (setMemUnit u v s).nextFetch = s.nextFetch := rfl
@[simp] theorem setMemUnit_partials (u : Nat) (v : MemUnit) (s : State) : (setMemUnit u v s).partials = s.partials := rfl
@[simp] theorem setMemUnit_nextPart (u : Nat) (v : MemUnit) (s : State) : (setMemUnit u v s).nextPart = s.nextPart := rfl
@[simp] theorem setMemUnit_descs (u : Nat) (v : MemUnit) (s : State) : (setMemUnit u v s).descs = s.descs := rfl
@[simp] theorem setMemUnit_host (u : Nat) (v : MemUnit) (s : State) : (setMemUnit u v s).host = s.host := rfl
@[simp] theorem setMemUnit_place (u : Nat) (v : MemUnit) (s : State) : (setMemUnit u v s).place = s.place := rfl
@[simp] theorem setMemUnit_remote (u : Nat) (v : MemUnit) (s : State) : (setMemUnit u v s).remote = s.remote := rfl
@[simp] theorem setMemUnit_errs (u : Nat) (v : MemUnit) (s : State) : (setMemUnit u v s).errs = s.errs := rfl
@[simp] theorem setMemUnit_hang (u : Nat) (v : MemUnit) (s : State) : (setMemUnit u v s).hang = s.hang := rfl
@[simp] theorem setMemUnit_rung (u : Nat) (v : MemUnit) (s : State) : (setMemUnit u v s).rung = s.rung := rfl
@[simp] theorem setMemUnit_dump (u : Nat) (v : MemUnit) (s : State) : (setMemUnit u v s).dump = s.dump := rfl
@[simp] theorem setMemUnit_units (u : Nat) (v : MemUnit) (s : State) : (setMemUnit u v s).units = s.units := rfl
@[simp] theorem setMemUnit_repair (u : Nat) (v : MemUnit) (s : State) : (setMemUnit u v s).repair = s.repair := rfl
@[simp] theorem setMemUnit_sup (u : Nat) (v : MemUnit) (s : State) : (setMemUnit u v s).sup = s.sup := rfl
@[simp] theorem setMemUnit_fw (u : Nat) (v : MemUnit) (s : State) : (setMemUnit u v s).fw = s.fw := rfl
@[simp] theorem setMemUnit_ret (u : Nat) (v : MemUnit) (s : State) : (setMemUnit u v s).ret = s.ret := rfl
@[simp] theorem setMemUnit_i3c (u : Nat) (v : MemUnit) (s : State) : (setMemUnit u v s).i3c = s.i3c := rfl
@[simp] theorem setMemUnit_pins (u : Nat) (v : MemUnit) (s : State) : (setMemUnit u v s).pins = s.pins := rfl

/-! ### modCmd -/

@[simp] theorem modCmd_pending (id : Nat) (f : Cmd → Cmd) (s : State) : (modCmd id f s).pending = s.pending := rfl
@[simp] theorem modCmd_freeCtr (id : Nat) (f : Cmd → Cmd) (s : State) : (modCmd id f s).freeCtr = s.freeCtr := rfl
@[simp] theorem modCmd_sent (id : Nat) (f : Cmd → Cmd) (s : State) : (modCmd id f s).sent = s.sent := rfl
@[simp] theorem modCmd_cycle (id : Nat) (f : Cmd → Cmd) (s : State) : (modCmd id f s).cycle = s.cycle := rfl
@[simp] theorem modCmd_bus (id : Nat) (f : Cmd → Cmd) (s : State) : (modCmd id f s).bus = s.bus := rfl
@[simp] theorem modCmd_tower (id : Nat) (f : Cmd → Cmd) (s : State) : (modCmd id f s).tower = s.tower := rfl
@[simp] theorem modCmd_regs (id : Nat) (f : Cmd → Cmd) (s : State) : (modCmd id f s).regs = s.regs := rfl
@[simp] theorem modCmd_mem (id : Nat) (f : Cmd → Cmd) (s : State) : (modCmd id f s).mem = s.mem := rfl
@[simp] theorem modCmd_tiers (id : Nat) (f : Cmd → Cmd) (s : State) : (modCmd id f s).tiers = s.tiers := rfl
@[simp] theorem modCmd_queues (id : Nat) (f : Cmd → Cmd) (s : State) : (modCmd id f s).queues = s.queues := rfl
@[simp] theorem modCmd_arb (id : Nat) (f : Cmd → Cmd) (s : State) : (modCmd id f s).arb = s.arb := rfl
@[simp] theorem modCmd_nextId (id : Nat) (f : Cmd → Cmd) (s : State) : (modCmd id f s).nextId = s.nextId := rfl
@[simp] theorem modCmd_ctxs (id : Nat) (f : Cmd → Cmd) (s : State) : (modCmd id f s).ctxs = s.ctxs := rfl
@[simp] theorem modCmd_valves (id : Nat) (f : Cmd → Cmd) (s : State) : (modCmd id f s).valves = s.valves := rfl
@[simp] theorem modCmd_mods (id : Nat) (f : Cmd → Cmd) (s : State) : (modCmd id f s).mods = s.mods := rfl
@[simp] theorem modCmd_tables (id : Nat) (f : Cmd → Cmd) (s : State) : (modCmd id f s).tables = s.tables := rfl
@[simp] theorem modCmd_slices (id : Nat) (f : Cmd → Cmd) (s : State) : (modCmd id f s).slices = s.slices := rfl
@[simp] theorem modCmd_flushing (id : Nat) (f : Cmd → Cmd) (s : State) : (modCmd id f s).flushing = s.flushing := rfl
@[simp] theorem modCmd_refills (id : Nat) (f : Cmd → Cmd) (s : State) : (modCmd id f s).refills = s.refills := rfl
@[simp] theorem modCmd_waits (id : Nat) (f : Cmd → Cmd) (s : State) : (modCmd id f s).waits = s.waits := rfl
@[simp] theorem modCmd_geom (id : Nat) (f : Cmd → Cmd) (s : State) : (modCmd id f s).geom = s.geom := rfl
@[simp] theorem modCmd_lehr (id : Nat) (f : Cmd → Cmd) (s : State) : (modCmd id f s).lehr = s.lehr := rfl
@[simp] theorem modCmd_drains (id : Nat) (f : Cmd → Cmd) (s : State) : (modCmd id f s).drains = s.drains := rfl
@[simp] theorem modCmd_fetches (id : Nat) (f : Cmd → Cmd) (s : State) : (modCmd id f s).fetches = s.fetches := rfl
@[simp] theorem modCmd_nextFetch (id : Nat) (f : Cmd → Cmd) (s : State) : (modCmd id f s).nextFetch = s.nextFetch := rfl
@[simp] theorem modCmd_partials (id : Nat) (f : Cmd → Cmd) (s : State) : (modCmd id f s).partials = s.partials := rfl
@[simp] theorem modCmd_nextPart (id : Nat) (f : Cmd → Cmd) (s : State) : (modCmd id f s).nextPart = s.nextPart := rfl
@[simp] theorem modCmd_descs (id : Nat) (f : Cmd → Cmd) (s : State) : (modCmd id f s).descs = s.descs := rfl
@[simp] theorem modCmd_host (id : Nat) (f : Cmd → Cmd) (s : State) : (modCmd id f s).host = s.host := rfl
@[simp] theorem modCmd_place (id : Nat) (f : Cmd → Cmd) (s : State) : (modCmd id f s).place = s.place := rfl
@[simp] theorem modCmd_remote (id : Nat) (f : Cmd → Cmd) (s : State) : (modCmd id f s).remote = s.remote := rfl
@[simp] theorem modCmd_errs (id : Nat) (f : Cmd → Cmd) (s : State) : (modCmd id f s).errs = s.errs := rfl
@[simp] theorem modCmd_hang (id : Nat) (f : Cmd → Cmd) (s : State) : (modCmd id f s).hang = s.hang := rfl
@[simp] theorem modCmd_rung (id : Nat) (f : Cmd → Cmd) (s : State) : (modCmd id f s).rung = s.rung := rfl
@[simp] theorem modCmd_dump (id : Nat) (f : Cmd → Cmd) (s : State) : (modCmd id f s).dump = s.dump := rfl
@[simp] theorem modCmd_units (id : Nat) (f : Cmd → Cmd) (s : State) : (modCmd id f s).units = s.units := rfl
@[simp] theorem modCmd_mems (id : Nat) (f : Cmd → Cmd) (s : State) : (modCmd id f s).mems = s.mems := rfl
@[simp] theorem modCmd_repair (id : Nat) (f : Cmd → Cmd) (s : State) : (modCmd id f s).repair = s.repair := rfl
@[simp] theorem modCmd_sup (id : Nat) (f : Cmd → Cmd) (s : State) : (modCmd id f s).sup = s.sup := rfl
@[simp] theorem modCmd_fw (id : Nat) (f : Cmd → Cmd) (s : State) : (modCmd id f s).fw = s.fw := rfl
@[simp] theorem modCmd_ret (id : Nat) (f : Cmd → Cmd) (s : State) : (modCmd id f s).ret = s.ret := rfl
@[simp] theorem modCmd_i3c (id : Nat) (f : Cmd → Cmd) (s : State) : (modCmd id f s).i3c = s.i3c := rfl
@[simp] theorem modCmd_pins (id : Nat) (f : Cmd → Cmd) (s : State) : (modCmd id f s).pins = s.pins := rfl

/-! ### progress -/

@[simp] theorem progress_pending (id : Nat) (s : State) : (progress id s).pending = s.pending := rfl
@[simp] theorem progress_freeCtr (id : Nat) (s : State) : (progress id s).freeCtr = s.freeCtr := rfl
@[simp] theorem progress_sent (id : Nat) (s : State) : (progress id s).sent = s.sent := rfl
@[simp] theorem progress_cycle (id : Nat) (s : State) : (progress id s).cycle = s.cycle := rfl
@[simp] theorem progress_bus (id : Nat) (s : State) : (progress id s).bus = s.bus := rfl
@[simp] theorem progress_tower (id : Nat) (s : State) : (progress id s).tower = s.tower := rfl
@[simp] theorem progress_regs (id : Nat) (s : State) : (progress id s).regs = s.regs := rfl
@[simp] theorem progress_mem (id : Nat) (s : State) : (progress id s).mem = s.mem := rfl
@[simp] theorem progress_tiers (id : Nat) (s : State) : (progress id s).tiers = s.tiers := rfl
@[simp] theorem progress_queues (id : Nat) (s : State) : (progress id s).queues = s.queues := rfl
@[simp] theorem progress_arb (id : Nat) (s : State) : (progress id s).arb = s.arb := rfl
@[simp] theorem progress_nextId (id : Nat) (s : State) : (progress id s).nextId = s.nextId := rfl
@[simp] theorem progress_ctxs (id : Nat) (s : State) : (progress id s).ctxs = s.ctxs := rfl
@[simp] theorem progress_valves (id : Nat) (s : State) : (progress id s).valves = s.valves := rfl
@[simp] theorem progress_mods (id : Nat) (s : State) : (progress id s).mods = s.mods := rfl
@[simp] theorem progress_tables (id : Nat) (s : State) : (progress id s).tables = s.tables := rfl
@[simp] theorem progress_slices (id : Nat) (s : State) : (progress id s).slices = s.slices := rfl
@[simp] theorem progress_flushing (id : Nat) (s : State) : (progress id s).flushing = s.flushing := rfl
@[simp] theorem progress_refills (id : Nat) (s : State) : (progress id s).refills = s.refills := rfl
@[simp] theorem progress_waits (id : Nat) (s : State) : (progress id s).waits = s.waits := rfl
@[simp] theorem progress_geom (id : Nat) (s : State) : (progress id s).geom = s.geom := rfl
@[simp] theorem progress_lehr (id : Nat) (s : State) : (progress id s).lehr = s.lehr := rfl
@[simp] theorem progress_drains (id : Nat) (s : State) : (progress id s).drains = s.drains := rfl
@[simp] theorem progress_fetches (id : Nat) (s : State) : (progress id s).fetches = s.fetches := rfl
@[simp] theorem progress_nextFetch (id : Nat) (s : State) : (progress id s).nextFetch = s.nextFetch := rfl
@[simp] theorem progress_partials (id : Nat) (s : State) : (progress id s).partials = s.partials := rfl
@[simp] theorem progress_nextPart (id : Nat) (s : State) : (progress id s).nextPart = s.nextPart := rfl
@[simp] theorem progress_descs (id : Nat) (s : State) : (progress id s).descs = s.descs := rfl
@[simp] theorem progress_host (id : Nat) (s : State) : (progress id s).host = s.host := rfl
@[simp] theorem progress_place (id : Nat) (s : State) : (progress id s).place = s.place := rfl
@[simp] theorem progress_remote (id : Nat) (s : State) : (progress id s).remote = s.remote := rfl
@[simp] theorem progress_errs (id : Nat) (s : State) : (progress id s).errs = s.errs := rfl
@[simp] theorem progress_hang (id : Nat) (s : State) : (progress id s).hang = s.hang := rfl
@[simp] theorem progress_rung (id : Nat) (s : State) : (progress id s).rung = s.rung := rfl
@[simp] theorem progress_dump (id : Nat) (s : State) : (progress id s).dump = s.dump := rfl
@[simp] theorem progress_units (id : Nat) (s : State) : (progress id s).units = s.units := rfl
@[simp] theorem progress_mems (id : Nat) (s : State) : (progress id s).mems = s.mems := rfl
@[simp] theorem progress_repair (id : Nat) (s : State) : (progress id s).repair = s.repair := rfl
@[simp] theorem progress_sup (id : Nat) (s : State) : (progress id s).sup = s.sup := rfl
@[simp] theorem progress_fw (id : Nat) (s : State) : (progress id s).fw = s.fw := rfl
@[simp] theorem progress_ret (id : Nat) (s : State) : (progress id s).ret = s.ret := rfl
@[simp] theorem progress_i3c (id : Nat) (s : State) : (progress id s).i3c = s.i3c := rfl
@[simp] theorem progress_pins (id : Nat) (s : State) : (progress id s).pins = s.pins := rfl

/-! ### finish -/

@[simp] theorem finish_pending (id : Nat) (v : Verdict) (s : State) : (finish id v s).pending = s.pending := rfl
@[simp] theorem finish_freeCtr (id : Nat) (v : Verdict) (s : State) : (finish id v s).freeCtr = s.freeCtr := rfl
@[simp] theorem finish_sent (id : Nat) (v : Verdict) (s : State) : (finish id v s).sent = s.sent := rfl
@[simp] theorem finish_cycle (id : Nat) (v : Verdict) (s : State) : (finish id v s).cycle = s.cycle := rfl
@[simp] theorem finish_bus (id : Nat) (v : Verdict) (s : State) : (finish id v s).bus = s.bus := rfl
@[simp] theorem finish_tower (id : Nat) (v : Verdict) (s : State) : (finish id v s).tower = s.tower := rfl
@[simp] theorem finish_regs (id : Nat) (v : Verdict) (s : State) : (finish id v s).regs = s.regs := rfl
@[simp] theorem finish_mem (id : Nat) (v : Verdict) (s : State) : (finish id v s).mem = s.mem := rfl
@[simp] theorem finish_tiers (id : Nat) (v : Verdict) (s : State) : (finish id v s).tiers = s.tiers := rfl
@[simp] theorem finish_queues (id : Nat) (v : Verdict) (s : State) : (finish id v s).queues = s.queues := rfl
@[simp] theorem finish_arb (id : Nat) (v : Verdict) (s : State) : (finish id v s).arb = s.arb := rfl
@[simp] theorem finish_nextId (id : Nat) (v : Verdict) (s : State) : (finish id v s).nextId = s.nextId := rfl
@[simp] theorem finish_ctxs (id : Nat) (v : Verdict) (s : State) : (finish id v s).ctxs = s.ctxs := rfl
@[simp] theorem finish_valves (id : Nat) (v : Verdict) (s : State) : (finish id v s).valves = s.valves := rfl
@[simp] theorem finish_mods (id : Nat) (v : Verdict) (s : State) : (finish id v s).mods = s.mods := rfl
@[simp] theorem finish_tables (id : Nat) (v : Verdict) (s : State) : (finish id v s).tables = s.tables := rfl
@[simp] theorem finish_slices (id : Nat) (v : Verdict) (s : State) : (finish id v s).slices = s.slices := rfl
@[simp] theorem finish_flushing (id : Nat) (v : Verdict) (s : State) : (finish id v s).flushing = s.flushing := rfl
@[simp] theorem finish_refills (id : Nat) (v : Verdict) (s : State) : (finish id v s).refills = s.refills := rfl
@[simp] theorem finish_waits (id : Nat) (v : Verdict) (s : State) : (finish id v s).waits = s.waits := rfl
@[simp] theorem finish_geom (id : Nat) (v : Verdict) (s : State) : (finish id v s).geom = s.geom := rfl
@[simp] theorem finish_lehr (id : Nat) (v : Verdict) (s : State) : (finish id v s).lehr = s.lehr := rfl
@[simp] theorem finish_drains (id : Nat) (v : Verdict) (s : State) : (finish id v s).drains = s.drains := rfl
@[simp] theorem finish_fetches (id : Nat) (v : Verdict) (s : State) : (finish id v s).fetches = s.fetches := rfl
@[simp] theorem finish_nextFetch (id : Nat) (v : Verdict) (s : State) : (finish id v s).nextFetch = s.nextFetch := rfl
@[simp] theorem finish_partials (id : Nat) (v : Verdict) (s : State) : (finish id v s).partials = s.partials := rfl
@[simp] theorem finish_nextPart (id : Nat) (v : Verdict) (s : State) : (finish id v s).nextPart = s.nextPart := rfl
@[simp] theorem finish_descs (id : Nat) (v : Verdict) (s : State) : (finish id v s).descs = s.descs := rfl
@[simp] theorem finish_host (id : Nat) (v : Verdict) (s : State) : (finish id v s).host = s.host := rfl
@[simp] theorem finish_place (id : Nat) (v : Verdict) (s : State) : (finish id v s).place = s.place := rfl
@[simp] theorem finish_remote (id : Nat) (v : Verdict) (s : State) : (finish id v s).remote = s.remote := rfl
@[simp] theorem finish_errs (id : Nat) (v : Verdict) (s : State) : (finish id v s).errs = s.errs := rfl
@[simp] theorem finish_hang (id : Nat) (v : Verdict) (s : State) : (finish id v s).hang = s.hang := rfl
@[simp] theorem finish_rung (id : Nat) (v : Verdict) (s : State) : (finish id v s).rung = s.rung := rfl
@[simp] theorem finish_dump (id : Nat) (v : Verdict) (s : State) : (finish id v s).dump = s.dump := rfl
@[simp] theorem finish_units (id : Nat) (v : Verdict) (s : State) : (finish id v s).units = s.units := rfl
@[simp] theorem finish_mems (id : Nat) (v : Verdict) (s : State) : (finish id v s).mems = s.mems := rfl
@[simp] theorem finish_repair (id : Nat) (v : Verdict) (s : State) : (finish id v s).repair = s.repair := rfl
@[simp] theorem finish_sup (id : Nat) (v : Verdict) (s : State) : (finish id v s).sup = s.sup := rfl
@[simp] theorem finish_fw (id : Nat) (v : Verdict) (s : State) : (finish id v s).fw = s.fw := rfl
@[simp] theorem finish_ret (id : Nat) (v : Verdict) (s : State) : (finish id v s).ret = s.ret := rfl
@[simp] theorem finish_i3c (id : Nat) (v : Verdict) (s : State) : (finish id v s).i3c = s.i3c := rfl
@[simp] theorem finish_pins (id : Nat) (v : Verdict) (s : State) : (finish id v s).pins = s.pins := rfl

/-! ### send -/

@[simp] theorem send_pending (o : Out) (s : State) : (send o s).pending = s.pending := rfl
@[simp] theorem send_freeCtr (o : Out) (s : State) : (send o s).freeCtr = s.freeCtr := rfl
@[simp] theorem send_cycle (o : Out) (s : State) : (send o s).cycle = s.cycle := rfl
@[simp] theorem send_bus (o : Out) (s : State) : (send o s).bus = s.bus := rfl
@[simp] theorem send_tower (o : Out) (s : State) : (send o s).tower = s.tower := rfl
@[simp] theorem send_regs (o : Out) (s : State) : (send o s).regs = s.regs := rfl
@[simp] theorem send_mem (o : Out) (s : State) : (send o s).mem = s.mem := rfl
@[simp] theorem send_tiers (o : Out) (s : State) : (send o s).tiers = s.tiers := rfl
@[simp] theorem send_queues (o : Out) (s : State) : (send o s).queues = s.queues := rfl
@[simp] theorem send_arb (o : Out) (s : State) : (send o s).arb = s.arb := rfl
@[simp] theorem send_cmds (o : Out) (s : State) : (send o s).cmds = s.cmds := rfl
@[simp] theorem send_nextId (o : Out) (s : State) : (send o s).nextId = s.nextId := rfl
@[simp] theorem send_ctxs (o : Out) (s : State) : (send o s).ctxs = s.ctxs := rfl
@[simp] theorem send_valves (o : Out) (s : State) : (send o s).valves = s.valves := rfl
@[simp] theorem send_mods (o : Out) (s : State) : (send o s).mods = s.mods := rfl
@[simp] theorem send_tables (o : Out) (s : State) : (send o s).tables = s.tables := rfl
@[simp] theorem send_slices (o : Out) (s : State) : (send o s).slices = s.slices := rfl
@[simp] theorem send_flushing (o : Out) (s : State) : (send o s).flushing = s.flushing := rfl
@[simp] theorem send_refills (o : Out) (s : State) : (send o s).refills = s.refills := rfl
@[simp] theorem send_waits (o : Out) (s : State) : (send o s).waits = s.waits := rfl
@[simp] theorem send_geom (o : Out) (s : State) : (send o s).geom = s.geom := rfl
@[simp] theorem send_lehr (o : Out) (s : State) : (send o s).lehr = s.lehr := rfl
@[simp] theorem send_drains (o : Out) (s : State) : (send o s).drains = s.drains := rfl
@[simp] theorem send_fetches (o : Out) (s : State) : (send o s).fetches = s.fetches := rfl
@[simp] theorem send_nextFetch (o : Out) (s : State) : (send o s).nextFetch = s.nextFetch := rfl
@[simp] theorem send_partials (o : Out) (s : State) : (send o s).partials = s.partials := rfl
@[simp] theorem send_nextPart (o : Out) (s : State) : (send o s).nextPart = s.nextPart := rfl
@[simp] theorem send_descs (o : Out) (s : State) : (send o s).descs = s.descs := rfl
@[simp] theorem send_host (o : Out) (s : State) : (send o s).host = s.host := rfl
@[simp] theorem send_place (o : Out) (s : State) : (send o s).place = s.place := rfl
@[simp] theorem send_remote (o : Out) (s : State) : (send o s).remote = s.remote := rfl
@[simp] theorem send_errs (o : Out) (s : State) : (send o s).errs = s.errs := rfl
@[simp] theorem send_hang (o : Out) (s : State) : (send o s).hang = s.hang := rfl
@[simp] theorem send_rung (o : Out) (s : State) : (send o s).rung = s.rung := rfl
@[simp] theorem send_dump (o : Out) (s : State) : (send o s).dump = s.dump := rfl
@[simp] theorem send_units (o : Out) (s : State) : (send o s).units = s.units := rfl
@[simp] theorem send_mems (o : Out) (s : State) : (send o s).mems = s.mems := rfl
@[simp] theorem send_repair (o : Out) (s : State) : (send o s).repair = s.repair := rfl
@[simp] theorem send_sup (o : Out) (s : State) : (send o s).sup = s.sup := rfl
@[simp] theorem send_fw (o : Out) (s : State) : (send o s).fw = s.fw := rfl
@[simp] theorem send_ret (o : Out) (s : State) : (send o s).ret = s.ret := rfl
@[simp] theorem send_i3c (o : Out) (s : State) : (send o s).i3c = s.i3c := rfl
@[simp] theorem send_pins (o : Out) (s : State) : (send o s).pins = s.pins := rfl

/-! ### writeMem -/

@[simp] theorem writeMem_pending (space a : Nat) (bs : List Byte) (s : State) : (writeMem space a bs s).pending = s.pending := rfl
@[simp] theorem writeMem_freeCtr (space a : Nat) (bs : List Byte) (s : State) : (writeMem space a bs s).freeCtr = s.freeCtr := rfl
@[simp] theorem writeMem_sent (space a : Nat) (bs : List Byte) (s : State) : (writeMem space a bs s).sent = s.sent := rfl
@[simp] theorem writeMem_cycle (space a : Nat) (bs : List Byte) (s : State) : (writeMem space a bs s).cycle = s.cycle := rfl
@[simp] theorem writeMem_bus (space a : Nat) (bs : List Byte) (s : State) : (writeMem space a bs s).bus = s.bus := rfl
@[simp] theorem writeMem_tower (space a : Nat) (bs : List Byte) (s : State) : (writeMem space a bs s).tower = s.tower := rfl
@[simp] theorem writeMem_regs (space a : Nat) (bs : List Byte) (s : State) : (writeMem space a bs s).regs = s.regs := rfl
@[simp] theorem writeMem_tiers (space a : Nat) (bs : List Byte) (s : State) : (writeMem space a bs s).tiers = s.tiers := rfl
@[simp] theorem writeMem_queues (space a : Nat) (bs : List Byte) (s : State) : (writeMem space a bs s).queues = s.queues := rfl
@[simp] theorem writeMem_arb (space a : Nat) (bs : List Byte) (s : State) : (writeMem space a bs s).arb = s.arb := rfl
@[simp] theorem writeMem_cmds (space a : Nat) (bs : List Byte) (s : State) : (writeMem space a bs s).cmds = s.cmds := rfl
@[simp] theorem writeMem_nextId (space a : Nat) (bs : List Byte) (s : State) : (writeMem space a bs s).nextId = s.nextId := rfl
@[simp] theorem writeMem_ctxs (space a : Nat) (bs : List Byte) (s : State) : (writeMem space a bs s).ctxs = s.ctxs := rfl
@[simp] theorem writeMem_valves (space a : Nat) (bs : List Byte) (s : State) : (writeMem space a bs s).valves = s.valves := rfl
@[simp] theorem writeMem_mods (space a : Nat) (bs : List Byte) (s : State) : (writeMem space a bs s).mods = s.mods := rfl
@[simp] theorem writeMem_tables (space a : Nat) (bs : List Byte) (s : State) : (writeMem space a bs s).tables = s.tables := rfl
@[simp] theorem writeMem_slices (space a : Nat) (bs : List Byte) (s : State) : (writeMem space a bs s).slices = s.slices := rfl
@[simp] theorem writeMem_flushing (space a : Nat) (bs : List Byte) (s : State) : (writeMem space a bs s).flushing = s.flushing := rfl
@[simp] theorem writeMem_refills (space a : Nat) (bs : List Byte) (s : State) : (writeMem space a bs s).refills = s.refills := rfl
@[simp] theorem writeMem_waits (space a : Nat) (bs : List Byte) (s : State) : (writeMem space a bs s).waits = s.waits := rfl
@[simp] theorem writeMem_geom (space a : Nat) (bs : List Byte) (s : State) : (writeMem space a bs s).geom = s.geom := rfl
@[simp] theorem writeMem_lehr (space a : Nat) (bs : List Byte) (s : State) : (writeMem space a bs s).lehr = s.lehr := rfl
@[simp] theorem writeMem_drains (space a : Nat) (bs : List Byte) (s : State) : (writeMem space a bs s).drains = s.drains := rfl
@[simp] theorem writeMem_fetches (space a : Nat) (bs : List Byte) (s : State) : (writeMem space a bs s).fetches = s.fetches := rfl
@[simp] theorem writeMem_nextFetch (space a : Nat) (bs : List Byte) (s : State) : (writeMem space a bs s).nextFetch = s.nextFetch := rfl
@[simp] theorem writeMem_partials (space a : Nat) (bs : List Byte) (s : State) : (writeMem space a bs s).partials = s.partials := rfl
@[simp] theorem writeMem_nextPart (space a : Nat) (bs : List Byte) (s : State) : (writeMem space a bs s).nextPart = s.nextPart := rfl
@[simp] theorem writeMem_descs (space a : Nat) (bs : List Byte) (s : State) : (writeMem space a bs s).descs = s.descs := rfl
@[simp] theorem writeMem_host (space a : Nat) (bs : List Byte) (s : State) : (writeMem space a bs s).host = s.host := rfl
@[simp] theorem writeMem_place (space a : Nat) (bs : List Byte) (s : State) : (writeMem space a bs s).place = s.place := rfl
@[simp] theorem writeMem_remote (space a : Nat) (bs : List Byte) (s : State) : (writeMem space a bs s).remote = s.remote := rfl
@[simp] theorem writeMem_errs (space a : Nat) (bs : List Byte) (s : State) : (writeMem space a bs s).errs = s.errs := rfl
@[simp] theorem writeMem_hang (space a : Nat) (bs : List Byte) (s : State) : (writeMem space a bs s).hang = s.hang := rfl
@[simp] theorem writeMem_rung (space a : Nat) (bs : List Byte) (s : State) : (writeMem space a bs s).rung = s.rung := rfl
@[simp] theorem writeMem_dump (space a : Nat) (bs : List Byte) (s : State) : (writeMem space a bs s).dump = s.dump := rfl
@[simp] theorem writeMem_units (space a : Nat) (bs : List Byte) (s : State) : (writeMem space a bs s).units = s.units := rfl
@[simp] theorem writeMem_mems (space a : Nat) (bs : List Byte) (s : State) : (writeMem space a bs s).mems = s.mems := rfl
@[simp] theorem writeMem_repair (space a : Nat) (bs : List Byte) (s : State) : (writeMem space a bs s).repair = s.repair := rfl
@[simp] theorem writeMem_sup (space a : Nat) (bs : List Byte) (s : State) : (writeMem space a bs s).sup = s.sup := rfl
@[simp] theorem writeMem_fw (space a : Nat) (bs : List Byte) (s : State) : (writeMem space a bs s).fw = s.fw := rfl
@[simp] theorem writeMem_ret (space a : Nat) (bs : List Byte) (s : State) : (writeMem space a bs s).ret = s.ret := rfl
@[simp] theorem writeMem_i3c (space a : Nat) (bs : List Byte) (s : State) : (writeMem space a bs s).i3c = s.i3c := rfl
@[simp] theorem writeMem_pins (space a : Nat) (bs : List Byte) (s : State) : (writeMem space a bs s).pins = s.pins := rfl

/-! ### useFree -/

@[simp] theorem useFree_pending (n : Nat) (s : State) : (useFree n s).pending = s.pending := rfl
@[simp] theorem useFree_sent (n : Nat) (s : State) : (useFree n s).sent = s.sent := rfl
@[simp] theorem useFree_cycle (n : Nat) (s : State) : (useFree n s).cycle = s.cycle := rfl
@[simp] theorem useFree_bus (n : Nat) (s : State) : (useFree n s).bus = s.bus := rfl
@[simp] theorem useFree_tower (n : Nat) (s : State) : (useFree n s).tower = s.tower := rfl
@[simp] theorem useFree_regs (n : Nat) (s : State) : (useFree n s).regs = s.regs := rfl
@[simp] theorem useFree_mem (n : Nat) (s : State) : (useFree n s).mem = s.mem := rfl
@[simp] theorem useFree_tiers (n : Nat) (s : State) : (useFree n s).tiers = s.tiers := rfl
@[simp] theorem useFree_queues (n : Nat) (s : State) : (useFree n s).queues = s.queues := rfl
@[simp] theorem useFree_arb (n : Nat) (s : State) : (useFree n s).arb = s.arb := rfl
@[simp] theorem useFree_cmds (n : Nat) (s : State) : (useFree n s).cmds = s.cmds := rfl
@[simp] theorem useFree_nextId (n : Nat) (s : State) : (useFree n s).nextId = s.nextId := rfl
@[simp] theorem useFree_ctxs (n : Nat) (s : State) : (useFree n s).ctxs = s.ctxs := rfl
@[simp] theorem useFree_valves (n : Nat) (s : State) : (useFree n s).valves = s.valves := rfl
@[simp] theorem useFree_mods (n : Nat) (s : State) : (useFree n s).mods = s.mods := rfl
@[simp] theorem useFree_tables (n : Nat) (s : State) : (useFree n s).tables = s.tables := rfl
@[simp] theorem useFree_slices (n : Nat) (s : State) : (useFree n s).slices = s.slices := rfl
@[simp] theorem useFree_flushing (n : Nat) (s : State) : (useFree n s).flushing = s.flushing := rfl
@[simp] theorem useFree_refills (n : Nat) (s : State) : (useFree n s).refills = s.refills := rfl
@[simp] theorem useFree_waits (n : Nat) (s : State) : (useFree n s).waits = s.waits := rfl
@[simp] theorem useFree_geom (n : Nat) (s : State) : (useFree n s).geom = s.geom := rfl
@[simp] theorem useFree_lehr (n : Nat) (s : State) : (useFree n s).lehr = s.lehr := rfl
@[simp] theorem useFree_drains (n : Nat) (s : State) : (useFree n s).drains = s.drains := rfl
@[simp] theorem useFree_fetches (n : Nat) (s : State) : (useFree n s).fetches = s.fetches := rfl
@[simp] theorem useFree_nextFetch (n : Nat) (s : State) : (useFree n s).nextFetch = s.nextFetch := rfl
@[simp] theorem useFree_partials (n : Nat) (s : State) : (useFree n s).partials = s.partials := rfl
@[simp] theorem useFree_nextPart (n : Nat) (s : State) : (useFree n s).nextPart = s.nextPart := rfl
@[simp] theorem useFree_descs (n : Nat) (s : State) : (useFree n s).descs = s.descs := rfl
@[simp] theorem useFree_host (n : Nat) (s : State) : (useFree n s).host = s.host := rfl
@[simp] theorem useFree_place (n : Nat) (s : State) : (useFree n s).place = s.place := rfl
@[simp] theorem useFree_remote (n : Nat) (s : State) : (useFree n s).remote = s.remote := rfl
@[simp] theorem useFree_errs (n : Nat) (s : State) : (useFree n s).errs = s.errs := rfl
@[simp] theorem useFree_hang (n : Nat) (s : State) : (useFree n s).hang = s.hang := rfl
@[simp] theorem useFree_rung (n : Nat) (s : State) : (useFree n s).rung = s.rung := rfl
@[simp] theorem useFree_dump (n : Nat) (s : State) : (useFree n s).dump = s.dump := rfl
@[simp] theorem useFree_units (n : Nat) (s : State) : (useFree n s).units = s.units := rfl
@[simp] theorem useFree_mems (n : Nat) (s : State) : (useFree n s).mems = s.mems := rfl
@[simp] theorem useFree_repair (n : Nat) (s : State) : (useFree n s).repair = s.repair := rfl
@[simp] theorem useFree_sup (n : Nat) (s : State) : (useFree n s).sup = s.sup := rfl
@[simp] theorem useFree_fw (n : Nat) (s : State) : (useFree n s).fw = s.fw := rfl
@[simp] theorem useFree_ret (n : Nat) (s : State) : (useFree n s).ret = s.ret := rfl
@[simp] theorem useFree_i3c (n : Nat) (s : State) : (useFree n s).i3c = s.i3c := rfl
@[simp] theorem useFree_pins (n : Nat) (s : State) : (useFree n s).pins = s.pins := rfl

/-! ### driveIrq -/

@[simp] theorem driveIrq_pending (s : State) : (driveIrq s).pending = s.pending := rfl
@[simp] theorem driveIrq_freeCtr (s : State) : (driveIrq s).freeCtr = s.freeCtr := rfl
@[simp] theorem driveIrq_cycle (s : State) : (driveIrq s).cycle = s.cycle := rfl
@[simp] theorem driveIrq_tower (s : State) : (driveIrq s).tower = s.tower := rfl
@[simp] theorem driveIrq_regs (s : State) : (driveIrq s).regs = s.regs := rfl
@[simp] theorem driveIrq_mem (s : State) : (driveIrq s).mem = s.mem := rfl
@[simp] theorem driveIrq_tiers (s : State) : (driveIrq s).tiers = s.tiers := rfl
@[simp] theorem driveIrq_queues (s : State) : (driveIrq s).queues = s.queues := rfl
@[simp] theorem driveIrq_arb (s : State) : (driveIrq s).arb = s.arb := rfl
@[simp] theorem driveIrq_cmds (s : State) : (driveIrq s).cmds = s.cmds := rfl
@[simp] theorem driveIrq_nextId (s : State) : (driveIrq s).nextId = s.nextId := rfl
@[simp] theorem driveIrq_ctxs (s : State) : (driveIrq s).ctxs = s.ctxs := rfl
@[simp] theorem driveIrq_valves (s : State) : (driveIrq s).valves = s.valves := rfl
@[simp] theorem driveIrq_mods (s : State) : (driveIrq s).mods = s.mods := rfl
@[simp] theorem driveIrq_tables (s : State) : (driveIrq s).tables = s.tables := rfl
@[simp] theorem driveIrq_slices (s : State) : (driveIrq s).slices = s.slices := rfl
@[simp] theorem driveIrq_flushing (s : State) : (driveIrq s).flushing = s.flushing := rfl
@[simp] theorem driveIrq_refills (s : State) : (driveIrq s).refills = s.refills := rfl
@[simp] theorem driveIrq_waits (s : State) : (driveIrq s).waits = s.waits := rfl
@[simp] theorem driveIrq_geom (s : State) : (driveIrq s).geom = s.geom := rfl
@[simp] theorem driveIrq_lehr (s : State) : (driveIrq s).lehr = s.lehr := rfl
@[simp] theorem driveIrq_drains (s : State) : (driveIrq s).drains = s.drains := rfl
@[simp] theorem driveIrq_fetches (s : State) : (driveIrq s).fetches = s.fetches := rfl
@[simp] theorem driveIrq_nextFetch (s : State) : (driveIrq s).nextFetch = s.nextFetch := rfl
@[simp] theorem driveIrq_partials (s : State) : (driveIrq s).partials = s.partials := rfl
@[simp] theorem driveIrq_nextPart (s : State) : (driveIrq s).nextPart = s.nextPart := rfl
@[simp] theorem driveIrq_descs (s : State) : (driveIrq s).descs = s.descs := rfl
@[simp] theorem driveIrq_place (s : State) : (driveIrq s).place = s.place := rfl
@[simp] theorem driveIrq_remote (s : State) : (driveIrq s).remote = s.remote := rfl
@[simp] theorem driveIrq_errs (s : State) : (driveIrq s).errs = s.errs := rfl
@[simp] theorem driveIrq_hang (s : State) : (driveIrq s).hang = s.hang := rfl
@[simp] theorem driveIrq_rung (s : State) : (driveIrq s).rung = s.rung := rfl
@[simp] theorem driveIrq_dump (s : State) : (driveIrq s).dump = s.dump := rfl
@[simp] theorem driveIrq_units (s : State) : (driveIrq s).units = s.units := rfl
@[simp] theorem driveIrq_mems (s : State) : (driveIrq s).mems = s.mems := rfl
@[simp] theorem driveIrq_repair (s : State) : (driveIrq s).repair = s.repair := rfl
@[simp] theorem driveIrq_sup (s : State) : (driveIrq s).sup = s.sup := rfl
@[simp] theorem driveIrq_fw (s : State) : (driveIrq s).fw = s.fw := rfl
@[simp] theorem driveIrq_ret (s : State) : (driveIrq s).ret = s.ret := rfl
@[simp] theorem driveIrq_i3c (s : State) : (driveIrq s).i3c = s.i3c := rfl
@[simp] theorem driveIrq_pins (s : State) : (driveIrq s).pins = s.pins := rfl

/-! ### What the updates write -/

@[simp] theorem wr_regs (f : Fld) (i v : Nat) (s : State) : (wr f i v s).regs = wrRegs f i v s.regs := rfl

/-- A field just written reads what its bits hold of the value. -/
@[simp] theorem rd_wr_same (f : Fld) (i v : Nat) (s : State) : rd f i (wr f i v s) = v % 2 ^ f.width := by
  simp only [rd, wr, wrRegs, Sparse.get_set_same, Nat.xor_assoc, Nat.xor_self, Nat.xor_zero]

/-- A write leaves a field of another key alone. -/
theorem rd_wr_other (f g : Fld) (i j v : Nat) (s : State) (h : g.key j ≠ f.key i) : rd g j (wr f i v s) = rd g j s := by
  simp [rd, wr, wrRegs, Sparse.get_set_other _ _ _ h]

/-- A state with the same registers reads the same fields. -/
theorem rd_congr (f : Fld) (i : Nat) {s t : State} (h : s.regs = t.regs) : rd f i s = rd f i t := by simp [rd, h]

/-- A counter rises and saturates. -/
theorem rd_bump_same (f : Fld) (i n : Nat) (s : State) : rd f i (bump f i n s) = satAdd f.width (rd f i s) n % 2 ^ f.width := by
  simp [bump]

@[simp] theorem queue_setQueue (q : Nat) (v : Queue) (s : State) : queue (setQueue q v s) q = v := by simp [queue, setQueue]
theorem queue_setQueue_other {q r : Nat} (v : Queue) (s : State) (h : r ≠ q) : queue (setQueue q v s) r = queue s r := by
  simp [queue, setQueue, Sparse.get_set_other _ _ _ h]
@[simp] theorem ctx_setCtx (c : Nat) (v : Ctx) (s : State) : ctx (setCtx c v s) c = v := by simp [ctx, setCtx]
theorem ctx_setCtx_other {c d : Nat} (v : Ctx) (s : State) (h : d ≠ c) : ctx (setCtx c v s) d = ctx s d := by
  simp [ctx, setCtx, Sparse.get_set_other _ _ _ h]
@[simp] theorem table_setTable (t : Nat) (v : Table) (s : State) : table (setTable t v s) t = v := by simp [table, setTable]
theorem table_setTable_other {t u : Nat} (v : Table) (s : State) (h : u ≠ t) : table (setTable t v s) u = table s u := by
  simp [table, setTable, Sparse.get_set_other _ _ _ h]
@[simp] theorem slice_setSlice (i : Nat) (v : Slice) (s : State) : slice (setSlice i v s) i = v := by simp [slice, setSlice]
theorem slice_setSlice_other {i j : Nat} (v : Slice) (s : State) (h : j ≠ i) : slice (setSlice i v s) j = slice s j := by
  simp [slice, setSlice, Sparse.get_set_other _ _ _ h]
@[simp] theorem desc_setDesc (d : Nat) (v : SDesc) (s : State) : desc (setDesc d v s) d = v := by simp [desc, setDesc]
theorem desc_setDesc_other {d e : Nat} (v : SDesc) (s : State) (h : e ≠ d) : desc (setDesc d v s) e = desc s e := by
  simp [desc, setDesc, Sparse.get_set_other _ _ _ h]
@[simp] theorem valve_setValve (v n : Nat) (s : State) : valve (setValve v n s) v = n := by simp [valve, setValve]
theorem valve_setValve_other {v w : Nat} (n : Nat) (s : State) (h : w ≠ v) : valve (setValve v n s) w = valve s w := by
  simp [valve, setValve, Sparse.get_set_other _ _ _ h]
@[simp] theorem unit_setUnit (u : Nat) (v : UnitRec) (s : State) : unit (setUnit u v s) u = v := by simp [unit, setUnit]
theorem unit_setUnit_other {u w : Nat} (v : UnitRec) (s : State) (h : w ≠ u) : unit (setUnit u v s) w = unit s w := by
  simp [unit, setUnit, Sparse.get_set_other _ _ _ h]
@[simp] theorem memUnit_setMemUnit (u : Nat) (v : MemUnit) (s : State) : memUnit (setMemUnit u v s) u = v := by
  simp [memUnit, setMemUnit]
theorem memUnit_setMemUnit_other {u w : Nat} (v : MemUnit) (s : State) (h : w ≠ u) :
    memUnit (setMemUnit u v s) w = memUnit s w := by
  simp [memUnit, setMemUnit, Sparse.get_set_other _ _ _ h]

/-! ### Commands by admission number -/

theorem find_mapIf (id : Nat) (f : Cmd → Cmd) (h : ∀ c, (f c).id = c.id) (l : List Cmd) :
    (l.map fun c => if c.id == id then f c else c).find? (fun c => c.id == id) = (l.find? fun c => c.id == id).map f := by
  induction l with
  | nil => rfl
  | cons c l ih =>
    rw [List.map_cons, List.find?_cons, List.find?_cons, ih]
    by_cases hc : (c.id == id) = true
    · simp only [hc, if_true, h, Option.map_some]
    · simp only [Bool.not_eq_true] at hc
      simp only [hc, if_neg Bool.false_ne_true]

theorem find_mapIf_other {id k : Nat} (f : Cmd → Cmd) (h : ∀ c, (f c).id = c.id) (hk : k ≠ id) (l : List Cmd) :
    (l.map fun c => if c.id == id then f c else c).find? (fun c => c.id == k) = l.find? fun c => c.id == k := by
  induction l with
  | nil => rfl
  | cons c l ih =>
    rw [List.map_cons, List.find?_cons, List.find?_cons, ih]
    by_cases hc : (c.id == id) = true
    · have hk' : (c.id == k) = false := by
        simp only [beq_iff_eq] at hc
        simp [hc, Ne.symm hk]
      simp only [hc, if_true, h, hk']
    · simp only [Bool.not_eq_true] at hc
      simp only [hc, if_neg Bool.false_ne_true]

/-- A modification that keeps the number is seen by its number. -/
theorem cmd?_modCmd (id : Nat) (f : Cmd → Cmd) (s : State) (h : ∀ c, (f c).id = c.id) :
    cmd? (modCmd id f s) id = (cmd? s id).map f := find_mapIf id f h s.cmds

/-- A modification leaves the commands of other numbers alone. -/
theorem cmd?_modCmd_other {id k : Nat} (f : Cmd → Cmd) (s : State) (h : ∀ c, (f c).id = c.id) (hk : k ≠ id) :
    cmd? (modCmd id f s) k = cmd? s k := find_mapIf_other f h hk s.cmds

/-- What ends a command's own work says of it. -/
theorem cmd?_finish (id : Nat) (v : Verdict) (s : State) :
    cmd? (finish id v s) id = (cmd? s id).map fun c =>
      { c with phase := .done, status := v.1, d0 := v.2.1, d1 := v.2.2, progress := c.progress + 1 } :=
  cmd?_modCmd id _ s fun _ => rfl

end Sys2Proof.Machine
end

