-- ==== Sys2Proof/Laws/Commands.lean ====
section
/-! SUPPORT. What the shared operations on one command do: it alone changes, as `OneCmd` says; and what a meaning answers while no save has halted
the engine. -/

namespace Sys2Proof.Machine

/-- A command that is there has the number it is found by. -/
theorem cmd?_id {s : State} {id : Nat} {c : Cmd} (h : cmd? s id = some c) : c.id = id := by
  have := List.find?_some h
  simpa using this

/-- A command found in a state becomes what a modification makes of it, and it alone. -/
theorem oneCmd_modCmd {s : State} {id : Nat} {c : Cmd} (f : Cmd → Cmd) (hf : ∀ c, (f c).id = c.id) (h : cmd? s id = some c) :
    OneCmd s (modCmd id f s) id (f c) := by
  refine ⟨?_, fun j hj => cmd?_modCmd_other f s hf hj, ?_⟩
  · rw [cmd?_modCmd id f s hf, h]; rfl
  · simp only [modCmd, List.map_map]
    refine List.map_congr_left fun x _ => ?_
    simp only [Function.comp]
    split <;> simp [hf]

/-- A second modification of the same command. -/
theorem OneCmd.modCmd {s t : State} {id : Nat} {c : Cmd} (f : Cmd → Cmd) (hf : ∀ c, (f c).id = c.id) (h : OneCmd s t id c) :
    OneCmd s (modCmd id f t) id (f c) := by
  have k := oneCmd_modCmd f hf h.1
  exact ⟨k.1, fun j hj => (k.2.1 j hj).trans (h.2.1 j hj), k.2.2.trans h.2.2⟩

/-- A change of another part of the state keeps what is said of the commands. -/
theorem OneCmd.of_cmds {s t u : State} {id : Nat} {c : Cmd} (hc : u.cmds = t.cmds) (h : OneCmd s t id c) : OneCmd s u id c := by
  have e : ∀ j, cmd? u j = cmd? t j := fun j => by simp only [cmd?, hc]
  exact ⟨(e id).trans h.1, fun j hj => (e j).trans (h.2.1 j hj), by rw [hc]; exact h.2.2⟩

/-- A command whose work has ended, after its phase became running. -/
theorem oneCmd_finish_running {s : State} {id : Nat} {c : Cmd} (v : Verdict) (h : cmd? s id = some c) :
    OneCmd s (finish id v (Machine.modCmd id (fun d => { d with phase := .running }) s)) id (c.endedWith v) := by
  have a := oneCmd_modCmd (fun d => { d with phase := .running }) (fun _ => rfl) h
  have b := a.modCmd (fun d => { d with phase := .done, status := v.1, d0 := v.2.1, d1 := v.2.2, progress := d.progress + 1 })
    fun _ => rfl
  exact b

/-- A command whose work has ended. -/
theorem oneCmd_finish {s : State} {id : Nat} {c : Cmd} (v : Verdict) (h : cmd? s id = some c) :
    OneCmd s (finish id v s) id (c.endedWith v) :=
  oneCmd_modCmd _ (fun _ => rfl) h

/-- The answer of a meaning while no save has halted the engine. -/
theorem done_running {s t : State} (h : s.sup.halted = false) : done s t = .next { t with pending := s.pending } := by
  simp [done, doneAlways, h]

/-- A packet command that acts runs its own part. -/
theorem onIssued_acts {s : State} {id op : Nat} {c : Cmd} (f : Cmd → State → State) (h : Acts s id op c) :
    onIssued id op s f = f c (Machine.modCmd id (fun d => { d with phase := .running }) s) := by
  obtain ⟨h1, h2, h3, h4, h7, h5, h6⟩ := h
  have : (c.phase == .issued || c.phase == .running) = true := by rcases h3 with h | h <;> simp [h]
  have hf : ((ctx s c.ctx).st == .resetting) = false := by simpa using h5
  simp [onIssued, h1, h2, this, h4, hf, h7]

end Sys2Proof.Machine
end

