-- ==== Sys2Proof/Laws/Frames.lean ====
section
/-! SUPPORT. One lemma for each field of the state that a shared operation of records, replies and completion leaves alone. -/

namespace Sys2Proof.Machine

/-- Sending keeps what one message keeps. -/
theorem foldl_send {α β : Type} (F : State → α) (g : β → Out) (h : ∀ o t, F (send o t) = F t) (ps : List β) (s : State) :
    F (ps.foldl (fun t p => send (g p) t) s) = F s := by
  induction ps generalizing s with
  | nil => rfl
  | cons p ps ih => exact (ih _).trans (h _ _)

/-- A fold keeps what each of its steps keeps. -/
theorem foldl_keep {α β : Type} (F : State → α) (f : State → β → State) (h : ∀ t b, F (f t b) = F t) (l : List β) (s : State) :
    F (l.foldl f s) = F s := by
  induction l generalizing s with
  | nil => rfl
  | cons b l ih => exact (ih _).trans (h _ _)

/-! ### logErr -/

@[simp] theorem logErr_pending (code action : Nat) (c : Option Nat) (u info : Nat) (s : State) : (logErr code action c u info s).pending = s.pending := by
  unfold logErr; split <;> rfl
@[simp] theorem logErr_freeCtr (code action : Nat) (c : Option Nat) (u info : Nat) (s : State) : (logErr code action c u info s).freeCtr = s.freeCtr := by
  unfold logErr; split <;> rfl
@[simp] theorem logErr_cycle (code action : Nat) (c : Option Nat) (u info : Nat) (s : State) : (logErr code action c u info s).cycle = s.cycle := by
  unfold logErr; split <;> rfl
@[simp] theorem logErr_tower (code action : Nat) (c : Option Nat) (u info : Nat) (s : State) : (logErr code action c u info s).tower = s.tower := by
  unfold logErr; split <;> rfl
@[simp] theorem logErr_mem (code action : Nat) (c : Option Nat) (u info : Nat) (s : State) : (logErr code action c u info s).mem = s.mem := by
  unfold logErr; split <;> rfl
@[simp] theorem logErr_tiers (code action : Nat) (c : Option Nat) (u info : Nat) (s : State) : (logErr code action c u info s).tiers = s.tiers := by
  unfold logErr; split <;> rfl
@[simp] theorem logErr_queues (code action : Nat) (c : Option Nat) (u info : Nat) (s : State) : (logErr code action c u info s).queues = s.queues := by
  unfold logErr; split <;> rfl
@[simp] theorem logErr_arb (code action : Nat) (c : Option Nat) (u info : Nat) (s : State) : (logErr code action c u info s).arb = s.arb := by
  unfold logErr; split <;> rfl
@[simp] theorem logErr_cmds (code action : Nat) (c : Option Nat) (u info : Nat) (s : State) : (logErr code action c u info s).cmds = s.cmds := by
  unfold logErr; split <;> rfl
@[simp] theorem logErr_nextId (code action : Nat) (c : Option Nat) (u info : Nat) (s : State) : (logErr code action c u info s).nextId = s.nextId := by
  unfold logErr; split <;> rfl
@[simp] theorem logErr_ctxs (code action : Nat) (c : Option Nat) (u info : Nat) (s : State) : (logErr code action c u info s).ctxs = s.ctxs := by
  unfold logErr; split <;> rfl
@[simp] theorem logErr_valves (code action : Nat) (c : Option Nat) (u info : Nat) (s : State) : (logErr code action c u info s).valves = s.valves := by
  unfold logErr; split <;> rfl
@[simp] theorem logErr_mods (code action : Nat) (c : Option Nat) (u info : Nat) (s : State) : (logErr code action c u info s).mods = s.mods := by
  unfold logErr; split <;> rfl
@[simp] theorem logErr_tables (code action : Nat) (c : Option Nat) (u info : Nat) (s : State) : (logErr code action c u info s).tables = s.tables := by
  unfold logErr; split <;> rfl
@[simp] theorem logErr_slices (code action : Nat) (c : Option Nat) (u info : Nat) (s : State) : (logErr code action c u info s).slices = s.slices := by
  unfold logErr; split <;> rfl
@[simp] theorem logErr_flushing (code action : Nat) (c : Option Nat) (u info : Nat) (s : State) : (logErr code action c u info s).flushing = s.flushing := by
  unfold logErr; split <;> rfl
@[simp] theorem logErr_refills (code action : Nat) (c : Option Nat) (u info : Nat) (s : State) : (logErr code action c u info s).refills = s.refills := by
  unfold logErr; split <;> rfl
@[simp] theorem logErr_waits (code action : Nat) (c : Option Nat) (u info : Nat) (s : State) : (logErr code action c u info s).waits = s.waits := by
  unfold logErr; split <;> rfl
@[simp] theorem logErr_geom (code action : Nat) (c : Option Nat) (u info : Nat) (s : State) : (logErr code action c u info s).geom = s.geom := by
  unfold logErr; split <;> rfl
@[simp] theorem logErr_lehr (code action : Nat) (c : Option Nat) (u info : Nat) (s : State) : (logErr code action c u info s).lehr = s.lehr := by
  unfold logErr; split <;> rfl
@[simp] theorem logErr_drains (code action : Nat) (c : Option Nat) (u info : Nat) (s : State) : (logErr code action c u info s).drains = s.drains := by
  unfold logErr; split <;> rfl
@[simp] theorem logErr_fetches (code action : Nat) (c : Option Nat) (u info : Nat) (s : State) : (logErr code action c u info s).fetches = s.fetches := by
  unfold logErr; split <;> rfl
@[simp] theorem logErr_nextFetch (code action : Nat) (c : Option Nat) (u info : Nat) (s : State) : (logErr code action c u info s).nextFetch = s.nextFetch := by
  unfold logErr; split <;> rfl
@[simp] theorem logErr_partials (code action : Nat) (c : Option Nat) (u info : Nat) (s : State) : (logErr code action c u info s).partials = s.partials := by
  unfold logErr; split <;> rfl
@[simp] theorem logErr_nextPart (code action : Nat) (c : Option Nat) (u info : Nat) (s : State) : (logErr code action c u info s).nextPart = s.nextPart := by
  unfold logErr; split <;> rfl
@[simp] theorem logErr_descs (code action : Nat) (c : Option Nat) (u info : Nat) (s : State) : (logErr code action c u info s).descs = s.descs := by
  unfold logErr; split <;> rfl
@[simp] theorem logErr_place (code action : Nat) (c : Option Nat) (u info : Nat) (s : State) : (logErr code action c u info s).place = s.place := by
  unfold logErr; split <;> rfl
@[simp] theorem logErr_remote (code action : Nat) (c : Option Nat) (u info : Nat) (s : State) : (logErr code action c u info s).remote = s.remote := by
  unfold logErr; split <;> rfl
@[simp] theorem logErr_hang (code action : Nat) (c : Option Nat) (u info : Nat) (s : State) : (logErr code action c u info s).hang = s.hang := by
  unfold logErr; split <;> rfl
@[simp] theorem logErr_rung (code action : Nat) (c : Option Nat) (u info : Nat) (s : State) : (logErr code action c u info s).rung = s.rung := by
  unfold logErr; split <;> rfl
@[simp] theorem logErr_dump (code action : Nat) (c : Option Nat) (u info : Nat) (s : State) : (logErr code action c u info s).dump = s.dump := by
  unfold logErr; split <;> rfl
@[simp] theorem logErr_units (code action : Nat) (c : Option Nat) (u info : Nat) (s : State) : (logErr code action c u info s).units = s.units := by
  unfold logErr; split <;> rfl
@[simp] theorem logErr_mems (code action : Nat) (c : Option Nat) (u info : Nat) (s : State) : (logErr code action c u info s).mems = s.mems := by
  unfold logErr; split <;> rfl
@[simp] theorem logErr_repair (code action : Nat) (c : Option Nat) (u info : Nat) (s : State) : (logErr code action c u info s).repair = s.repair := by
  unfold logErr; split <;> rfl
@[simp] theorem logErr_sup (code action : Nat) (c : Option Nat) (u info : Nat) (s : State) : (logErr code action c u info s).sup = s.sup := by
  unfold logErr; split <;> rfl
@[simp] theorem logErr_fw (code action : Nat) (c : Option Nat) (u info : Nat) (s : State) : (logErr code action c u info s).fw = s.fw := by
  unfold logErr; split <;> rfl
@[simp] theorem logErr_ret (code action : Nat) (c : Option Nat) (u info : Nat) (s : State) : (logErr code action c u info s).ret = s.ret := by
  unfold logErr; split <;> rfl
@[simp] theorem logErr_i3c (code action : Nat) (c : Option Nat) (u info : Nat) (s : State) : (logErr code action c u info s).i3c = s.i3c := by
  unfold logErr; split <;> rfl
@[simp] theorem logErr_pins (code action : Nat) (c : Option Nat) (u info : Nat) (s : State) : (logErr code action c u info s).pins = s.pins := by
  unfold logErr; split <;> rfl

/-! ### logSup -/

@[simp] theorem logSup_pending (sub u value action : Nat) (s : State) : (logSup sub u value action s).pending = s.pending := by
  simp [logSup]
@[simp] theorem logSup_freeCtr (sub u value action : Nat) (s : State) : (logSup sub u value action s).freeCtr = s.freeCtr := by
  simp [logSup]
@[simp] theorem logSup_cycle (sub u value action : Nat) (s : State) : (logSup sub u value action s).cycle = s.cycle := by
  simp [logSup]
@[simp] theorem logSup_tower (sub u value action : Nat) (s : State) : (logSup sub u value action s).tower = s.tower := by
  simp [logSup]
@[simp] theorem logSup_mem (sub u value action : Nat) (s : State) : (logSup sub u value action s).mem = s.mem := by
  simp [logSup]
@[simp] theorem logSup_tiers (sub u value action : Nat) (s : State) : (logSup sub u value action s).tiers = s.tiers := by
  simp [logSup]
@[simp] theorem logSup_queues (sub u value action : Nat) (s : State) : (logSup sub u value action s).queues = s.queues := by
  simp [logSup]
@[simp] theorem logSup_arb (sub u value action : Nat) (s : State) : (logSup sub u value action s).arb = s.arb := by
  simp [logSup]
@[simp] theorem logSup_cmds (sub u value action : Nat) (s : State) : (logSup sub u value action s).cmds = s.cmds := by
  simp [logSup]
@[simp] theorem logSup_nextId (sub u value action : Nat) (s : State) : (logSup sub u value action s).nextId = s.nextId := by
  simp [logSup]
@[simp] theorem logSup_ctxs (sub u value action : Nat) (s : State) : (logSup sub u value action s).ctxs = s.ctxs := by
  simp [logSup]
@[simp] theorem logSup_valves (sub u value action : Nat) (s : State) : (logSup sub u value action s).valves = s.valves := by
  simp [logSup]
@[simp] theorem logSup_mods (sub u value action : Nat) (s : State) : (logSup sub u value action s).mods = s.mods := by
  simp [logSup]
@[simp] theorem logSup_tables (sub u value action : Nat) (s : State) : (logSup sub u value action s).tables = s.tables := by
  simp [logSup]
@[simp] theorem logSup_slices (sub u value action : Nat) (s : State) : (logSup sub u value action s).slices = s.slices := by
  simp [logSup]
@[simp] theorem logSup_flushing (sub u value action : Nat) (s : State) : (logSup sub u value action s).flushing = s.flushing := by
  simp [logSup]
@[simp] theorem logSup_refills (sub u value action : Nat) (s : State) : (logSup sub u value action s).refills = s.refills := by
  simp [logSup]
@[simp] theorem logSup_waits (sub u value action : Nat) (s : State) : (logSup sub u value action s).waits = s.waits := by
  simp [logSup]
@[simp] theorem logSup_geom (sub u value action : Nat) (s : State) : (logSup sub u value action s).geom = s.geom := by
  simp [logSup]
@[simp] theorem logSup_lehr (sub u value action : Nat) (s : State) : (logSup sub u value action s).lehr = s.lehr := by
  simp [logSup]
@[simp] theorem logSup_drains (sub u value action : Nat) (s : State) : (logSup sub u value action s).drains = s.drains := by
  simp [logSup]
@[simp] theorem logSup_fetches (sub u value action : Nat) (s : State) : (logSup sub u value action s).fetches = s.fetches := by
  simp [logSup]
@[simp] theorem logSup_nextFetch (sub u value action : Nat) (s : State) : (logSup sub u value action s).nextFetch = s.nextFetch := by
  simp [logSup]
@[simp] theorem logSup_partials (sub u value action : Nat) (s : State) : (logSup sub u value action s).partials = s.partials := by
  simp [logSup]
@[simp] theorem logSup_nextPart (sub u value action : Nat) (s : State) : (logSup sub u value action s).nextPart = s.nextPart := by
  simp [logSup]
@[simp] theorem logSup_descs (sub u value action : Nat) (s : State) : (logSup sub u value action s).descs = s.descs := by
  simp [logSup]
@[simp] theorem logSup_place (sub u value action : Nat) (s : State) : (logSup sub u value action s).place = s.place := by
  simp [logSup]
@[simp] theorem logSup_remote (sub u value action : Nat) (s : State) : (logSup sub u value action s).remote = s.remote := by
  simp [logSup]
@[simp] theorem logSup_hang (sub u value action : Nat) (s : State) : (logSup sub u value action s).hang = s.hang := by
  simp [logSup]
@[simp] theorem logSup_rung (sub u value action : Nat) (s : State) : (logSup sub u value action s).rung = s.rung := by
  simp [logSup]
@[simp] theorem logSup_dump (sub u value action : Nat) (s : State) : (logSup sub u value action s).dump = s.dump := by
  simp [logSup]
@[simp] theorem logSup_units (sub u value action : Nat) (s : State) : (logSup sub u value action s).units = s.units := by
  simp [logSup]
@[simp] theorem logSup_mems (sub u value action : Nat) (s : State) : (logSup sub u value action s).mems = s.mems := by
  simp [logSup]
@[simp] theorem logSup_repair (sub u value action : Nat) (s : State) : (logSup sub u value action s).repair = s.repair := by
  simp [logSup]
@[simp] theorem logSup_sup (sub u value action : Nat) (s : State) : (logSup sub u value action s).sup = s.sup := by
  simp [logSup]
@[simp] theorem logSup_fw (sub u value action : Nat) (s : State) : (logSup sub u value action s).fw = s.fw := by
  simp [logSup]
@[simp] theorem logSup_ret (sub u value action : Nat) (s : State) : (logSup sub u value action s).ret = s.ret := by
  simp [logSup]
@[simp] theorem logSup_i3c (sub u value action : Nat) (s : State) : (logSup sub u value action s).i3c = s.i3c := by
  simp [logSup]
@[simp] theorem logSup_pins (sub u value action : Nat) (s : State) : (logSup sub u value action s).pins = s.pins := by
  simp [logSup]

/-! ### checkPtrs -/

@[simp] theorem checkPtrs_pending (q : Nat) (s : State) : (checkPtrs q s).pending = s.pending := by
  unfold checkPtrs; dsimp only; split <;> simp
@[simp] theorem checkPtrs_freeCtr (q : Nat) (s : State) : (checkPtrs q s).freeCtr = s.freeCtr := by
  unfold checkPtrs; dsimp only; split <;> simp
@[simp] theorem checkPtrs_cycle (q : Nat) (s : State) : (checkPtrs q s).cycle = s.cycle := by
  unfold checkPtrs; dsimp only; split <;> simp
@[simp] theorem checkPtrs_tower (q : Nat) (s : State) : (checkPtrs q s).tower = s.tower := by
  unfold checkPtrs; dsimp only; split <;> simp
@[simp] theorem checkPtrs_mem (q : Nat) (s : State) : (checkPtrs q s).mem = s.mem := by
  unfold checkPtrs; dsimp only; split <;> simp
@[simp] theorem checkPtrs_tiers (q : Nat) (s : State) : (checkPtrs q s).tiers = s.tiers := by
  unfold checkPtrs; dsimp only; split <;> simp
@[simp] theorem checkPtrs_arb (q : Nat) (s : State) : (checkPtrs q s).arb = s.arb := by
  unfold checkPtrs; dsimp only; split <;> simp
@[simp] theorem checkPtrs_cmds (q : Nat) (s : State) : (checkPtrs q s).cmds = s.cmds := by
  unfold checkPtrs; dsimp only; split <;> simp
@[simp] theorem checkPtrs_nextId (q : Nat) (s : State) : (checkPtrs q s).nextId = s.nextId := by
  unfold checkPtrs; dsimp only; split <;> simp
@[simp] theorem checkPtrs_ctxs (q : Nat) (s : State) : (checkPtrs q s).ctxs = s.ctxs := by
  unfold checkPtrs; dsimp only; split <;> simp
@[simp] theorem checkPtrs_valves (q : Nat) (s : State) : (checkPtrs q s).valves = s.valves := by
  unfold checkPtrs; dsimp only; split <;> simp
@[simp] theorem checkPtrs_mods (q : Nat) (s : State) : (checkPtrs q s).mods = s.mods := by
  unfold checkPtrs; dsimp only; split <;> simp
@[simp] theorem checkPtrs_tables (q : Nat) (s : State) : (checkPtrs q s).tables = s.tables := by
  unfold checkPtrs; dsimp only; split <;> simp
@[simp] theorem checkPtrs_slices (q : Nat) (s : State) : (checkPtrs q s).slices = s.slices := by
  unfold checkPtrs; dsimp only; split <;> simp
@[simp] theorem checkPtrs_flushing (q : Nat) (s : State) : (checkPtrs q s).flushing = s.flushing := by
  unfold checkPtrs; dsimp only; split <;> simp
@[simp] theorem checkPtrs_refills (q : Nat) (s : State) : (checkPtrs q s).refills = s.refills := by
  unfold checkPtrs; dsimp only; split <;> simp
@[simp] theorem checkPtrs_waits (q : Nat) (s : State) : (checkPtrs q s).waits = s.waits := by
  unfold checkPtrs; dsimp only; split <;> simp
@[simp] theorem checkPtrs_geom (q : Nat) (s : State) : (checkPtrs q s).geom = s.geom := by
  unfold checkPtrs; dsimp only; split <;> simp
@[simp] theorem checkPtrs_lehr (q : Nat) (s : State) : (checkPtrs q s).lehr = s.lehr := by
  unfold checkPtrs; dsimp only; split <;> simp
@[simp] theorem checkPtrs_drains (q : Nat) (s : State) : (checkPtrs q s).drains = s.drains := by
  unfold checkPtrs; dsimp only; split <;> simp
@[simp] theorem checkPtrs_fetches (q : Nat) (s : State) : (checkPtrs q s).fetches = s.fetches := by
  unfold checkPtrs; dsimp only; split <;> simp
@[simp] theorem checkPtrs_nextFetch (q : Nat) (s : State) : (checkPtrs q s).nextFetch = s.nextFetch := by
  unfold checkPtrs; dsimp only; split <;> simp
@[simp] theorem checkPtrs_partials (q : Nat) (s : State) : (checkPtrs q s).partials = s.partials := by
  unfold checkPtrs; dsimp only; split <;> simp
@[simp] theorem checkPtrs_nextPart (q : Nat) (s : State) : (checkPtrs q s).nextPart = s.nextPart := by
  unfold checkPtrs; dsimp only; split <;> simp
@[simp] theorem checkPtrs_descs (q : Nat) (s : State) : (checkPtrs q s).descs = s.descs := by
  unfold checkPtrs; dsimp only; split <;> simp
@[simp] theorem checkPtrs_place (q : Nat) (s : State) : (checkPtrs q s).place = s.place := by
  unfold checkPtrs; dsimp only; split <;> simp
@[simp] theorem checkPtrs_remote (q : Nat) (s : State) : (checkPtrs q s).remote = s.remote := by
  unfold checkPtrs; dsimp only; split <;> simp
@[simp] theorem checkPtrs_hang (q : Nat) (s : State) : (checkPtrs q s).hang = s.hang := by
  unfold checkPtrs; dsimp only; split <;> simp
@[simp] theorem checkPtrs_rung (q : Nat) (s : State) : (checkPtrs q s).rung = s.rung := by
  unfold checkPtrs; dsimp only; split <;> simp
@[simp] theorem checkPtrs_dump (q : Nat) (s : State) : (checkPtrs q s).dump = s.dump := by
  unfold checkPtrs; dsimp only; split <;> simp
@[simp] theorem checkPtrs_units (q : Nat) (s : State) : (checkPtrs q s).units = s.units := by
  unfold checkPtrs; dsimp only; split <;> simp
@[simp] theorem checkPtrs_mems (q : Nat) (s : State) : (checkPtrs q s).mems = s.mems := by
  unfold checkPtrs; dsimp only; split <;> simp
@[simp] theorem checkPtrs_repair (q : Nat) (s : State) : (checkPtrs q s).repair = s.repair := by
  unfold checkPtrs; dsimp only; split <;> simp
@[simp] theorem checkPtrs_sup (q : Nat) (s : State) : (checkPtrs q s).sup = s.sup := by
  unfold checkPtrs; dsimp only; split <;> simp
@[simp] theorem checkPtrs_fw (q : Nat) (s : State) : (checkPtrs q s).fw = s.fw := by
  unfold checkPtrs; dsimp only; split <;> simp
@[simp] theorem checkPtrs_ret (q : Nat) (s : State) : (checkPtrs q s).ret = s.ret := by
  unfold checkPtrs; dsimp only; split <;> simp
@[simp] theorem checkPtrs_i3c (q : Nat) (s : State) : (checkPtrs q s).i3c = s.i3c := by
  unfold checkPtrs; dsimp only; split <;> simp
@[simp] theorem checkPtrs_pins (q : Nat) (s : State) : (checkPtrs q s).pins = s.pins := by
  unfold checkPtrs; dsimp only; split <;> simp

/-! ### updPtrs -/

@[simp] theorem updPtrs_pending (q : Nat) (f : QPtrs → QPtrs) (s : State) : (updPtrs q f s).pending = s.pending := by
  simp [updPtrs]
@[simp] theorem updPtrs_freeCtr (q : Nat) (f : QPtrs → QPtrs) (s : State) : (updPtrs q f s).freeCtr = s.freeCtr := by
  simp [updPtrs]
@[simp] theorem updPtrs_cycle (q : Nat) (f : QPtrs → QPtrs) (s : State) : (updPtrs q f s).cycle = s.cycle := by
  simp [updPtrs]
@[simp] theorem updPtrs_tower (q : Nat) (f : QPtrs → QPtrs) (s : State) : (updPtrs q f s).tower = s.tower := by
  simp [updPtrs]
@[simp] theorem updPtrs_mem (q : Nat) (f : QPtrs → QPtrs) (s : State) : (updPtrs q f s).mem = s.mem := by
  simp [updPtrs]
@[simp] theorem updPtrs_tiers (q : Nat) (f : QPtrs → QPtrs) (s : State) : (updPtrs q f s).tiers = s.tiers := by
  simp [updPtrs]
@[simp] theorem updPtrs_arb (q : Nat) (f : QPtrs → QPtrs) (s : State) : (updPtrs q f s).arb = s.arb := by
  simp [updPtrs]
@[simp] theorem updPtrs_cmds (q : Nat) (f : QPtrs → QPtrs) (s : State) : (updPtrs q f s).cmds = s.cmds := by
  simp [updPtrs]
@[simp] theorem updPtrs_nextId (q : Nat) (f : QPtrs → QPtrs) (s : State) : (updPtrs q f s).nextId = s.nextId := by
  simp [updPtrs]
@[simp] theorem updPtrs_ctxs (q : Nat) (f : QPtrs → QPtrs) (s : State) : (updPtrs q f s).ctxs = s.ctxs := by
  simp [updPtrs]
@[simp] theorem updPtrs_valves (q : Nat) (f : QPtrs → QPtrs) (s : State) : (updPtrs q f s).valves = s.valves := by
  simp [updPtrs]
@[simp] theorem updPtrs_mods (q : Nat) (f : QPtrs → QPtrs) (s : State) : (updPtrs q f s).mods = s.mods := by
  simp [updPtrs]
@[simp] theorem updPtrs_tables (q : Nat) (f : QPtrs → QPtrs) (s : State) : (updPtrs q f s).tables = s.tables := by
  simp [updPtrs]
@[simp] theorem updPtrs_slices (q : Nat) (f : QPtrs → QPtrs) (s : State) : (updPtrs q f s).slices = s.slices := by
  simp [updPtrs]
@[simp] theorem updPtrs_flushing (q : Nat) (f : QPtrs → QPtrs) (s : State) : (updPtrs q f s).flushing = s.flushing := by
  simp [updPtrs]
@[simp] theorem updPtrs_refills (q : Nat) (f : QPtrs → QPtrs) (s : State) : (updPtrs q f s).refills = s.refills := by
  simp [updPtrs]
@[simp] theorem updPtrs_waits (q : Nat) (f : QPtrs → QPtrs) (s : State) : (updPtrs q f s).waits = s.waits := by
  simp [updPtrs]
@[simp] theorem updPtrs_geom (q : Nat) (f : QPtrs → QPtrs) (s : State) : (updPtrs q f s).geom = s.geom := by
  simp [updPtrs]
@[simp] theorem updPtrs_lehr (q : Nat) (f : QPtrs → QPtrs) (s : State) : (updPtrs q f s).lehr = s.lehr := by
  simp [updPtrs]
@[simp] theorem updPtrs_drains (q : Nat) (f : QPtrs → QPtrs) (s : State) : (updPtrs q f s).drains = s.drains := by
  simp [updPtrs]
@[simp] theorem updPtrs_fetches (q : Nat) (f : QPtrs → QPtrs) (s : State) : (updPtrs q f s).fetches = s.fetches := by
  simp [updPtrs]
@[simp] theorem updPtrs_nextFetch (q : Nat) (f : QPtrs → QPtrs) (s : State) : (updPtrs q f s).nextFetch = s.nextFetch := by
  simp [updPtrs]
@[simp] theorem updPtrs_partials (q : Nat) (f : QPtrs → QPtrs) (s : State) : (updPtrs q f s).partials = s.partials := by
  simp [updPtrs]
@[simp] theorem updPtrs_nextPart (q : Nat) (f : QPtrs → QPtrs) (s : State) : (updPtrs q f s).nextPart = s.nextPart := by
  simp [updPtrs]
@[simp] theorem updPtrs_descs (q : Nat) (f : QPtrs → QPtrs) (s : State) : (updPtrs q f s).descs = s.descs := by
  simp [updPtrs]
@[simp] theorem updPtrs_place (q : Nat) (f : QPtrs → QPtrs) (s : State) : (updPtrs q f s).place = s.place := by
  simp [updPtrs]
@[simp] theorem updPtrs_remote (q : Nat) (f : QPtrs → QPtrs) (s : State) : (updPtrs q f s).remote = s.remote := by
  simp [updPtrs]
@[simp] theorem updPtrs_hang (q : Nat) (f : QPtrs → QPtrs) (s : State) : (updPtrs q f s).hang = s.hang := by
  simp [updPtrs]
@[simp] theorem updPtrs_rung (q : Nat) (f : QPtrs → QPtrs) (s : State) : (updPtrs q f s).rung = s.rung := by
  simp [updPtrs]
@[simp] theorem updPtrs_dump (q : Nat) (f : QPtrs → QPtrs) (s : State) : (updPtrs q f s).dump = s.dump := by
  simp [updPtrs]
@[simp] theorem updPtrs_units (q : Nat) (f : QPtrs → QPtrs) (s : State) : (updPtrs q f s).units = s.units := by
  simp [updPtrs]
@[simp] theorem updPtrs_mems (q : Nat) (f : QPtrs → QPtrs) (s : State) : (updPtrs q f s).mems = s.mems := by
  simp [updPtrs]
@[simp] theorem updPtrs_repair (q : Nat) (f : QPtrs → QPtrs) (s : State) : (updPtrs q f s).repair = s.repair := by
  simp [updPtrs]
@[simp] theorem updPtrs_sup (q : Nat) (f : QPtrs → QPtrs) (s : State) : (updPtrs q f s).sup = s.sup := by
  simp [updPtrs]
@[simp] theorem updPtrs_fw (q : Nat) (f : QPtrs → QPtrs) (s : State) : (updPtrs q f s).fw = s.fw := by
  simp [updPtrs]
@[simp] theorem updPtrs_ret (q : Nat) (f : QPtrs → QPtrs) (s : State) : (updPtrs q f s).ret = s.ret := by
  simp [updPtrs]
@[simp] theorem updPtrs_i3c (q : Nat) (f : QPtrs → QPtrs) (s : State) : (updPtrs q f s).i3c = s.i3c := by
  simp [updPtrs]
@[simp] theorem updPtrs_pins (q : Nat) (f : QPtrs → QPtrs) (s : State) : (updPtrs q f s).pins = s.pins := by
  simp [updPtrs]

/-! ### valveAdd -/

@[simp] theorem valveAdd_pending (c v n : Nat) (s : State) : (valveAdd c v n s).pending = s.pending := by
  unfold valveAdd; dsimp only; split <;> simp
@[simp] theorem valveAdd_freeCtr (c v n : Nat) (s : State) : (valveAdd c v n s).freeCtr = s.freeCtr := by
  unfold valveAdd; dsimp only; split <;> simp
@[simp] theorem valveAdd_cycle (c v n : Nat) (s : State) : (valveAdd c v n s).cycle = s.cycle := by
  unfold valveAdd; dsimp only; split <;> simp
@[simp] theorem valveAdd_tower (c v n : Nat) (s : State) : (valveAdd c v n s).tower = s.tower := by
  unfold valveAdd; dsimp only; split <;> simp
@[simp] theorem valveAdd_mem (c v n : Nat) (s : State) : (valveAdd c v n s).mem = s.mem := by
  unfold valveAdd; dsimp only; split <;> simp
@[simp] theorem valveAdd_tiers (c v n : Nat) (s : State) : (valveAdd c v n s).tiers = s.tiers := by
  unfold valveAdd; dsimp only; split <;> simp
@[simp] theorem valveAdd_queues (c v n : Nat) (s : State) : (valveAdd c v n s).queues = s.queues := by
  unfold valveAdd; dsimp only; split <;> simp
@[simp] theorem valveAdd_arb (c v n : Nat) (s : State) : (valveAdd c v n s).arb = s.arb := by
  unfold valveAdd; dsimp only; split <;> simp
@[simp] theorem valveAdd_cmds (c v n : Nat) (s : State) : (valveAdd c v n s).cmds = s.cmds := by
  unfold valveAdd; dsimp only; split <;> simp
@[simp] theorem valveAdd_nextId (c v n : Nat) (s : State) : (valveAdd c v n s).nextId = s.nextId := by
  unfold valveAdd; dsimp only; split <;> simp
@[simp] theorem valveAdd_ctxs (c v n : Nat) (s : State) : (valveAdd c v n s).ctxs = s.ctxs := by
  unfold valveAdd; dsimp only; split <;> simp
@[simp] theorem valveAdd_tables (c v n : Nat) (s : State) : (valveAdd c v n s).tables = s.tables := by
  unfold valveAdd; dsimp only; split <;> simp
@[simp] theorem valveAdd_slices (c v n : Nat) (s : State) : (valveAdd c v n s).slices = s.slices := by
  unfold valveAdd; dsimp only; split <;> simp
@[simp] theorem valveAdd_flushing (c v n : Nat) (s : State) : (valveAdd c v n s).flushing = s.flushing := by
  unfold valveAdd; dsimp only; split <;> simp
@[simp] theorem valveAdd_refills (c v n : Nat) (s : State) : (valveAdd c v n s).refills = s.refills := by
  unfold valveAdd; dsimp only; split <;> simp
@[simp] theorem valveAdd_waits (c v n : Nat) (s : State) : (valveAdd c v n s).waits = s.waits := by
  unfold valveAdd; dsimp only; split <;> simp
@[simp] theorem valveAdd_geom (c v n : Nat) (s : State) : (valveAdd c v n s).geom = s.geom := by
  unfold valveAdd; dsimp only; split <;> simp
@[simp] theorem valveAdd_lehr (c v n : Nat) (s : State) : (valveAdd c v n s).lehr = s.lehr := by
  unfold valveAdd; dsimp only; split <;> simp
@[simp] theorem valveAdd_drains (c v n : Nat) (s : State) : (valveAdd c v n s).drains = s.drains := by
  unfold valveAdd; dsimp only; split <;> simp
@[simp] theorem valveAdd_fetches (c v n : Nat) (s : State) : (valveAdd c v n s).fetches = s.fetches := by
  unfold valveAdd; dsimp only; split <;> simp
@[simp] theorem valveAdd_nextFetch (c v n : Nat) (s : State) : (valveAdd c v n s).nextFetch = s.nextFetch := by
  unfold valveAdd; dsimp only; split <;> simp
@[simp] theorem valveAdd_partials (c v n : Nat) (s : State) : (valveAdd c v n s).partials = s.partials := by
  unfold valveAdd; dsimp only; split <;> simp
@[simp] theorem valveAdd_nextPart (c v n : Nat) (s : State) : (valveAdd c v n s).nextPart = s.nextPart := by
  unfold valveAdd; dsimp only; split <;> simp
@[simp] theorem valveAdd_descs (c v n : Nat) (s : State) : (valveAdd c v n s).descs = s.descs := by
  unfold valveAdd; dsimp only; split <;> simp
@[simp] theorem valveAdd_place (c v n : Nat) (s : State) : (valveAdd c v n s).place = s.place := by
  unfold valveAdd; dsimp only; split <;> simp
@[simp] theorem valveAdd_remote (c v n : Nat) (s : State) : (valveAdd c v n s).remote = s.remote := by
  unfold valveAdd; dsimp only; split <;> simp
@[simp] theorem valveAdd_hang (c v n : Nat) (s : State) : (valveAdd c v n s).hang = s.hang := by
  unfold valveAdd; dsimp only; split <;> simp
@[simp] theorem valveAdd_rung (c v n : Nat) (s : State) : (valveAdd c v n s).rung = s.rung := by
  unfold valveAdd; dsimp only; split <;> simp
@[simp] theorem valveAdd_dump (c v n : Nat) (s : State) : (valveAdd c v n s).dump = s.dump := by
  unfold valveAdd; dsimp only; split <;> simp
@[simp] theorem valveAdd_units (c v n : Nat) (s : State) : (valveAdd c v n s).units = s.units := by
  unfold valveAdd; dsimp only; split <;> simp
@[simp] theorem valveAdd_mems (c v n : Nat) (s : State) : (valveAdd c v n s).mems = s.mems := by
  unfold valveAdd; dsimp only; split <;> simp
@[simp] theorem valveAdd_repair (c v n : Nat) (s : State) : (valveAdd c v n s).repair = s.repair := by
  unfold valveAdd; dsimp only; split <;> simp
@[simp] theorem valveAdd_sup (c v n : Nat) (s : State) : (valveAdd c v n s).sup = s.sup := by
  unfold valveAdd; dsimp only; split <;> simp
@[simp] theorem valveAdd_fw (c v n : Nat) (s : State) : (valveAdd c v n s).fw = s.fw := by
  unfold valveAdd; dsimp only; split <;> simp
@[simp] theorem valveAdd_ret (c v n : Nat) (s : State) : (valveAdd c v n s).ret = s.ret := by
  unfold valveAdd; dsimp only; split <;> simp
@[simp] theorem valveAdd_i3c (c v n : Nat) (s : State) : (valveAdd c v n s).i3c = s.i3c := by
  unfold valveAdd; dsimp only; split <;> simp
@[simp] theorem valveAdd_pins (c v n : Nat) (s : State) : (valveAdd c v n s).pins = s.pins := by
  unfold valveAdd; dsimp only; split <;> simp

/-! ### noteWrite -/

@[simp] theorem noteWrite_pending (id addr n : Nat) (s : State) : (noteWrite id addr n s).pending = s.pending := by
  unfold noteWrite; repeat' (first | rfl | exact foldl_send (fun t : State => t.pending) _ (fun _ _ => rfl) _ _ | split)
@[simp] theorem noteWrite_freeCtr (id addr n : Nat) (s : State) : (noteWrite id addr n s).freeCtr = s.freeCtr := by
  unfold noteWrite; repeat' (first | rfl | exact foldl_send (fun t : State => t.freeCtr) _ (fun _ _ => rfl) _ _ | split)
@[simp] theorem noteWrite_cycle (id addr n : Nat) (s : State) : (noteWrite id addr n s).cycle = s.cycle := by
  unfold noteWrite; repeat' (first | rfl | exact foldl_send (fun t : State => t.cycle) _ (fun _ _ => rfl) _ _ | split)
@[simp] theorem noteWrite_bus (id addr n : Nat) (s : State) : (noteWrite id addr n s).bus = s.bus := by
  unfold noteWrite; repeat' (first | rfl | exact foldl_send (fun t : State => t.bus) _ (fun _ _ => rfl) _ _ | split)
@[simp] theorem noteWrite_tower (id addr n : Nat) (s : State) : (noteWrite id addr n s).tower = s.tower := by
  unfold noteWrite; repeat' (first | rfl | exact foldl_send (fun t : State => t.tower) _ (fun _ _ => rfl) _ _ | split)
@[simp] theorem noteWrite_regs (id addr n : Nat) (s : State) : (noteWrite id addr n s).regs = s.regs := by
  unfold noteWrite; repeat' (first | rfl | exact foldl_send (fun t : State => t.regs) _ (fun _ _ => rfl) _ _ | split)
@[simp] theorem noteWrite_mem (id addr n : Nat) (s : State) : (noteWrite id addr n s).mem = s.mem := by
  unfold noteWrite; repeat' (first | rfl | exact foldl_send (fun t : State => t.mem) _ (fun _ _ => rfl) _ _ | split)
@[simp] theorem noteWrite_tiers (id addr n : Nat) (s : State) : (noteWrite id addr n s).tiers = s.tiers := by
  unfold noteWrite; repeat' (first | rfl | exact foldl_send (fun t : State => t.tiers) _ (fun _ _ => rfl) _ _ | split)
@[simp] theorem noteWrite_queues (id addr n : Nat) (s : State) : (noteWrite id addr n s).queues = s.queues := by
  unfold noteWrite; repeat' (first | rfl | exact foldl_send (fun t : State => t.queues) _ (fun _ _ => rfl) _ _ | split)
@[simp] theorem noteWrite_arb (id addr n : Nat) (s : State) : (noteWrite id addr n s).arb = s.arb := by
  unfold noteWrite; repeat' (first | rfl | exact foldl_send (fun t : State => t.arb) _ (fun _ _ => rfl) _ _ | split)
@[simp] theorem noteWrite_nextId (id addr n : Nat) (s : State) : (noteWrite id addr n s).nextId = s.nextId := by
  unfold noteWrite; repeat' (first | rfl | exact foldl_send (fun t : State => t.nextId) _ (fun _ _ => rfl) _ _ | split)
@[simp] theorem noteWrite_ctxs (id addr n : Nat) (s : State) : (noteWrite id addr n s).ctxs = s.ctxs := by
  unfold noteWrite; repeat' (first | rfl | exact foldl_send (fun t : State => t.ctxs) _ (fun _ _ => rfl) _ _ | split)
@[simp] theorem noteWrite_valves (id addr n : Nat) (s : State) : (noteWrite id addr n s).valves = s.valves := by
  unfold noteWrite; repeat' (first | rfl | exact foldl_send (fun t : State => t.valves) _ (fun _ _ => rfl) _ _ | split)
@[simp] theorem noteWrite_mods (id addr n : Nat) (s : State) : (noteWrite id addr n s).mods = s.mods := by
  unfold noteWrite; repeat' (first | rfl | exact foldl_send (fun t : State => t.mods) _ (fun _ _ => rfl) _ _ | split)
@[simp] theorem noteWrite_tables (id addr n : Nat) (s : State) : (noteWrite id addr n s).tables = s.tables := by
  unfold noteWrite; repeat' (first | rfl | exact foldl_send (fun t : State => t.tables) _ (fun _ _ => rfl) _ _ | split)
@[simp] theorem noteWrite_slices (id addr n : Nat) (s : State) : (noteWrite id addr n s).slices = s.slices := by
  unfold noteWrite; repeat' (first | rfl | exact foldl_send (fun t : State => t.slices) _ (fun _ _ => rfl) _ _ | split)
@[simp] theorem noteWrite_flushing (id addr n : Nat) (s : State) : (noteWrite id addr n s).flushing = s.flushing := by
  unfold noteWrite; repeat' (first | rfl | exact foldl_send (fun t : State => t.flushing) _ (fun _ _ => rfl) _ _ | split)
@[simp] theorem noteWrite_refills (id addr n : Nat) (s : State) : (noteWrite id addr n s).refills = s.refills := by
  unfold noteWrite; repeat' (first | rfl | exact foldl_send (fun t : State => t.refills) _ (fun _ _ => rfl) _ _ | split)
@[simp] theorem noteWrite_waits (id addr n : Nat) (s : State) : (noteWrite id addr n s).waits = s.waits := by
  unfold noteWrite; repeat' (first | rfl | exact foldl_send (fun t : State => t.waits) _ (fun _ _ => rfl) _ _ | split)
@[simp] theorem noteWrite_geom (id addr n : Nat) (s : State) : (noteWrite id addr n s).geom = s.geom := by
  unfold noteWrite; repeat' (first | rfl | exact foldl_send (fun t : State => t.geom) _ (fun _ _ => rfl) _ _ | split)
@[simp] theorem noteWrite_lehr (id addr n : Nat) (s : State) : (noteWrite id addr n s).lehr = s.lehr := by
  unfold noteWrite; repeat' (first | rfl | exact foldl_send (fun t : State => t.lehr) _ (fun _ _ => rfl) _ _ | split)
@[simp] theorem noteWrite_drains (id addr n : Nat) (s : State) : (noteWrite id addr n s).drains = s.drains := by
  unfold noteWrite; repeat' (first | rfl | exact foldl_send (fun t : State => t.drains) _ (fun _ _ => rfl) _ _ | split)
@[simp] theorem noteWrite_fetches (id addr n : Nat) (s : State) : (noteWrite id addr n s).fetches = s.fetches := by
  unfold noteWrite; repeat' (first | rfl | exact foldl_send (fun t : State => t.fetches) _ (fun _ _ => rfl) _ _ | split)
@[simp] theorem noteWrite_nextFetch (id addr n : Nat) (s : State) : (noteWrite id addr n s).nextFetch = s.nextFetch := by
  unfold noteWrite; repeat' (first | rfl | exact foldl_send (fun t : State => t.nextFetch) _ (fun _ _ => rfl) _ _ | split)
@[simp] theorem noteWrite_partials (id addr n : Nat) (s : State) : (noteWrite id addr n s).partials = s.partials := by
  unfold noteWrite; repeat' (first | rfl | exact foldl_send (fun t : State => t.partials) _ (fun _ _ => rfl) _ _ | split)
@[simp] theorem noteWrite_nextPart (id addr n : Nat) (s : State) : (noteWrite id addr n s).nextPart = s.nextPart := by
  unfold noteWrite; repeat' (first | rfl | exact foldl_send (fun t : State => t.nextPart) _ (fun _ _ => rfl) _ _ | split)
@[simp] theorem noteWrite_descs (id addr n : Nat) (s : State) : (noteWrite id addr n s).descs = s.descs := by
  unfold noteWrite; repeat' (first | rfl | exact foldl_send (fun t : State => t.descs) _ (fun _ _ => rfl) _ _ | split)
@[simp] theorem noteWrite_host (id addr n : Nat) (s : State) : (noteWrite id addr n s).host = s.host := by
  unfold noteWrite; repeat' (first | rfl | exact foldl_send (fun t : State => t.host) _ (fun _ _ => rfl) _ _ | split)
@[simp] theorem noteWrite_place (id addr n : Nat) (s : State) : (noteWrite id addr n s).place = s.place := by
  unfold noteWrite; repeat' (first | rfl | exact foldl_send (fun t : State => t.place) _ (fun _ _ => rfl) _ _ | split)
@[simp] theorem noteWrite_remote (id addr n : Nat) (s : State) : (noteWrite id addr n s).remote = s.remote := by
  unfold noteWrite; repeat' (first | rfl | exact foldl_send (fun t : State => t.remote) _ (fun _ _ => rfl) _ _ | split)
@[simp] theorem noteWrite_errs (id addr n : Nat) (s : State) : (noteWrite id addr n s).errs = s.errs := by
  unfold noteWrite; repeat' (first | rfl | exact foldl_send (fun t : State => t.errs) _ (fun _ _ => rfl) _ _ | split)
@[simp] theorem noteWrite_hang (id addr n : Nat) (s : State) : (noteWrite id addr n s).hang = s.hang := by
  unfold noteWrite; repeat' (first | rfl | exact foldl_send (fun t : State => t.hang) _ (fun _ _ => rfl) _ _ | split)
@[simp] theorem noteWrite_rung (id addr n : Nat) (s : State) : (noteWrite id addr n s).rung = s.rung := by
  unfold noteWrite; repeat' (first | rfl | exact foldl_send (fun t : State => t.rung) _ (fun _ _ => rfl) _ _ | split)
@[simp] theorem noteWrite_dump (id addr n : Nat) (s : State) : (noteWrite id addr n s).dump = s.dump := by
  unfold noteWrite; repeat' (first | rfl | exact foldl_send (fun t : State => t.dump) _ (fun _ _ => rfl) _ _ | split)
@[simp] theorem noteWrite_units (id addr n : Nat) (s : State) : (noteWrite id addr n s).units = s.units := by
  unfold noteWrite; repeat' (first | rfl | exact foldl_send (fun t : State => t.units) _ (fun _ _ => rfl) _ _ | split)
@[simp] theorem noteWrite_mems (id addr n : Nat) (s : State) : (noteWrite id addr n s).mems = s.mems := by
  unfold noteWrite; repeat' (first | rfl | exact foldl_send (fun t : State => t.mems) _ (fun _ _ => rfl) _ _ | split)
@[simp] theorem noteWrite_repair (id addr n : Nat) (s : State) : (noteWrite id addr n s).repair = s.repair := by
  unfold noteWrite; repeat' (first | rfl | exact foldl_send (fun t : State => t.repair) _ (fun _ _ => rfl) _ _ | split)
@[simp] theorem noteWrite_sup (id addr n : Nat) (s : State) : (noteWrite id addr n s).sup = s.sup := by
  unfold noteWrite; repeat' (first | rfl | exact foldl_send (fun t : State => t.sup) _ (fun _ _ => rfl) _ _ | split)
@[simp] theorem noteWrite_fw (id addr n : Nat) (s : State) : (noteWrite id addr n s).fw = s.fw := by
  unfold noteWrite; repeat' (first | rfl | exact foldl_send (fun t : State => t.fw) _ (fun _ _ => rfl) _ _ | split)
@[simp] theorem noteWrite_ret (id addr n : Nat) (s : State) : (noteWrite id addr n s).ret = s.ret := by
  unfold noteWrite; repeat' (first | rfl | exact foldl_send (fun t : State => t.ret) _ (fun _ _ => rfl) _ _ | split)
@[simp] theorem noteWrite_i3c (id addr n : Nat) (s : State) : (noteWrite id addr n s).i3c = s.i3c := by
  unfold noteWrite; repeat' (first | rfl | exact foldl_send (fun t : State => t.i3c) _ (fun _ _ => rfl) _ _ | split)
@[simp] theorem noteWrite_pins (id addr n : Nat) (s : State) : (noteWrite id addr n s).pins = s.pins := by
  unfold noteWrite; repeat' (first | rfl | exact foldl_send (fun t : State => t.pins) _ (fun _ _ => rfl) _ _ | split)

/-! ### noteRead -/

@[simp] theorem noteRead_pending (id addr : Nat) (s : State) : (noteRead id addr s).pending = s.pending := rfl
@[simp] theorem noteRead_freeCtr (id addr : Nat) (s : State) : (noteRead id addr s).freeCtr = s.freeCtr := rfl
@[simp] theorem noteRead_sent (id addr : Nat) (s : State) : (noteRead id addr s).sent = s.sent := rfl
@[simp] theorem noteRead_cycle (id addr : Nat) (s : State) : (noteRead id addr s).cycle = s.cycle := rfl
@[simp] theorem noteRead_bus (id addr : Nat) (s : State) : (noteRead id addr s).bus = s.bus := rfl
@[simp] theorem noteRead_tower (id addr : Nat) (s : State) : (noteRead id addr s).tower = s.tower := rfl
@[simp] theorem noteRead_regs (id addr : Nat) (s : State) : (noteRead id addr s).regs = s.regs := rfl
@[simp] theorem noteRead_mem (id addr : Nat) (s : State) : (noteRead id addr s).mem = s.mem := rfl
@[simp] theorem noteRead_tiers (id addr : Nat) (s : State) : (noteRead id addr s).tiers = s.tiers := rfl
@[simp] theorem noteRead_queues (id addr : Nat) (s : State) : (noteRead id addr s).queues = s.queues := rfl
@[simp] theorem noteRead_arb (id addr : Nat) (s : State) : (noteRead id addr s).arb = s.arb := rfl
@[simp] theorem noteRead_nextId (id addr : Nat) (s : State) : (noteRead id addr s).nextId = s.nextId := rfl
@[simp] theorem noteRead_ctxs (id addr : Nat) (s : State) : (noteRead id addr s).ctxs = s.ctxs := rfl
@[simp] theorem noteRead_valves (id addr : Nat) (s : State) : (noteRead id addr s).valves = s.valves := rfl
@[simp] theorem noteRead_mods (id addr : Nat) (s : State) : (noteRead id addr s).mods = s.mods := rfl
@[simp] theorem noteRead_tables (id addr : Nat) (s : State) : (noteRead id addr s).tables = s.tables := rfl
@[simp] theorem noteRead_slices (id addr : Nat) (s : State) : (noteRead id addr s).slices = s.slices := rfl
@[simp] theorem noteRead_flushing (id addr : Nat) (s : State) : (noteRead id addr s).flushing = s.flushing := rfl
@[simp] theorem noteRead_refills (id addr : Nat) (s : State) : (noteRead id addr s).refills = s.refills := rfl
@[simp] theorem noteRead_waits (id addr : Nat) (s : State) : (noteRead id addr s).waits = s.waits := rfl
@[simp] theorem noteRead_geom (id addr : Nat) (s : State) : (noteRead id addr s).geom = s.geom := rfl
@[simp] theorem noteRead_lehr (id addr : Nat) (s : State) : (noteRead id addr s).lehr = s.lehr := rfl
@[simp] theorem noteRead_drains (id addr : Nat) (s : State) : (noteRead id addr s).drains = s.drains := rfl
@[simp] theorem noteRead_fetches (id addr : Nat) (s : State) : (noteRead id addr s).fetches = s.fetches := rfl
@[simp] theorem noteRead_nextFetch (id addr : Nat) (s : State) : (noteRead id addr s).nextFetch = s.nextFetch := rfl
@[simp] theorem noteRead_partials (id addr : Nat) (s : State) : (noteRead id addr s).partials = s.partials := rfl
@[simp] theorem noteRead_nextPart (id addr : Nat) (s : State) : (noteRead id addr s).nextPart = s.nextPart := rfl
@[simp] theorem noteRead_descs (id addr : Nat) (s : State) : (noteRead id addr s).descs = s.descs := rfl
@[simp] theorem noteRead_host (id addr : Nat) (s : State) : (noteRead id addr s).host = s.host := rfl
@[simp] theorem noteRead_place (id addr : Nat) (s : State) : (noteRead id addr s).place = s.place := rfl
@[simp] theorem noteRead_remote (id addr : Nat) (s : State) : (noteRead id addr s).remote = s.remote := rfl
@[simp] theorem noteRead_errs (id addr : Nat) (s : State) : (noteRead id addr s).errs = s.errs := rfl
@[simp] theorem noteRead_hang (id addr : Nat) (s : State) : (noteRead id addr s).hang = s.hang := rfl
@[simp] theorem noteRead_rung (id addr : Nat) (s : State) : (noteRead id addr s).rung = s.rung := rfl
@[simp] theorem noteRead_dump (id addr : Nat) (s : State) : (noteRead id addr s).dump = s.dump := rfl
@[simp] theorem noteRead_units (id addr : Nat) (s : State) : (noteRead id addr s).units = s.units := rfl
@[simp] theorem noteRead_mems (id addr : Nat) (s : State) : (noteRead id addr s).mems = s.mems := rfl
@[simp] theorem noteRead_repair (id addr : Nat) (s : State) : (noteRead id addr s).repair = s.repair := rfl
@[simp] theorem noteRead_sup (id addr : Nat) (s : State) : (noteRead id addr s).sup = s.sup := rfl
@[simp] theorem noteRead_fw (id addr : Nat) (s : State) : (noteRead id addr s).fw = s.fw := rfl
@[simp] theorem noteRead_ret (id addr : Nat) (s : State) : (noteRead id addr s).ret = s.ret := rfl
@[simp] theorem noteRead_i3c (id addr : Nat) (s : State) : (noteRead id addr s).i3c = s.i3c := rfl
@[simp] theorem noteRead_pins (id addr : Nat) (s : State) : (noteRead id addr s).pins = s.pins := rfl

/-! ### addInputs -/

@[simp] theorem addInputs_pending (id : Nat) (bs : List Byte) (s : State) : (addInputs id bs s).pending = s.pending := rfl
@[simp] theorem addInputs_freeCtr (id : Nat) (bs : List Byte) (s : State) : (addInputs id bs s).freeCtr = s.freeCtr := rfl
@[simp] theorem addInputs_sent (id : Nat) (bs : List Byte) (s : State) : (addInputs id bs s).sent = s.sent := rfl
@[simp] theorem addInputs_cycle (id : Nat) (bs : List Byte) (s : State) : (addInputs id bs s).cycle = s.cycle := rfl
@[simp] theorem addInputs_bus (id : Nat) (bs : List Byte) (s : State) : (addInputs id bs s).bus = s.bus := rfl
@[simp] theorem addInputs_tower (id : Nat) (bs : List Byte) (s : State) : (addInputs id bs s).tower = s.tower := rfl
@[simp] theorem addInputs_regs (id : Nat) (bs : List Byte) (s : State) : (addInputs id bs s).regs = s.regs := rfl
@[simp] theorem addInputs_mem (id : Nat) (bs : List Byte) (s : State) : (addInputs id bs s).mem = s.mem := rfl
@[simp] theorem addInputs_tiers (id : Nat) (bs : List Byte) (s : State) : (addInputs id bs s).tiers = s.tiers := rfl
@[simp] theorem addInputs_queues (id : Nat) (bs : List Byte) (s : State) : (addInputs id bs s).queues = s.queues := rfl
@[simp] theorem addInputs_arb (id : Nat) (bs : List Byte) (s : State) : (addInputs id bs s).arb = s.arb := rfl
@[simp] theorem addInputs_nextId (id : Nat) (bs : List Byte) (s : State) : (addInputs id bs s).nextId = s.nextId := rfl
@[simp] theorem addInputs_ctxs (id : Nat) (bs : List Byte) (s : State) : (addInputs id bs s).ctxs = s.ctxs := rfl
@[simp] theorem addInputs_valves (id : Nat) (bs : List Byte) (s : State) : (addInputs id bs s).valves = s.valves := rfl
@[simp] theorem addInputs_mods (id : Nat) (bs : List Byte) (s : State) : (addInputs id bs s).mods = s.mods := rfl
@[simp] theorem addInputs_tables (id : Nat) (bs : List Byte) (s : State) : (addInputs id bs s).tables = s.tables := rfl
@[simp] theorem addInputs_slices (id : Nat) (bs : List Byte) (s : State) : (addInputs id bs s).slices = s.slices := rfl
@[simp] theorem addInputs_flushing (id : Nat) (bs : List Byte) (s : State) : (addInputs id bs s).flushing = s.flushing := rfl
@[simp] theorem addInputs_refills (id : Nat) (bs : List Byte) (s : State) : (addInputs id bs s).refills = s.refills := rfl
@[simp] theorem addInputs_waits (id : Nat) (bs : List Byte) (s : State) : (addInputs id bs s).waits = s.waits := rfl
@[simp] theorem addInputs_geom (id : Nat) (bs : List Byte) (s : State) : (addInputs id bs s).geom = s.geom := rfl
@[simp] theorem addInputs_lehr (id : Nat) (bs : List Byte) (s : State) : (addInputs id bs s).lehr = s.lehr := rfl
@[simp] theorem addInputs_drains (id : Nat) (bs : List Byte) (s : State) : (addInputs id bs s).drains = s.drains := rfl
@[simp] theorem addInputs_fetches (id : Nat) (bs : List Byte) (s : State) : (addInputs id bs s).fetches = s.fetches := rfl
@[simp] theorem addInputs_nextFetch (id : Nat) (bs : List Byte) (s : State) : (addInputs id bs s).nextFetch = s.nextFetch := rfl
@[simp] theorem addInputs_partials (id : Nat) (bs : List Byte) (s : State) : (addInputs id bs s).partials = s.partials := rfl
@[simp] theorem addInputs_nextPart (id : Nat) (bs : List Byte) (s : State) : (addInputs id bs s).nextPart = s.nextPart := rfl
@[simp] theorem addInputs_descs (id : Nat) (bs : List Byte) (s : State) : (addInputs id bs s).descs = s.descs := rfl
@[simp] theorem addInputs_host (id : Nat) (bs : List Byte) (s : State) : (addInputs id bs s).host = s.host := rfl
@[simp] theorem addInputs_place (id : Nat) (bs : List Byte) (s : State) : (addInputs id bs s).place = s.place := rfl
@[simp] theorem addInputs_remote (id : Nat) (bs : List Byte) (s : State) : (addInputs id bs s).remote = s.remote := rfl
@[simp] theorem addInputs_errs (id : Nat) (bs : List Byte) (s : State) : (addInputs id bs s).errs = s.errs := rfl
@[simp] theorem addInputs_hang (id : Nat) (bs : List Byte) (s : State) : (addInputs id bs s).hang = s.hang := rfl
@[simp] theorem addInputs_rung (id : Nat) (bs : List Byte) (s : State) : (addInputs id bs s).rung = s.rung := rfl
@[simp] theorem addInputs_dump (id : Nat) (bs : List Byte) (s : State) : (addInputs id bs s).dump = s.dump := rfl
@[simp] theorem addInputs_units (id : Nat) (bs : List Byte) (s : State) : (addInputs id bs s).units = s.units := rfl
@[simp] theorem addInputs_mems (id : Nat) (bs : List Byte) (s : State) : (addInputs id bs s).mems = s.mems := rfl
@[simp] theorem addInputs_repair (id : Nat) (bs : List Byte) (s : State) : (addInputs id bs s).repair = s.repair := rfl
@[simp] theorem addInputs_sup (id : Nat) (bs : List Byte) (s : State) : (addInputs id bs s).sup = s.sup := rfl
@[simp] theorem addInputs_fw (id : Nat) (bs : List Byte) (s : State) : (addInputs id bs s).fw = s.fw := rfl
@[simp] theorem addInputs_ret (id : Nat) (bs : List Byte) (s : State) : (addInputs id bs s).ret = s.ret := rfl
@[simp] theorem addInputs_i3c (id : Nat) (bs : List Byte) (s : State) : (addInputs id bs s).i3c = s.i3c := rfl
@[simp] theorem addInputs_pins (id : Nat) (bs : List Byte) (s : State) : (addInputs id bs s).pins = s.pins := rfl

/-! ### beginFlush -/

@[simp] theorem beginFlush_pending (c : Cmd) (s : State) : (beginFlush c s).pending = s.pending := by
  unfold beginFlush; split <;> rfl
@[simp] theorem beginFlush_freeCtr (c : Cmd) (s : State) : (beginFlush c s).freeCtr = s.freeCtr := by
  unfold beginFlush; split <;> rfl
@[simp] theorem beginFlush_cycle (c : Cmd) (s : State) : (beginFlush c s).cycle = s.cycle := by
  unfold beginFlush; split <;> rfl
@[simp] theorem beginFlush_bus (c : Cmd) (s : State) : (beginFlush c s).bus = s.bus := by
  unfold beginFlush; split <;> rfl
@[simp] theorem beginFlush_tower (c : Cmd) (s : State) : (beginFlush c s).tower = s.tower := by
  unfold beginFlush; split <;> rfl
@[simp] theorem beginFlush_regs (c : Cmd) (s : State) : (beginFlush c s).regs = s.regs := by
  unfold beginFlush; split <;> rfl
@[simp] theorem beginFlush_mem (c : Cmd) (s : State) : (beginFlush c s).mem = s.mem := by
  unfold beginFlush; split <;> rfl
@[simp] theorem beginFlush_tiers (c : Cmd) (s : State) : (beginFlush c s).tiers = s.tiers := by
  unfold beginFlush; split <;> rfl
@[simp] theorem beginFlush_queues (c : Cmd) (s : State) : (beginFlush c s).queues = s.queues := by
  unfold beginFlush; split <;> rfl
@[simp] theorem beginFlush_arb (c : Cmd) (s : State) : (beginFlush c s).arb = s.arb := by
  unfold beginFlush; split <;> rfl
@[simp] theorem beginFlush_nextId (c : Cmd) (s : State) : (beginFlush c s).nextId = s.nextId := by
  unfold beginFlush; split <;> rfl
@[simp] theorem beginFlush_ctxs (c : Cmd) (s : State) : (beginFlush c s).ctxs = s.ctxs := by
  unfold beginFlush; split <;> rfl
@[simp] theorem beginFlush_valves (c : Cmd) (s : State) : (beginFlush c s).valves = s.valves := by
  unfold beginFlush; split <;> rfl
@[simp] theorem beginFlush_mods (c : Cmd) (s : State) : (beginFlush c s).mods = s.mods := by
  unfold beginFlush; split <;> rfl
@[simp] theorem beginFlush_tables (c : Cmd) (s : State) : (beginFlush c s).tables = s.tables := by
  unfold beginFlush; split <;> rfl
@[simp] theorem beginFlush_slices (c : Cmd) (s : State) : (beginFlush c s).slices = s.slices := by
  unfold beginFlush; split <;> rfl
@[simp] theorem beginFlush_flushing (c : Cmd) (s : State) : (beginFlush c s).flushing = s.flushing := by
  unfold beginFlush; split <;> rfl
@[simp] theorem beginFlush_refills (c : Cmd) (s : State) : (beginFlush c s).refills = s.refills := by
  unfold beginFlush; split <;> rfl
@[simp] theorem beginFlush_waits (c : Cmd) (s : State) : (beginFlush c s).waits = s.waits := by
  unfold beginFlush; split <;> rfl
@[simp] theorem beginFlush_geom (c : Cmd) (s : State) : (beginFlush c s).geom = s.geom := by
  unfold beginFlush; split <;> rfl
@[simp] theorem beginFlush_lehr (c : Cmd) (s : State) : (beginFlush c s).lehr = s.lehr := by
  unfold beginFlush; split <;> rfl
@[simp] theorem beginFlush_drains (c : Cmd) (s : State) : (beginFlush c s).drains = s.drains := by
  unfold beginFlush; split <;> rfl
@[simp] theorem beginFlush_fetches (c : Cmd) (s : State) : (beginFlush c s).fetches = s.fetches := by
  unfold beginFlush; split <;> rfl
@[simp] theorem beginFlush_nextFetch (c : Cmd) (s : State) : (beginFlush c s).nextFetch = s.nextFetch := by
  unfold beginFlush; split <;> rfl
@[simp] theorem beginFlush_partials (c : Cmd) (s : State) : (beginFlush c s).partials = s.partials := by
  unfold beginFlush; split <;> rfl
@[simp] theorem beginFlush_nextPart (c : Cmd) (s : State) : (beginFlush c s).nextPart = s.nextPart := by
  unfold beginFlush; split <;> rfl
@[simp] theorem beginFlush_descs (c : Cmd) (s : State) : (beginFlush c s).descs = s.descs := by
  unfold beginFlush; split <;> rfl
@[simp] theorem beginFlush_host (c : Cmd) (s : State) : (beginFlush c s).host = s.host := by
  unfold beginFlush; split <;> rfl
@[simp] theorem beginFlush_place (c : Cmd) (s : State) : (beginFlush c s).place = s.place := by
  unfold beginFlush; split <;> rfl
@[simp] theorem beginFlush_remote (c : Cmd) (s : State) : (beginFlush c s).remote = s.remote := by
  unfold beginFlush; split <;> rfl
@[simp] theorem beginFlush_errs (c : Cmd) (s : State) : (beginFlush c s).errs = s.errs := by
  unfold beginFlush; split <;> rfl
@[simp] theorem beginFlush_hang (c : Cmd) (s : State) : (beginFlush c s).hang = s.hang := by
  unfold beginFlush; split <;> rfl
@[simp] theorem beginFlush_rung (c : Cmd) (s : State) : (beginFlush c s).rung = s.rung := by
  unfold beginFlush; split <;> rfl
@[simp] theorem beginFlush_dump (c : Cmd) (s : State) : (beginFlush c s).dump = s.dump := by
  unfold beginFlush; split <;> rfl
@[simp] theorem beginFlush_units (c : Cmd) (s : State) : (beginFlush c s).units = s.units := by
  unfold beginFlush; split <;> rfl
@[simp] theorem beginFlush_mems (c : Cmd) (s : State) : (beginFlush c s).mems = s.mems := by
  unfold beginFlush; split <;> rfl
@[simp] theorem beginFlush_repair (c : Cmd) (s : State) : (beginFlush c s).repair = s.repair := by
  unfold beginFlush; split <;> rfl
@[simp] theorem beginFlush_sup (c : Cmd) (s : State) : (beginFlush c s).sup = s.sup := by
  unfold beginFlush; split <;> rfl
@[simp] theorem beginFlush_fw (c : Cmd) (s : State) : (beginFlush c s).fw = s.fw := by
  unfold beginFlush; split <;> rfl
@[simp] theorem beginFlush_ret (c : Cmd) (s : State) : (beginFlush c s).ret = s.ret := by
  unfold beginFlush; split <;> rfl
@[simp] theorem beginFlush_i3c (c : Cmd) (s : State) : (beginFlush c s).i3c = s.i3c := by
  unfold beginFlush; split <;> rfl
@[simp] theorem beginFlush_pins (c : Cmd) (s : State) : (beginFlush c s).pins = s.pins := by
  unfold beginFlush; split <;> rfl

/-! ### writeFree -/

@[simp] theorem writeFree_pending (space addr n : Nat) (s : State) : (writeFree space addr n s).pending = s.pending := by
  simp [writeFree]
@[simp] theorem writeFree_sent (space addr n : Nat) (s : State) : (writeFree space addr n s).sent = s.sent := by
  simp [writeFree]
@[simp] theorem writeFree_cycle (space addr n : Nat) (s : State) : (writeFree space addr n s).cycle = s.cycle := by
  simp [writeFree]
@[simp] theorem writeFree_bus (space addr n : Nat) (s : State) : (writeFree space addr n s).bus = s.bus := by
  simp [writeFree]
@[simp] theorem writeFree_tower (space addr n : Nat) (s : State) : (writeFree space addr n s).tower = s.tower := by
  simp [writeFree]
@[simp] theorem writeFree_regs (space addr n : Nat) (s : State) : (writeFree space addr n s).regs = s.regs := by
  simp [writeFree]
@[simp] theorem writeFree_tiers (space addr n : Nat) (s : State) : (writeFree space addr n s).tiers = s.tiers := by
  simp [writeFree]
@[simp] theorem writeFree_queues (space addr n : Nat) (s : State) : (writeFree space addr n s).queues = s.queues := by
  simp [writeFree]
@[simp] theorem writeFree_arb (space addr n : Nat) (s : State) : (writeFree space addr n s).arb = s.arb := by
  simp [writeFree]
@[simp] theorem writeFree_cmds (space addr n : Nat) (s : State) : (writeFree space addr n s).cmds = s.cmds := by
  simp [writeFree]
@[simp] theorem writeFree_nextId (space addr n : Nat) (s : State) : (writeFree space addr n s).nextId = s.nextId := by
  simp [writeFree]
@[simp] theorem writeFree_ctxs (space addr n : Nat) (s : State) : (writeFree space addr n s).ctxs = s.ctxs := by
  simp [writeFree]
@[simp] theorem writeFree_valves (space addr n : Nat) (s : State) : (writeFree space addr n s).valves = s.valves := by
  simp [writeFree]
@[simp] theorem writeFree_mods (space addr n : Nat) (s : State) : (writeFree space addr n s).mods = s.mods := by
  simp [writeFree]
@[simp] theorem writeFree_tables (space addr n : Nat) (s : State) : (writeFree space addr n s).tables = s.tables := by
  simp [writeFree]
@[simp] theorem writeFree_slices (space addr n : Nat) (s : State) : (writeFree space addr n s).slices = s.slices := by
  simp [writeFree]
@[simp] theorem writeFree_flushing (space addr n : Nat) (s : State) : (writeFree space addr n s).flushing = s.flushing := by
  simp [writeFree]
@[simp] theorem writeFree_refills (space addr n : Nat) (s : State) : (writeFree space addr n s).refills = s.refills := by
  simp [writeFree]
@[simp] theorem writeFree_waits (space addr n : Nat) (s : State) : (writeFree space addr n s).waits = s.waits := by
  simp [writeFree]
@[simp] theorem writeFree_geom (space addr n : Nat) (s : State) : (writeFree space addr n s).geom = s.geom := by
  simp [writeFree]
@[simp] theorem writeFree_lehr (space addr n : Nat) (s : State) : (writeFree space addr n s).lehr = s.lehr := by
  simp [writeFree]
@[simp] theorem writeFree_drains (space addr n : Nat) (s : State) : (writeFree space addr n s).drains = s.drains := by
  simp [writeFree]
@[simp] theorem writeFree_fetches (space addr n : Nat) (s : State) : (writeFree space addr n s).fetches = s.fetches := by
  simp [writeFree]
@[simp] theorem writeFree_nextFetch (space addr n : Nat) (s : State) : (writeFree space addr n s).nextFetch = s.nextFetch := by
  simp [writeFree]
@[simp] theorem writeFree_partials (space addr n : Nat) (s : State) : (writeFree space addr n s).partials = s.partials := by
  simp [writeFree]
@[simp] theorem writeFree_nextPart (space addr n : Nat) (s : State) : (writeFree space addr n s).nextPart = s.nextPart := by
  simp [writeFree]
@[simp] theorem writeFree_descs (space addr n : Nat) (s : State) : (writeFree space addr n s).descs = s.descs := by
  simp [writeFree]
@[simp] theorem writeFree_host (space addr n : Nat) (s : State) : (writeFree space addr n s).host = s.host := by
  simp [writeFree]
@[simp] theorem writeFree_place (space addr n : Nat) (s : State) : (writeFree space addr n s).place = s.place := by
  simp [writeFree]
@[simp] theorem writeFree_remote (space addr n : Nat) (s : State) : (writeFree space addr n s).remote = s.remote := by
  simp [writeFree]
@[simp] theorem writeFree_errs (space addr n : Nat) (s : State) : (writeFree space addr n s).errs = s.errs := by
  simp [writeFree]
@[simp] theorem writeFree_hang (space addr n : Nat) (s : State) : (writeFree space addr n s).hang = s.hang := by
  simp [writeFree]
@[simp] theorem writeFree_rung (space addr n : Nat) (s : State) : (writeFree space addr n s).rung = s.rung := by
  simp [writeFree]
@[simp] theorem writeFree_dump (space addr n : Nat) (s : State) : (writeFree space addr n s).dump = s.dump := by
  simp [writeFree]
@[simp] theorem writeFree_units (space addr n : Nat) (s : State) : (writeFree space addr n s).units = s.units := by
  simp [writeFree]
@[simp] theorem writeFree_mems (space addr n : Nat) (s : State) : (writeFree space addr n s).mems = s.mems := by
  simp [writeFree]
@[simp] theorem writeFree_repair (space addr n : Nat) (s : State) : (writeFree space addr n s).repair = s.repair := by
  simp [writeFree]
@[simp] theorem writeFree_sup (space addr n : Nat) (s : State) : (writeFree space addr n s).sup = s.sup := by
  simp [writeFree]
@[simp] theorem writeFree_fw (space addr n : Nat) (s : State) : (writeFree space addr n s).fw = s.fw := by
  simp [writeFree]
@[simp] theorem writeFree_ret (space addr n : Nat) (s : State) : (writeFree space addr n s).ret = s.ret := by
  simp [writeFree]
@[simp] theorem writeFree_i3c (space addr n : Nat) (s : State) : (writeFree space addr n s).i3c = s.i3c := by
  simp [writeFree]
@[simp] theorem writeFree_pins (space addr n : Nat) (s : State) : (writeFree space addr n s).pins = s.pins := by
  simp [writeFree]

/-! ### wakeUp -/

@[simp] theorem wakeUp_pending (s : State) : (wakeUp s).pending = s.pending := by
  unfold wakeUp; split <;> rfl
@[simp] theorem wakeUp_freeCtr (s : State) : (wakeUp s).freeCtr = s.freeCtr := by
  unfold wakeUp; split <;> rfl
@[simp] theorem wakeUp_sent (s : State) : (wakeUp s).sent = s.sent := by
  unfold wakeUp; split <;> rfl
@[simp] theorem wakeUp_cycle (s : State) : (wakeUp s).cycle = s.cycle := by
  unfold wakeUp; split <;> rfl
@[simp] theorem wakeUp_bus (s : State) : (wakeUp s).bus = s.bus := by
  unfold wakeUp; split <;> rfl
@[simp] theorem wakeUp_tower (s : State) : (wakeUp s).tower = s.tower := by
  unfold wakeUp; split <;> rfl
@[simp] theorem wakeUp_mem (s : State) : (wakeUp s).mem = s.mem := by
  unfold wakeUp; split <;> rfl
@[simp] theorem wakeUp_tiers (s : State) : (wakeUp s).tiers = s.tiers := by
  unfold wakeUp; split <;> rfl
@[simp] theorem wakeUp_queues (s : State) : (wakeUp s).queues = s.queues := by
  unfold wakeUp; split <;> rfl
@[simp] theorem wakeUp_arb (s : State) : (wakeUp s).arb = s.arb := by
  unfold wakeUp; split <;> rfl
@[simp] theorem wakeUp_cmds (s : State) : (wakeUp s).cmds = s.cmds := by
  unfold wakeUp; split <;> rfl
@[simp] theorem wakeUp_nextId (s : State) : (wakeUp s).nextId = s.nextId := by
  unfold wakeUp; split <;> rfl
@[simp] theorem wakeUp_ctxs (s : State) : (wakeUp s).ctxs = s.ctxs := by
  unfold wakeUp; split <;> rfl
@[simp] theorem wakeUp_valves (s : State) : (wakeUp s).valves = s.valves := by
  unfold wakeUp; split <;> rfl
@[simp] theorem wakeUp_mods (s : State) : (wakeUp s).mods = s.mods := by
  unfold wakeUp; split <;> rfl
@[simp] theorem wakeUp_tables (s : State) : (wakeUp s).tables = s.tables := by
  unfold wakeUp; split <;> rfl
@[simp] theorem wakeUp_slices (s : State) : (wakeUp s).slices = s.slices := by
  unfold wakeUp; split <;> rfl
@[simp] theorem wakeUp_flushing (s : State) : (wakeUp s).flushing = s.flushing := by
  unfold wakeUp; split <;> rfl
@[simp] theorem wakeUp_refills (s : State) : (wakeUp s).refills = s.refills := by
  unfold wakeUp; split <;> rfl
@[simp] theorem wakeUp_waits (s : State) : (wakeUp s).waits = s.waits := by
  unfold wakeUp; split <;> rfl
@[simp] theorem wakeUp_geom (s : State) : (wakeUp s).geom = s.geom := by
  unfold wakeUp; split <;> rfl
@[simp] theorem wakeUp_lehr (s : State) : (wakeUp s).lehr = s.lehr := by
  unfold wakeUp; split <;> rfl
@[simp] theorem wakeUp_drains (s : State) : (wakeUp s).drains = s.drains := by
  unfold wakeUp; split <;> rfl
@[simp] theorem wakeUp_fetches (s : State) : (wakeUp s).fetches = s.fetches := by
  unfold wakeUp; split <;> rfl
@[simp] theorem wakeUp_nextFetch (s : State) : (wakeUp s).nextFetch = s.nextFetch := by
  unfold wakeUp; split <;> rfl
@[simp] theorem wakeUp_partials (s : State) : (wakeUp s).partials = s.partials := by
  unfold wakeUp; split <;> rfl
@[simp] theorem wakeUp_nextPart (s : State) : (wakeUp s).nextPart = s.nextPart := by
  unfold wakeUp; split <;> rfl
@[simp] theorem wakeUp_descs (s : State) : (wakeUp s).descs = s.descs := by
  unfold wakeUp; split <;> rfl
@[simp] theorem wakeUp_host (s : State) : (wakeUp s).host = s.host := by
  unfold wakeUp; split <;> rfl
@[simp] theorem wakeUp_place (s : State) : (wakeUp s).place = s.place := by
  unfold wakeUp; split <;> rfl
@[simp] theorem wakeUp_remote (s : State) : (wakeUp s).remote = s.remote := by
  unfold wakeUp; split <;> rfl
@[simp] theorem wakeUp_errs (s : State) : (wakeUp s).errs = s.errs := by
  unfold wakeUp; split <;> rfl
@[simp] theorem wakeUp_hang (s : State) : (wakeUp s).hang = s.hang := by
  unfold wakeUp; split <;> rfl
@[simp] theorem wakeUp_rung (s : State) : (wakeUp s).rung = s.rung := by
  unfold wakeUp; split <;> rfl
@[simp] theorem wakeUp_dump (s : State) : (wakeUp s).dump = s.dump := by
  unfold wakeUp; split <;> rfl
@[simp] theorem wakeUp_units (s : State) : (wakeUp s).units = s.units := by
  unfold wakeUp; split <;> rfl
@[simp] theorem wakeUp_mems (s : State) : (wakeUp s).mems = s.mems := by
  unfold wakeUp; split <;> rfl
@[simp] theorem wakeUp_repair (s : State) : (wakeUp s).repair = s.repair := by
  unfold wakeUp; split <;> rfl
@[simp] theorem wakeUp_fw (s : State) : (wakeUp s).fw = s.fw := by
  unfold wakeUp; split <;> rfl
@[simp] theorem wakeUp_ret (s : State) : (wakeUp s).ret = s.ret := by
  unfold wakeUp; split <;> rfl
@[simp] theorem wakeUp_i3c (s : State) : (wakeUp s).i3c = s.i3c := by
  unfold wakeUp; split <;> rfl
@[simp] theorem wakeUp_pins (s : State) : (wakeUp s).pins = s.pins := by
  unfold wakeUp; split <;> rfl

/-! ### settleHold -/

@[simp] theorem settleHold_pending (q : Nat) (s : State) : (settleHold q s).pending = s.pending := by
  unfold settleHold; dsimp only; split <;> simp
@[simp] theorem settleHold_freeCtr (q : Nat) (s : State) : (settleHold q s).freeCtr = s.freeCtr := by
  unfold settleHold; dsimp only; split <;> simp
@[simp] theorem settleHold_sent (q : Nat) (s : State) : (settleHold q s).sent = s.sent := by
  unfold settleHold; dsimp only; split <;> simp
@[simp] theorem settleHold_cycle (q : Nat) (s : State) : (settleHold q s).cycle = s.cycle := by
  unfold settleHold; dsimp only; split <;> simp
@[simp] theorem settleHold_bus (q : Nat) (s : State) : (settleHold q s).bus = s.bus := by
  unfold settleHold; dsimp only; split <;> simp
@[simp] theorem settleHold_tower (q : Nat) (s : State) : (settleHold q s).tower = s.tower := by
  unfold settleHold; dsimp only; split <;> simp
@[simp] theorem settleHold_regs (q : Nat) (s : State) : (settleHold q s).regs = s.regs := by
  unfold settleHold; dsimp only; split <;> simp
@[simp] theorem settleHold_mem (q : Nat) (s : State) : (settleHold q s).mem = s.mem := by
  unfold settleHold; dsimp only; split <;> simp
@[simp] theorem settleHold_tiers (q : Nat) (s : State) : (settleHold q s).tiers = s.tiers := by
  unfold settleHold; dsimp only; split <;> simp
@[simp] theorem settleHold_arb (q : Nat) (s : State) : (settleHold q s).arb = s.arb := by
  unfold settleHold; dsimp only; split <;> simp
@[simp] theorem settleHold_cmds (q : Nat) (s : State) : (settleHold q s).cmds = s.cmds := by
  unfold settleHold; dsimp only; split <;> simp
@[simp] theorem settleHold_nextId (q : Nat) (s : State) : (settleHold q s).nextId = s.nextId := by
  unfold settleHold; dsimp only; split <;> simp
@[simp] theorem settleHold_ctxs (q : Nat) (s : State) : (settleHold q s).ctxs = s.ctxs := by
  unfold settleHold; dsimp only; split <;> simp
@[simp] theorem settleHold_valves (q : Nat) (s : State) : (settleHold q s).valves = s.valves := by
  unfold settleHold; dsimp only; split <;> simp
@[simp] theorem settleHold_mods (q : Nat) (s : State) : (settleHold q s).mods = s.mods := by
  unfold settleHold; dsimp only; split <;> simp
@[simp] theorem settleHold_tables (q : Nat) (s : State) : (settleHold q s).tables = s.tables := by
  unfold settleHold; dsimp only; split <;> simp
@[simp] theorem settleHold_slices (q : Nat) (s : State) : (settleHold q s).slices = s.slices := by
  unfold settleHold; dsimp only; split <;> simp
@[simp] theorem settleHold_flushing (q : Nat) (s : State) : (settleHold q s).flushing = s.flushing := by
  unfold settleHold; dsimp only; split <;> simp
@[simp] theorem settleHold_refills (q : Nat) (s : State) : (settleHold q s).refills = s.refills := by
  unfold settleHold; dsimp only; split <;> simp
@[simp] theorem settleHold_waits (q : Nat) (s : State) : (settleHold q s).waits = s.waits := by
  unfold settleHold; dsimp only; split <;> simp
@[simp] theorem settleHold_geom (q : Nat) (s : State) : (settleHold q s).geom = s.geom := by
  unfold settleHold; dsimp only; split <;> simp
@[simp] theorem settleHold_lehr (q : Nat) (s : State) : (settleHold q s).lehr = s.lehr := by
  unfold settleHold; dsimp only; split <;> simp
@[simp] theorem settleHold_drains (q : Nat) (s : State) : (settleHold q s).drains = s.drains := by
  unfold settleHold; dsimp only; split <;> simp
@[simp] theorem settleHold_fetches (q : Nat) (s : State) : (settleHold q s).fetches = s.fetches := by
  unfold settleHold; dsimp only; split <;> simp
@[simp] theorem settleHold_nextFetch (q : Nat) (s : State) : (settleHold q s).nextFetch = s.nextFetch := by
  unfold settleHold; dsimp only; split <;> simp
@[simp] theorem settleHold_partials (q : Nat) (s : State) : (settleHold q s).partials = s.partials := by
  unfold settleHold; dsimp only; split <;> simp
@[simp] theorem settleHold_nextPart (q : Nat) (s : State) : (settleHold q s).nextPart = s.nextPart := by
  unfold settleHold; dsimp only; split <;> simp
@[simp] theorem settleHold_descs (q : Nat) (s : State) : (settleHold q s).descs = s.descs := by
  unfold settleHold; dsimp only; split <;> simp
@[simp] theorem settleHold_host (q : Nat) (s : State) : (settleHold q s).host = s.host := by
  unfold settleHold; dsimp only; split <;> simp
@[simp] theorem settleHold_place (q : Nat) (s : State) : (settleHold q s).place = s.place := by
  unfold settleHold; dsimp only; split <;> simp
@[simp] theorem settleHold_remote (q : Nat) (s : State) : (settleHold q s).remote = s.remote := by
  unfold settleHold; dsimp only; split <;> simp
@[simp] theorem settleHold_errs (q : Nat) (s : State) : (settleHold q s).errs = s.errs := by
  unfold settleHold; dsimp only; split <;> simp
@[simp] theorem settleHold_hang (q : Nat) (s : State) : (settleHold q s).hang = s.hang := by
  unfold settleHold; dsimp only; split <;> simp
@[simp] theorem settleHold_rung (q : Nat) (s : State) : (settleHold q s).rung = s.rung := by
  unfold settleHold; dsimp only; split <;> simp
@[simp] theorem settleHold_dump (q : Nat) (s : State) : (settleHold q s).dump = s.dump := by
  unfold settleHold; dsimp only; split <;> simp
@[simp] theorem settleHold_units (q : Nat) (s : State) : (settleHold q s).units = s.units := by
  unfold settleHold; dsimp only; split <;> simp
@[simp] theorem settleHold_mems (q : Nat) (s : State) : (settleHold q s).mems = s.mems := by
  unfold settleHold; dsimp only; split <;> simp
@[simp] theorem settleHold_repair (q : Nat) (s : State) : (settleHold q s).repair = s.repair := by
  unfold settleHold; dsimp only; split <;> simp
@[simp] theorem settleHold_sup (q : Nat) (s : State) : (settleHold q s).sup = s.sup := by
  unfold settleHold; dsimp only; split <;> simp
@[simp] theorem settleHold_fw (q : Nat) (s : State) : (settleHold q s).fw = s.fw := by
  unfold settleHold; dsimp only; split <;> simp
@[simp] theorem settleHold_ret (q : Nat) (s : State) : (settleHold q s).ret = s.ret := by
  unfold settleHold; dsimp only; split <;> simp
@[simp] theorem settleHold_i3c (q : Nat) (s : State) : (settleHold q s).i3c = s.i3c := by
  unfold settleHold; dsimp only; split <;> simp
@[simp] theorem settleHold_pins (q : Nat) (s : State) : (settleHold q s).pins = s.pins := by
  unfold settleHold; dsimp only; split <;> simp

/-! ### unsnap -/

@[simp] theorem unsnap_pending (ns : List Snap) (s : State) : (unsnap ns s).pending = s.pending := by
  unfold unsnap; induction ns generalizing s with | nil => rfl | cons n ns ih => simp [ih]
@[simp] theorem unsnap_freeCtr (ns : List Snap) (s : State) : (unsnap ns s).freeCtr = s.freeCtr := by
  unfold unsnap; induction ns generalizing s with | nil => rfl | cons n ns ih => simp [ih]
@[simp] theorem unsnap_sent (ns : List Snap) (s : State) : (unsnap ns s).sent = s.sent := by
  unfold unsnap; induction ns generalizing s with | nil => rfl | cons n ns ih => simp [ih]
@[simp] theorem unsnap_cycle (ns : List Snap) (s : State) : (unsnap ns s).cycle = s.cycle := by
  unfold unsnap; induction ns generalizing s with | nil => rfl | cons n ns ih => simp [ih]
@[simp] theorem unsnap_bus (ns : List Snap) (s : State) : (unsnap ns s).bus = s.bus := by
  unfold unsnap; induction ns generalizing s with | nil => rfl | cons n ns ih => simp [ih]
@[simp] theorem unsnap_tower (ns : List Snap) (s : State) : (unsnap ns s).tower = s.tower := by
  unfold unsnap; induction ns generalizing s with | nil => rfl | cons n ns ih => simp [ih]
@[simp] theorem unsnap_regs (ns : List Snap) (s : State) : (unsnap ns s).regs = s.regs := by
  unfold unsnap; induction ns generalizing s with | nil => rfl | cons n ns ih => simp [ih]
@[simp] theorem unsnap_mem (ns : List Snap) (s : State) : (unsnap ns s).mem = s.mem := by
  unfold unsnap; induction ns generalizing s with | nil => rfl | cons n ns ih => simp [ih]
@[simp] theorem unsnap_tiers (ns : List Snap) (s : State) : (unsnap ns s).tiers = s.tiers := by
  unfold unsnap; induction ns generalizing s with | nil => rfl | cons n ns ih => simp [ih]
@[simp] theorem unsnap_queues (ns : List Snap) (s : State) : (unsnap ns s).queues = s.queues := by
  unfold unsnap; induction ns generalizing s with | nil => rfl | cons n ns ih => simp [ih]
@[simp] theorem unsnap_arb (ns : List Snap) (s : State) : (unsnap ns s).arb = s.arb := by
  unfold unsnap; induction ns generalizing s with | nil => rfl | cons n ns ih => simp [ih]
@[simp] theorem unsnap_cmds (ns : List Snap) (s : State) : (unsnap ns s).cmds = s.cmds := by
  unfold unsnap; induction ns generalizing s with | nil => rfl | cons n ns ih => simp [ih]
@[simp] theorem unsnap_nextId (ns : List Snap) (s : State) : (unsnap ns s).nextId = s.nextId := by
  unfold unsnap; induction ns generalizing s with | nil => rfl | cons n ns ih => simp [ih]
@[simp] theorem unsnap_ctxs (ns : List Snap) (s : State) : (unsnap ns s).ctxs = s.ctxs := by
  unfold unsnap; induction ns generalizing s with | nil => rfl | cons n ns ih => simp [ih]
@[simp] theorem unsnap_valves (ns : List Snap) (s : State) : (unsnap ns s).valves = s.valves := by
  unfold unsnap; induction ns generalizing s with | nil => rfl | cons n ns ih => simp [ih]
@[simp] theorem unsnap_mods (ns : List Snap) (s : State) : (unsnap ns s).mods = s.mods := by
  unfold unsnap; induction ns generalizing s with | nil => rfl | cons n ns ih => simp [ih]
@[simp] theorem unsnap_slices (ns : List Snap) (s : State) : (unsnap ns s).slices = s.slices := by
  unfold unsnap; induction ns generalizing s with | nil => rfl | cons n ns ih => simp [ih]
@[simp] theorem unsnap_flushing (ns : List Snap) (s : State) : (unsnap ns s).flushing = s.flushing := by
  unfold unsnap; induction ns generalizing s with | nil => rfl | cons n ns ih => simp [ih]
@[simp] theorem unsnap_refills (ns : List Snap) (s : State) : (unsnap ns s).refills = s.refills := by
  unfold unsnap; induction ns generalizing s with | nil => rfl | cons n ns ih => simp [ih]
@[simp] theorem unsnap_waits (ns : List Snap) (s : State) : (unsnap ns s).waits = s.waits := by
  unfold unsnap; induction ns generalizing s with | nil => rfl | cons n ns ih => simp [ih]
@[simp] theorem unsnap_geom (ns : List Snap) (s : State) : (unsnap ns s).geom = s.geom := by
  unfold unsnap; induction ns generalizing s with | nil => rfl | cons n ns ih => simp [ih]
@[simp] theorem unsnap_lehr (ns : List Snap) (s : State) : (unsnap ns s).lehr = s.lehr := by
  unfold unsnap; induction ns generalizing s with | nil => rfl | cons n ns ih => simp [ih]
@[simp] theorem unsnap_drains (ns : List Snap) (s : State) : (unsnap ns s).drains = s.drains := by
  unfold unsnap; induction ns generalizing s with | nil => rfl | cons n ns ih => simp [ih]
@[simp] theorem unsnap_fetches (ns : List Snap) (s : State) : (unsnap ns s).fetches = s.fetches := by
  unfold unsnap; induction ns generalizing s with | nil => rfl | cons n ns ih => simp [ih]
@[simp] theorem unsnap_nextFetch (ns : List Snap) (s : State) : (unsnap ns s).nextFetch = s.nextFetch := by
  unfold unsnap; induction ns generalizing s with | nil => rfl | cons n ns ih => simp [ih]
@[simp] theorem unsnap_partials (ns : List Snap) (s : State) : (unsnap ns s).partials = s.partials := by
  unfold unsnap; induction ns generalizing s with | nil => rfl | cons n ns ih => simp [ih]
@[simp] theorem unsnap_nextPart (ns : List Snap) (s : State) : (unsnap ns s).nextPart = s.nextPart := by
  unfold unsnap; induction ns generalizing s with | nil => rfl | cons n ns ih => simp [ih]
@[simp] theorem unsnap_descs (ns : List Snap) (s : State) : (unsnap ns s).descs = s.descs := by
  unfold unsnap; induction ns generalizing s with | nil => rfl | cons n ns ih => simp [ih]
@[simp] theorem unsnap_host (ns : List Snap) (s : State) : (unsnap ns s).host = s.host := by
  unfold unsnap; induction ns generalizing s with | nil => rfl | cons n ns ih => simp [ih]
@[simp] theorem unsnap_place (ns : List Snap) (s : State) : (unsnap ns s).place = s.place := by
  unfold unsnap; induction ns generalizing s with | nil => rfl | cons n ns ih => simp [ih]
@[simp] theorem unsnap_remote (ns : List Snap) (s : State) : (unsnap ns s).remote = s.remote := by
  unfold unsnap; induction ns generalizing s with | nil => rfl | cons n ns ih => simp [ih]
@[simp] theorem unsnap_errs (ns : List Snap) (s : State) : (unsnap ns s).errs = s.errs := by
  unfold unsnap; induction ns generalizing s with | nil => rfl | cons n ns ih => simp [ih]
@[simp] theorem unsnap_hang (ns : List Snap) (s : State) : (unsnap ns s).hang = s.hang := by
  unfold unsnap; induction ns generalizing s with | nil => rfl | cons n ns ih => simp [ih]
@[simp] theorem unsnap_rung (ns : List Snap) (s : State) : (unsnap ns s).rung = s.rung := by
  unfold unsnap; induction ns generalizing s with | nil => rfl | cons n ns ih => simp [ih]
@[simp] theorem unsnap_dump (ns : List Snap) (s : State) : (unsnap ns s).dump = s.dump := by
  unfold unsnap; induction ns generalizing s with | nil => rfl | cons n ns ih => simp [ih]
@[simp] theorem unsnap_units (ns : List Snap) (s : State) : (unsnap ns s).units = s.units := by
  unfold unsnap; induction ns generalizing s with | nil => rfl | cons n ns ih => simp [ih]
@[simp] theorem unsnap_mems (ns : List Snap) (s : State) : (unsnap ns s).mems = s.mems := by
  unfold unsnap; induction ns generalizing s with | nil => rfl | cons n ns ih => simp [ih]
@[simp] theorem unsnap_repair (ns : List Snap) (s : State) : (unsnap ns s).repair = s.repair := by
  unfold unsnap; induction ns generalizing s with | nil => rfl | cons n ns ih => simp [ih]
@[simp] theorem unsnap_sup (ns : List Snap) (s : State) : (unsnap ns s).sup = s.sup := by
  unfold unsnap; induction ns generalizing s with | nil => rfl | cons n ns ih => simp [ih]
@[simp] theorem unsnap_fw (ns : List Snap) (s : State) : (unsnap ns s).fw = s.fw := by
  unfold unsnap; induction ns generalizing s with | nil => rfl | cons n ns ih => simp [ih]
@[simp] theorem unsnap_ret (ns : List Snap) (s : State) : (unsnap ns s).ret = s.ret := by
  unfold unsnap; induction ns generalizing s with | nil => rfl | cons n ns ih => simp [ih]
@[simp] theorem unsnap_i3c (ns : List Snap) (s : State) : (unsnap ns s).i3c = s.i3c := by
  unfold unsnap; induction ns generalizing s with | nil => rfl | cons n ns ih => simp [ih]
@[simp] theorem unsnap_pins (ns : List Snap) (s : State) : (unsnap ns s).pins = s.pins := by
  unfold unsnap; induction ns generalizing s with | nil => rfl | cons n ns ih => simp [ih]

/-! ### advanceReply -/

@[simp] theorem advanceReply_pending (r : HeldReply) (s : State) : (advanceReply r s).pending = s.pending := by
  simp [advanceReply]
@[simp] theorem advanceReply_freeCtr (r : HeldReply) (s : State) : (advanceReply r s).freeCtr = s.freeCtr := by
  simp [advanceReply]
@[simp] theorem advanceReply_cycle (r : HeldReply) (s : State) : (advanceReply r s).cycle = s.cycle := by
  simp [advanceReply]
@[simp] theorem advanceReply_tower (r : HeldReply) (s : State) : (advanceReply r s).tower = s.tower := by
  simp [advanceReply]
@[simp] theorem advanceReply_mem (r : HeldReply) (s : State) : (advanceReply r s).mem = s.mem := by
  simp [advanceReply]
@[simp] theorem advanceReply_tiers (r : HeldReply) (s : State) : (advanceReply r s).tiers = s.tiers := by
  simp [advanceReply]
@[simp] theorem advanceReply_arb (r : HeldReply) (s : State) : (advanceReply r s).arb = s.arb := by
  simp [advanceReply]
@[simp] theorem advanceReply_cmds (r : HeldReply) (s : State) : (advanceReply r s).cmds = s.cmds := by
  simp [advanceReply]
@[simp] theorem advanceReply_nextId (r : HeldReply) (s : State) : (advanceReply r s).nextId = s.nextId := by
  simp [advanceReply]
@[simp] theorem advanceReply_ctxs (r : HeldReply) (s : State) : (advanceReply r s).ctxs = s.ctxs := by
  simp [advanceReply]
@[simp] theorem advanceReply_valves (r : HeldReply) (s : State) : (advanceReply r s).valves = s.valves := by
  simp [advanceReply]
@[simp] theorem advanceReply_mods (r : HeldReply) (s : State) : (advanceReply r s).mods = s.mods := by
  simp [advanceReply]
@[simp] theorem advanceReply_slices (r : HeldReply) (s : State) : (advanceReply r s).slices = s.slices := by
  simp [advanceReply]
@[simp] theorem advanceReply_flushing (r : HeldReply) (s : State) : (advanceReply r s).flushing = s.flushing := by
  simp [advanceReply]
@[simp] theorem advanceReply_refills (r : HeldReply) (s : State) : (advanceReply r s).refills = s.refills := by
  simp [advanceReply]
@[simp] theorem advanceReply_waits (r : HeldReply) (s : State) : (advanceReply r s).waits = s.waits := by
  simp [advanceReply]
@[simp] theorem advanceReply_geom (r : HeldReply) (s : State) : (advanceReply r s).geom = s.geom := by
  simp [advanceReply]
@[simp] theorem advanceReply_lehr (r : HeldReply) (s : State) : (advanceReply r s).lehr = s.lehr := by
  simp [advanceReply]
@[simp] theorem advanceReply_drains (r : HeldReply) (s : State) : (advanceReply r s).drains = s.drains := by
  simp [advanceReply]
@[simp] theorem advanceReply_fetches (r : HeldReply) (s : State) : (advanceReply r s).fetches = s.fetches := by
  simp [advanceReply]
@[simp] theorem advanceReply_nextFetch (r : HeldReply) (s : State) : (advanceReply r s).nextFetch = s.nextFetch := by
  simp [advanceReply]
@[simp] theorem advanceReply_partials (r : HeldReply) (s : State) : (advanceReply r s).partials = s.partials := by
  simp [advanceReply]
@[simp] theorem advanceReply_nextPart (r : HeldReply) (s : State) : (advanceReply r s).nextPart = s.nextPart := by
  simp [advanceReply]
@[simp] theorem advanceReply_descs (r : HeldReply) (s : State) : (advanceReply r s).descs = s.descs := by
  simp [advanceReply]
@[simp] theorem advanceReply_place (r : HeldReply) (s : State) : (advanceReply r s).place = s.place := by
  simp [advanceReply]
@[simp] theorem advanceReply_remote (r : HeldReply) (s : State) : (advanceReply r s).remote = s.remote := by
  simp [advanceReply]
@[simp] theorem advanceReply_hang (r : HeldReply) (s : State) : (advanceReply r s).hang = s.hang := by
  simp [advanceReply]
@[simp] theorem advanceReply_rung (r : HeldReply) (s : State) : (advanceReply r s).rung = s.rung := by
  simp [advanceReply]
@[simp] theorem advanceReply_dump (r : HeldReply) (s : State) : (advanceReply r s).dump = s.dump := by
  simp [advanceReply]
@[simp] theorem advanceReply_units (r : HeldReply) (s : State) : (advanceReply r s).units = s.units := by
  simp [advanceReply]
@[simp] theorem advanceReply_mems (r : HeldReply) (s : State) : (advanceReply r s).mems = s.mems := by
  simp [advanceReply]
@[simp] theorem advanceReply_repair (r : HeldReply) (s : State) : (advanceReply r s).repair = s.repair := by
  simp [advanceReply]
@[simp] theorem advanceReply_sup (r : HeldReply) (s : State) : (advanceReply r s).sup = s.sup := by
  simp [advanceReply]
@[simp] theorem advanceReply_fw (r : HeldReply) (s : State) : (advanceReply r s).fw = s.fw := by
  simp [advanceReply]
@[simp] theorem advanceReply_ret (r : HeldReply) (s : State) : (advanceReply r s).ret = s.ret := by
  simp [advanceReply]
@[simp] theorem advanceReply_i3c (r : HeldReply) (s : State) : (advanceReply r s).i3c = s.i3c := by
  simp [advanceReply]
@[simp] theorem advanceReply_pins (r : HeldReply) (s : State) : (advanceReply r s).pins = s.pins := by
  simp [advanceReply]

/-! ### writeReply -/

@[simp] theorem writeReply_pending (r : HeldReply) (s : State) : (writeReply r s).pending = s.pending := by
  simp [writeReply]
@[simp] theorem writeReply_freeCtr (r : HeldReply) (s : State) : (writeReply r s).freeCtr = s.freeCtr := by
  simp [writeReply]
@[simp] theorem writeReply_cycle (r : HeldReply) (s : State) : (writeReply r s).cycle = s.cycle := by
  simp [writeReply]
@[simp] theorem writeReply_tower (r : HeldReply) (s : State) : (writeReply r s).tower = s.tower := by
  simp [writeReply]
@[simp] theorem writeReply_tiers (r : HeldReply) (s : State) : (writeReply r s).tiers = s.tiers := by
  simp [writeReply]
@[simp] theorem writeReply_arb (r : HeldReply) (s : State) : (writeReply r s).arb = s.arb := by
  simp [writeReply]
@[simp] theorem writeReply_cmds (r : HeldReply) (s : State) : (writeReply r s).cmds = s.cmds := by
  simp [writeReply]
@[simp] theorem writeReply_nextId (r : HeldReply) (s : State) : (writeReply r s).nextId = s.nextId := by
  simp [writeReply]
@[simp] theorem writeReply_ctxs (r : HeldReply) (s : State) : (writeReply r s).ctxs = s.ctxs := by
  simp [writeReply]
@[simp] theorem writeReply_valves (r : HeldReply) (s : State) : (writeReply r s).valves = s.valves := by
  simp [writeReply]
@[simp] theorem writeReply_mods (r : HeldReply) (s : State) : (writeReply r s).mods = s.mods := by
  simp [writeReply]
@[simp] theorem writeReply_slices (r : HeldReply) (s : State) : (writeReply r s).slices = s.slices := by
  simp [writeReply]
@[simp] theorem writeReply_flushing (r : HeldReply) (s : State) : (writeReply r s).flushing = s.flushing := by
  simp [writeReply]
@[simp] theorem writeReply_refills (r : HeldReply) (s : State) : (writeReply r s).refills = s.refills := by
  simp [writeReply]
@[simp] theorem writeReply_waits (r : HeldReply) (s : State) : (writeReply r s).waits = s.waits := by
  simp [writeReply]
@[simp] theorem writeReply_geom (r : HeldReply) (s : State) : (writeReply r s).geom = s.geom := by
  simp [writeReply]
@[simp] theorem writeReply_lehr (r : HeldReply) (s : State) : (writeReply r s).lehr = s.lehr := by
  simp [writeReply]
@[simp] theorem writeReply_drains (r : HeldReply) (s : State) : (writeReply r s).drains = s.drains := by
  simp [writeReply]
@[simp] theorem writeReply_fetches (r : HeldReply) (s : State) : (writeReply r s).fetches = s.fetches := by
  simp [writeReply]
@[simp] theorem writeReply_nextFetch (r : HeldReply) (s : State) : (writeReply r s).nextFetch = s.nextFetch := by
  simp [writeReply]
@[simp] theorem writeReply_partials (r : HeldReply) (s : State) : (writeReply r s).partials = s.partials := by
  simp [writeReply]
@[simp] theorem writeReply_nextPart (r : HeldReply) (s : State) : (writeReply r s).nextPart = s.nextPart := by
  simp [writeReply]
@[simp] theorem writeReply_descs (r : HeldReply) (s : State) : (writeReply r s).descs = s.descs := by
  simp [writeReply]
@[simp] theorem writeReply_place (r : HeldReply) (s : State) : (writeReply r s).place = s.place := by
  simp [writeReply]
@[simp] theorem writeReply_remote (r : HeldReply) (s : State) : (writeReply r s).remote = s.remote := by
  simp [writeReply]
@[simp] theorem writeReply_rung (r : HeldReply) (s : State) : (writeReply r s).rung = s.rung := by
  simp [writeReply]
@[simp] theorem writeReply_dump (r : HeldReply) (s : State) : (writeReply r s).dump = s.dump := by
  simp [writeReply]
@[simp] theorem writeReply_units (r : HeldReply) (s : State) : (writeReply r s).units = s.units := by
  simp [writeReply]
@[simp] theorem writeReply_mems (r : HeldReply) (s : State) : (writeReply r s).mems = s.mems := by
  simp [writeReply]
@[simp] theorem writeReply_repair (r : HeldReply) (s : State) : (writeReply r s).repair = s.repair := by
  simp [writeReply]
@[simp] theorem writeReply_sup (r : HeldReply) (s : State) : (writeReply r s).sup = s.sup := by
  simp [writeReply]
@[simp] theorem writeReply_fw (r : HeldReply) (s : State) : (writeReply r s).fw = s.fw := by
  simp [writeReply]
@[simp] theorem writeReply_ret (r : HeldReply) (s : State) : (writeReply r s).ret = s.ret := by
  simp [writeReply]
@[simp] theorem writeReply_i3c (r : HeldReply) (s : State) : (writeReply r s).i3c = s.i3c := by
  simp [writeReply]
@[simp] theorem writeReply_pins (r : HeldReply) (s : State) : (writeReply r s).pins = s.pins := by
  simp [writeReply]

/-! ### postReply -/

@[simp] theorem postReply_pending (r : HeldReply) (s : State) : (postReply r s).pending = s.pending := by
  unfold postReply; split <;> simp
@[simp] theorem postReply_freeCtr (r : HeldReply) (s : State) : (postReply r s).freeCtr = s.freeCtr := by
  unfold postReply; split <;> simp
@[simp] theorem postReply_cycle (r : HeldReply) (s : State) : (postReply r s).cycle = s.cycle := by
  unfold postReply; split <;> simp
@[simp] theorem postReply_tower (r : HeldReply) (s : State) : (postReply r s).tower = s.tower := by
  unfold postReply; split <;> simp
@[simp] theorem postReply_tiers (r : HeldReply) (s : State) : (postReply r s).tiers = s.tiers := by
  unfold postReply; split <;> simp
@[simp] theorem postReply_arb (r : HeldReply) (s : State) : (postReply r s).arb = s.arb := by
  unfold postReply; split <;> simp
@[simp] theorem postReply_cmds (r : HeldReply) (s : State) : (postReply r s).cmds = s.cmds := by
  unfold postReply; split <;> simp
@[simp] theorem postReply_nextId (r : HeldReply) (s : State) : (postReply r s).nextId = s.nextId := by
  unfold postReply; split <;> simp
@[simp] theorem postReply_ctxs (r : HeldReply) (s : State) : (postReply r s).ctxs = s.ctxs := by
  unfold postReply; split <;> simp
@[simp] theorem postReply_valves (r : HeldReply) (s : State) : (postReply r s).valves = s.valves := by
  unfold postReply; split <;> simp
@[simp] theorem postReply_mods (r : HeldReply) (s : State) : (postReply r s).mods = s.mods := by
  unfold postReply; split <;> simp
@[simp] theorem postReply_slices (r : HeldReply) (s : State) : (postReply r s).slices = s.slices := by
  unfold postReply; split <;> simp
@[simp] theorem postReply_flushing (r : HeldReply) (s : State) : (postReply r s).flushing = s.flushing := by
  unfold postReply; split <;> simp
@[simp] theorem postReply_refills (r : HeldReply) (s : State) : (postReply r s).refills = s.refills := by
  unfold postReply; split <;> simp
@[simp] theorem postReply_waits (r : HeldReply) (s : State) : (postReply r s).waits = s.waits := by
  unfold postReply; split <;> simp
@[simp] theorem postReply_geom (r : HeldReply) (s : State) : (postReply r s).geom = s.geom := by
  unfold postReply; split <;> simp
@[simp] theorem postReply_lehr (r : HeldReply) (s : State) : (postReply r s).lehr = s.lehr := by
  unfold postReply; split <;> simp
@[simp] theorem postReply_drains (r : HeldReply) (s : State) : (postReply r s).drains = s.drains := by
  unfold postReply; split <;> simp
@[simp] theorem postReply_fetches (r : HeldReply) (s : State) : (postReply r s).fetches = s.fetches := by
  unfold postReply; split <;> simp
@[simp] theorem postReply_nextFetch (r : HeldReply) (s : State) : (postReply r s).nextFetch = s.nextFetch := by
  unfold postReply; split <;> simp
@[simp] theorem postReply_partials (r : HeldReply) (s : State) : (postReply r s).partials = s.partials := by
  unfold postReply; split <;> simp
@[simp] theorem postReply_nextPart (r : HeldReply) (s : State) : (postReply r s).nextPart = s.nextPart := by
  unfold postReply; split <;> simp
@[simp] theorem postReply_descs (r : HeldReply) (s : State) : (postReply r s).descs = s.descs := by
  unfold postReply; split <;> simp
@[simp] theorem postReply_place (r : HeldReply) (s : State) : (postReply r s).place = s.place := by
  unfold postReply; split <;> simp
@[simp] theorem postReply_remote (r : HeldReply) (s : State) : (postReply r s).remote = s.remote := by
  unfold postReply; split <;> simp
@[simp] theorem postReply_rung (r : HeldReply) (s : State) : (postReply r s).rung = s.rung := by
  unfold postReply; split <;> simp
@[simp] theorem postReply_dump (r : HeldReply) (s : State) : (postReply r s).dump = s.dump := by
  unfold postReply; split <;> simp
@[simp] theorem postReply_units (r : HeldReply) (s : State) : (postReply r s).units = s.units := by
  unfold postReply; split <;> simp
@[simp] theorem postReply_mems (r : HeldReply) (s : State) : (postReply r s).mems = s.mems := by
  unfold postReply; split <;> simp
@[simp] theorem postReply_repair (r : HeldReply) (s : State) : (postReply r s).repair = s.repair := by
  unfold postReply; split <;> simp
@[simp] theorem postReply_sup (r : HeldReply) (s : State) : (postReply r s).sup = s.sup := by
  unfold postReply; split <;> simp
@[simp] theorem postReply_fw (r : HeldReply) (s : State) : (postReply r s).fw = s.fw := by
  unfold postReply; split <;> simp
@[simp] theorem postReply_ret (r : HeldReply) (s : State) : (postReply r s).ret = s.ret := by
  unfold postReply; split <;> simp
@[simp] theorem postReply_i3c (r : HeldReply) (s : State) : (postReply r s).i3c = s.i3c := by
  unfold postReply; split <;> simp
@[simp] theorem postReply_pins (r : HeldReply) (s : State) : (postReply r s).pins = s.pins := by
  unfold postReply; split <;> simp

/-! ### settleQueue -/

@[simp] theorem settleQueue_pending (q : Nat) (s : State) : (settleQueue q s).pending = s.pending := by
  unfold settleQueue; dsimp only; split <;> simp
@[simp] theorem settleQueue_freeCtr (q : Nat) (s : State) : (settleQueue q s).freeCtr = s.freeCtr := by
  unfold settleQueue; dsimp only; split <;> simp
@[simp] theorem settleQueue_sent (q : Nat) (s : State) : (settleQueue q s).sent = s.sent := by
  unfold settleQueue; dsimp only; split <;> simp
@[simp] theorem settleQueue_cycle (q : Nat) (s : State) : (settleQueue q s).cycle = s.cycle := by
  unfold settleQueue; dsimp only; split <;> simp
@[simp] theorem settleQueue_bus (q : Nat) (s : State) : (settleQueue q s).bus = s.bus := by
  unfold settleQueue; dsimp only; split <;> simp
@[simp] theorem settleQueue_tower (q : Nat) (s : State) : (settleQueue q s).tower = s.tower := by
  unfold settleQueue; dsimp only; split <;> simp
@[simp] theorem settleQueue_regs (q : Nat) (s : State) : (settleQueue q s).regs = s.regs := by
  unfold settleQueue; dsimp only; split <;> simp
@[simp] theorem settleQueue_mem (q : Nat) (s : State) : (settleQueue q s).mem = s.mem := by
  unfold settleQueue; dsimp only; split <;> simp
@[simp] theorem settleQueue_tiers (q : Nat) (s : State) : (settleQueue q s).tiers = s.tiers := by
  unfold settleQueue; dsimp only; split <;> simp
@[simp] theorem settleQueue_arb (q : Nat) (s : State) : (settleQueue q s).arb = s.arb := by
  unfold settleQueue; dsimp only; split <;> simp
@[simp] theorem settleQueue_cmds (q : Nat) (s : State) : (settleQueue q s).cmds = s.cmds := by
  unfold settleQueue; dsimp only; split <;> simp
@[simp] theorem settleQueue_nextId (q : Nat) (s : State) : (settleQueue q s).nextId = s.nextId := by
  unfold settleQueue; dsimp only; split <;> simp
@[simp] theorem settleQueue_ctxs (q : Nat) (s : State) : (settleQueue q s).ctxs = s.ctxs := by
  unfold settleQueue; dsimp only; split <;> simp
@[simp] theorem settleQueue_valves (q : Nat) (s : State) : (settleQueue q s).valves = s.valves := by
  unfold settleQueue; dsimp only; split <;> simp
@[simp] theorem settleQueue_mods (q : Nat) (s : State) : (settleQueue q s).mods = s.mods := by
  unfold settleQueue; dsimp only; split <;> simp
@[simp] theorem settleQueue_tables (q : Nat) (s : State) : (settleQueue q s).tables = s.tables := by
  unfold settleQueue; dsimp only; split <;> simp
@[simp] theorem settleQueue_slices (q : Nat) (s : State) : (settleQueue q s).slices = s.slices := by
  unfold settleQueue; dsimp only; split <;> simp
@[simp] theorem settleQueue_flushing (q : Nat) (s : State) : (settleQueue q s).flushing = s.flushing := by
  unfold settleQueue; dsimp only; split <;> simp
@[simp] theorem settleQueue_refills (q : Nat) (s : State) : (settleQueue q s).refills = s.refills := by
  unfold settleQueue; dsimp only; split <;> simp
@[simp] theorem settleQueue_waits (q : Nat) (s : State) : (settleQueue q s).waits = s.waits := by
  unfold settleQueue; dsimp only; split <;> simp
@[simp] theorem settleQueue_geom (q : Nat) (s : State) : (settleQueue q s).geom = s.geom := by
  unfold settleQueue; dsimp only; split <;> simp
@[simp] theorem settleQueue_lehr (q : Nat) (s : State) : (settleQueue q s).lehr = s.lehr := by
  unfold settleQueue; dsimp only; split <;> simp
@[simp] theorem settleQueue_drains (q : Nat) (s : State) : (settleQueue q s).drains = s.drains := by
  unfold settleQueue; dsimp only; split <;> simp
@[simp] theorem settleQueue_fetches (q : Nat) (s : State) : (settleQueue q s).fetches = s.fetches := by
  unfold settleQueue; dsimp only; split <;> simp
@[simp] theorem settleQueue_nextFetch (q : Nat) (s : State) : (settleQueue q s).nextFetch = s.nextFetch := by
  unfold settleQueue; dsimp only; split <;> simp
@[simp] theorem settleQueue_partials (q : Nat) (s : State) : (settleQueue q s).partials = s.partials := by
  unfold settleQueue; dsimp only; split <;> simp
@[simp] theorem settleQueue_nextPart (q : Nat) (s : State) : (settleQueue q s).nextPart = s.nextPart := by
  unfold settleQueue; dsimp only; split <;> simp
@[simp] theorem settleQueue_descs (q : Nat) (s : State) : (settleQueue q s).descs = s.descs := by
  unfold settleQueue; dsimp only; split <;> simp
@[simp] theorem settleQueue_host (q : Nat) (s : State) : (settleQueue q s).host = s.host := by
  unfold settleQueue; dsimp only; split <;> simp
@[simp] theorem settleQueue_place (q : Nat) (s : State) : (settleQueue q s).place = s.place := by
  unfold settleQueue; dsimp only; split <;> simp
@[simp] theorem settleQueue_remote (q : Nat) (s : State) : (settleQueue q s).remote = s.remote := by
  unfold settleQueue; dsimp only; split <;> simp
@[simp] theorem settleQueue_errs (q : Nat) (s : State) : (settleQueue q s).errs = s.errs := by
  unfold settleQueue; dsimp only; split <;> simp
@[simp] theorem settleQueue_hang (q : Nat) (s : State) : (settleQueue q s).hang = s.hang := by
  unfold settleQueue; dsimp only; split <;> simp
@[simp] theorem settleQueue_rung (q : Nat) (s : State) : (settleQueue q s).rung = s.rung := by
  unfold settleQueue; dsimp only; split <;> simp
@[simp] theorem settleQueue_dump (q : Nat) (s : State) : (settleQueue q s).dump = s.dump := by
  unfold settleQueue; dsimp only; split <;> simp
@[simp] theorem settleQueue_units (q : Nat) (s : State) : (settleQueue q s).units = s.units := by
  unfold settleQueue; dsimp only; split <;> simp
@[simp] theorem settleQueue_mems (q : Nat) (s : State) : (settleQueue q s).mems = s.mems := by
  unfold settleQueue; dsimp only; split <;> simp
@[simp] theorem settleQueue_repair (q : Nat) (s : State) : (settleQueue q s).repair = s.repair := by
  unfold settleQueue; dsimp only; split <;> simp
@[simp] theorem settleQueue_sup (q : Nat) (s : State) : (settleQueue q s).sup = s.sup := by
  unfold settleQueue; dsimp only; split <;> simp
@[simp] theorem settleQueue_fw (q : Nat) (s : State) : (settleQueue q s).fw = s.fw := by
  unfold settleQueue; dsimp only; split <;> simp
@[simp] theorem settleQueue_ret (q : Nat) (s : State) : (settleQueue q s).ret = s.ret := by
  unfold settleQueue; dsimp only; split <;> simp
@[simp] theorem settleQueue_i3c (q : Nat) (s : State) : (settleQueue q s).i3c = s.i3c := by
  unfold settleQueue; dsimp only; split <;> simp
@[simp] theorem settleQueue_pins (q : Nat) (s : State) : (settleQueue q s).pins = s.pins := by
  unfold settleQueue; dsimp only; split <;> simp

/-! ### dropCmd -/

@[simp] theorem dropCmd_pending (c : Cmd) (s : State) : (dropCmd c s).pending = s.pending := by
  simp [dropCmd]
@[simp] theorem dropCmd_freeCtr (c : Cmd) (s : State) : (dropCmd c s).freeCtr = s.freeCtr := by
  simp [dropCmd]
@[simp] theorem dropCmd_sent (c : Cmd) (s : State) : (dropCmd c s).sent = s.sent := by
  simp [dropCmd]
@[simp] theorem dropCmd_cycle (c : Cmd) (s : State) : (dropCmd c s).cycle = s.cycle := by
  simp [dropCmd]
@[simp] theorem dropCmd_bus (c : Cmd) (s : State) : (dropCmd c s).bus = s.bus := by
  simp [dropCmd]
@[simp] theorem dropCmd_tower (c : Cmd) (s : State) : (dropCmd c s).tower = s.tower := by
  simp [dropCmd]
@[simp] theorem dropCmd_regs (c : Cmd) (s : State) : (dropCmd c s).regs = s.regs := by
  simp [dropCmd]
@[simp] theorem dropCmd_mem (c : Cmd) (s : State) : (dropCmd c s).mem = s.mem := by
  simp [dropCmd]
@[simp] theorem dropCmd_tiers (c : Cmd) (s : State) : (dropCmd c s).tiers = s.tiers := by
  simp [dropCmd]
@[simp] theorem dropCmd_queues (c : Cmd) (s : State) : (dropCmd c s).queues = s.queues := by
  simp [dropCmd]
@[simp] theorem dropCmd_arb (c : Cmd) (s : State) : (dropCmd c s).arb = s.arb := by
  simp [dropCmd]
@[simp] theorem dropCmd_nextId (c : Cmd) (s : State) : (dropCmd c s).nextId = s.nextId := by
  simp [dropCmd]
@[simp] theorem dropCmd_ctxs (c : Cmd) (s : State) : (dropCmd c s).ctxs = s.ctxs := by
  simp [dropCmd]
@[simp] theorem dropCmd_valves (c : Cmd) (s : State) : (dropCmd c s).valves = s.valves := by
  simp [dropCmd]
@[simp] theorem dropCmd_mods (c : Cmd) (s : State) : (dropCmd c s).mods = s.mods := by
  simp [dropCmd]
@[simp] theorem dropCmd_tables (c : Cmd) (s : State) : (dropCmd c s).tables = s.tables := by
  simp [dropCmd]
@[simp] theorem dropCmd_slices (c : Cmd) (s : State) : (dropCmd c s).slices = s.slices := by
  simp [dropCmd]
@[simp] theorem dropCmd_flushing (c : Cmd) (s : State) : (dropCmd c s).flushing = s.flushing := by
  simp [dropCmd]
@[simp] theorem dropCmd_refills (c : Cmd) (s : State) : (dropCmd c s).refills = s.refills := by
  simp [dropCmd]
@[simp] theorem dropCmd_waits (c : Cmd) (s : State) : (dropCmd c s).waits = s.waits := by
  simp [dropCmd]
@[simp] theorem dropCmd_geom (c : Cmd) (s : State) : (dropCmd c s).geom = s.geom := by
  simp [dropCmd]
@[simp] theorem dropCmd_lehr (c : Cmd) (s : State) : (dropCmd c s).lehr = s.lehr := by
  simp [dropCmd]
@[simp] theorem dropCmd_drains (c : Cmd) (s : State) : (dropCmd c s).drains = s.drains := by
  simp [dropCmd]
@[simp] theorem dropCmd_fetches (c : Cmd) (s : State) : (dropCmd c s).fetches = s.fetches := by
  simp [dropCmd]
@[simp] theorem dropCmd_nextFetch (c : Cmd) (s : State) : (dropCmd c s).nextFetch = s.nextFetch := by
  simp [dropCmd]
@[simp] theorem dropCmd_partials (c : Cmd) (s : State) : (dropCmd c s).partials = s.partials := by
  simp [dropCmd]
@[simp] theorem dropCmd_nextPart (c : Cmd) (s : State) : (dropCmd c s).nextPart = s.nextPart := by
  simp [dropCmd]
@[simp] theorem dropCmd_descs (c : Cmd) (s : State) : (dropCmd c s).descs = s.descs := by
  simp [dropCmd]
@[simp] theorem dropCmd_host (c : Cmd) (s : State) : (dropCmd c s).host = s.host := by
  simp [dropCmd]
@[simp] theorem dropCmd_place (c : Cmd) (s : State) : (dropCmd c s).place = s.place := by
  simp [dropCmd]
@[simp] theorem dropCmd_remote (c : Cmd) (s : State) : (dropCmd c s).remote = s.remote := by
  simp [dropCmd]
@[simp] theorem dropCmd_errs (c : Cmd) (s : State) : (dropCmd c s).errs = s.errs := by
  simp [dropCmd]
@[simp] theorem dropCmd_hang (c : Cmd) (s : State) : (dropCmd c s).hang = s.hang := by
  simp [dropCmd]
@[simp] theorem dropCmd_rung (c : Cmd) (s : State) : (dropCmd c s).rung = s.rung := by
  simp [dropCmd]
@[simp] theorem dropCmd_dump (c : Cmd) (s : State) : (dropCmd c s).dump = s.dump := by
  simp [dropCmd]
@[simp] theorem dropCmd_units (c : Cmd) (s : State) : (dropCmd c s).units = s.units := by
  simp [dropCmd]
@[simp] theorem dropCmd_mems (c : Cmd) (s : State) : (dropCmd c s).mems = s.mems := by
  simp [dropCmd]
@[simp] theorem dropCmd_repair (c : Cmd) (s : State) : (dropCmd c s).repair = s.repair := by
  simp [dropCmd]
@[simp] theorem dropCmd_sup (c : Cmd) (s : State) : (dropCmd c s).sup = s.sup := by
  simp [dropCmd]
@[simp] theorem dropCmd_fw (c : Cmd) (s : State) : (dropCmd c s).fw = s.fw := by
  simp [dropCmd]
@[simp] theorem dropCmd_ret (c : Cmd) (s : State) : (dropCmd c s).ret = s.ret := by
  simp [dropCmd]
@[simp] theorem dropCmd_i3c (c : Cmd) (s : State) : (dropCmd c s).i3c = s.i3c := by
  simp [dropCmd]
@[simp] theorem dropCmd_pins (c : Cmd) (s : State) : (dropCmd c s).pins = s.pins := by
  simp [dropCmd]

/-! ### writeFlag -/

@[simp] theorem writeFlag_pending (c : Cmd) (st : St) (s : State) : (writeFlag c st s).pending = s.pending := by
  unfold writeFlag; split <;> simp
@[simp] theorem writeFlag_freeCtr (c : Cmd) (st : St) (s : State) : (writeFlag c st s).freeCtr = s.freeCtr := by
  unfold writeFlag; split <;> simp
@[simp] theorem writeFlag_sent (c : Cmd) (st : St) (s : State) : (writeFlag c st s).sent = s.sent := by
  unfold writeFlag; split <;> simp
@[simp] theorem writeFlag_cycle (c : Cmd) (st : St) (s : State) : (writeFlag c st s).cycle = s.cycle := by
  unfold writeFlag; split <;> simp
@[simp] theorem writeFlag_bus (c : Cmd) (st : St) (s : State) : (writeFlag c st s).bus = s.bus := by
  unfold writeFlag; split <;> simp
@[simp] theorem writeFlag_tower (c : Cmd) (st : St) (s : State) : (writeFlag c st s).tower = s.tower := by
  unfold writeFlag; split <;> simp
@[simp] theorem writeFlag_regs (c : Cmd) (st : St) (s : State) : (writeFlag c st s).regs = s.regs := by
  unfold writeFlag; split <;> simp
@[simp] theorem writeFlag_tiers (c : Cmd) (st : St) (s : State) : (writeFlag c st s).tiers = s.tiers := by
  unfold writeFlag; split <;> simp
@[simp] theorem writeFlag_queues (c : Cmd) (st : St) (s : State) : (writeFlag c st s).queues = s.queues := by
  unfold writeFlag; split <;> simp
@[simp] theorem writeFlag_arb (c : Cmd) (st : St) (s : State) : (writeFlag c st s).arb = s.arb := by
  unfold writeFlag; split <;> simp
@[simp] theorem writeFlag_cmds (c : Cmd) (st : St) (s : State) : (writeFlag c st s).cmds = s.cmds := by
  unfold writeFlag; split <;> simp
@[simp] theorem writeFlag_nextId (c : Cmd) (st : St) (s : State) : (writeFlag c st s).nextId = s.nextId := by
  unfold writeFlag; split <;> simp
@[simp] theorem writeFlag_ctxs (c : Cmd) (st : St) (s : State) : (writeFlag c st s).ctxs = s.ctxs := by
  unfold writeFlag; split <;> simp
@[simp] theorem writeFlag_valves (c : Cmd) (st : St) (s : State) : (writeFlag c st s).valves = s.valves := by
  unfold writeFlag; split <;> simp
@[simp] theorem writeFlag_mods (c : Cmd) (st : St) (s : State) : (writeFlag c st s).mods = s.mods := by
  unfold writeFlag; split <;> simp
@[simp] theorem writeFlag_tables (c : Cmd) (st : St) (s : State) : (writeFlag c st s).tables = s.tables := by
  unfold writeFlag; split <;> simp
@[simp] theorem writeFlag_slices (c : Cmd) (st : St) (s : State) : (writeFlag c st s).slices = s.slices := by
  unfold writeFlag; split <;> simp
@[simp] theorem writeFlag_flushing (c : Cmd) (st : St) (s : State) : (writeFlag c st s).flushing = s.flushing := by
  unfold writeFlag; split <;> simp
@[simp] theorem writeFlag_refills (c : Cmd) (st : St) (s : State) : (writeFlag c st s).refills = s.refills := by
  unfold writeFlag; split <;> simp
@[simp] theorem writeFlag_waits (c : Cmd) (st : St) (s : State) : (writeFlag c st s).waits = s.waits := by
  unfold writeFlag; split <;> simp
@[simp] theorem writeFlag_geom (c : Cmd) (st : St) (s : State) : (writeFlag c st s).geom = s.geom := by
  unfold writeFlag; split <;> simp
@[simp] theorem writeFlag_lehr (c : Cmd) (st : St) (s : State) : (writeFlag c st s).lehr = s.lehr := by
  unfold writeFlag; split <;> simp
@[simp] theorem writeFlag_drains (c : Cmd) (st : St) (s : State) : (writeFlag c st s).drains = s.drains := by
  unfold writeFlag; split <;> simp
@[simp] theorem writeFlag_fetches (c : Cmd) (st : St) (s : State) : (writeFlag c st s).fetches = s.fetches := by
  unfold writeFlag; split <;> simp
@[simp] theorem writeFlag_nextFetch (c : Cmd) (st : St) (s : State) : (writeFlag c st s).nextFetch = s.nextFetch := by
  unfold writeFlag; split <;> simp
@[simp] theorem writeFlag_partials (c : Cmd) (st : St) (s : State) : (writeFlag c st s).partials = s.partials := by
  unfold writeFlag; split <;> simp
@[simp] theorem writeFlag_nextPart (c : Cmd) (st : St) (s : State) : (writeFlag c st s).nextPart = s.nextPart := by
  unfold writeFlag; split <;> simp
@[simp] theorem writeFlag_descs (c : Cmd) (st : St) (s : State) : (writeFlag c st s).descs = s.descs := by
  unfold writeFlag; split <;> simp
@[simp] theorem writeFlag_host (c : Cmd) (st : St) (s : State) : (writeFlag c st s).host = s.host := by
  unfold writeFlag; split <;> simp
@[simp] theorem writeFlag_place (c : Cmd) (st : St) (s : State) : (writeFlag c st s).place = s.place := by
  unfold writeFlag; split <;> simp
@[simp] theorem writeFlag_remote (c : Cmd) (st : St) (s : State) : (writeFlag c st s).remote = s.remote := by
  unfold writeFlag; split <;> simp
@[simp] theorem writeFlag_errs (c : Cmd) (st : St) (s : State) : (writeFlag c st s).errs = s.errs := by
  unfold writeFlag; split <;> simp
@[simp] theorem writeFlag_hang (c : Cmd) (st : St) (s : State) : (writeFlag c st s).hang = s.hang := by
  unfold writeFlag; split <;> simp
@[simp] theorem writeFlag_rung (c : Cmd) (st : St) (s : State) : (writeFlag c st s).rung = s.rung := by
  unfold writeFlag; split <;> simp
@[simp] theorem writeFlag_dump (c : Cmd) (st : St) (s : State) : (writeFlag c st s).dump = s.dump := by
  unfold writeFlag; split <;> simp
@[simp] theorem writeFlag_units (c : Cmd) (st : St) (s : State) : (writeFlag c st s).units = s.units := by
  unfold writeFlag; split <;> simp
@[simp] theorem writeFlag_mems (c : Cmd) (st : St) (s : State) : (writeFlag c st s).mems = s.mems := by
  unfold writeFlag; split <;> simp
@[simp] theorem writeFlag_repair (c : Cmd) (st : St) (s : State) : (writeFlag c st s).repair = s.repair := by
  unfold writeFlag; split <;> simp
@[simp] theorem writeFlag_sup (c : Cmd) (st : St) (s : State) : (writeFlag c st s).sup = s.sup := by
  unfold writeFlag; split <;> simp
@[simp] theorem writeFlag_fw (c : Cmd) (st : St) (s : State) : (writeFlag c st s).fw = s.fw := by
  unfold writeFlag; split <;> simp
@[simp] theorem writeFlag_ret (c : Cmd) (st : St) (s : State) : (writeFlag c st s).ret = s.ret := by
  unfold writeFlag; split <;> simp
@[simp] theorem writeFlag_i3c (c : Cmd) (st : St) (s : State) : (writeFlag c st s).i3c = s.i3c := by
  unfold writeFlag; split <;> simp
@[simp] theorem writeFlag_pins (c : Cmd) (st : St) (s : State) : (writeFlag c st s).pins = s.pins := by
  unfold writeFlag; split <;> simp

/-! ### postValve -/

@[simp] theorem postValve_pending (c : Cmd) (s : State) : (postValve c s).pending = s.pending := by
  unfold postValve; split <;> simp
@[simp] theorem postValve_freeCtr (c : Cmd) (s : State) : (postValve c s).freeCtr = s.freeCtr := by
  unfold postValve; split <;> simp
@[simp] theorem postValve_cycle (c : Cmd) (s : State) : (postValve c s).cycle = s.cycle := by
  unfold postValve; split <;> simp
@[simp] theorem postValve_tower (c : Cmd) (s : State) : (postValve c s).tower = s.tower := by
  unfold postValve; split <;> simp
@[simp] theorem postValve_mem (c : Cmd) (s : State) : (postValve c s).mem = s.mem := by
  unfold postValve; split <;> simp
@[simp] theorem postValve_tiers (c : Cmd) (s : State) : (postValve c s).tiers = s.tiers := by
  unfold postValve; split <;> simp
@[simp] theorem postValve_queues (c : Cmd) (s : State) : (postValve c s).queues = s.queues := by
  unfold postValve; split <;> simp
@[simp] theorem postValve_arb (c : Cmd) (s : State) : (postValve c s).arb = s.arb := by
  unfold postValve; split <;> simp
@[simp] theorem postValve_cmds (c : Cmd) (s : State) : (postValve c s).cmds = s.cmds := by
  unfold postValve; split <;> simp
@[simp] theorem postValve_nextId (c : Cmd) (s : State) : (postValve c s).nextId = s.nextId := by
  unfold postValve; split <;> simp
@[simp] theorem postValve_ctxs (c : Cmd) (s : State) : (postValve c s).ctxs = s.ctxs := by
  unfold postValve; split <;> simp
@[simp] theorem postValve_tables (c : Cmd) (s : State) : (postValve c s).tables = s.tables := by
  unfold postValve; split <;> simp
@[simp] theorem postValve_slices (c : Cmd) (s : State) : (postValve c s).slices = s.slices := by
  unfold postValve; split <;> simp
@[simp] theorem postValve_flushing (c : Cmd) (s : State) : (postValve c s).flushing = s.flushing := by
  unfold postValve; split <;> simp
@[simp] theorem postValve_refills (c : Cmd) (s : State) : (postValve c s).refills = s.refills := by
  unfold postValve; split <;> simp
@[simp] theorem postValve_waits (c : Cmd) (s : State) : (postValve c s).waits = s.waits := by
  unfold postValve; split <;> simp
@[simp] theorem postValve_geom (c : Cmd) (s : State) : (postValve c s).geom = s.geom := by
  unfold postValve; split <;> simp
@[simp] theorem postValve_lehr (c : Cmd) (s : State) : (postValve c s).lehr = s.lehr := by
  unfold postValve; split <;> simp
@[simp] theorem postValve_drains (c : Cmd) (s : State) : (postValve c s).drains = s.drains := by
  unfold postValve; split <;> simp
@[simp] theorem postValve_fetches (c : Cmd) (s : State) : (postValve c s).fetches = s.fetches := by
  unfold postValve; split <;> simp
@[simp] theorem postValve_nextFetch (c : Cmd) (s : State) : (postValve c s).nextFetch = s.nextFetch := by
  unfold postValve; split <;> simp
@[simp] theorem postValve_partials (c : Cmd) (s : State) : (postValve c s).partials = s.partials := by
  unfold postValve; split <;> simp
@[simp] theorem postValve_nextPart (c : Cmd) (s : State) : (postValve c s).nextPart = s.nextPart := by
  unfold postValve; split <;> simp
@[simp] theorem postValve_descs (c : Cmd) (s : State) : (postValve c s).descs = s.descs := by
  unfold postValve; split <;> simp
@[simp] theorem postValve_place (c : Cmd) (s : State) : (postValve c s).place = s.place := by
  unfold postValve; split <;> simp
@[simp] theorem postValve_remote (c : Cmd) (s : State) : (postValve c s).remote = s.remote := by
  unfold postValve; split <;> simp
@[simp] theorem postValve_hang (c : Cmd) (s : State) : (postValve c s).hang = s.hang := by
  unfold postValve; split <;> simp
@[simp] theorem postValve_rung (c : Cmd) (s : State) : (postValve c s).rung = s.rung := by
  unfold postValve; split <;> simp
@[simp] theorem postValve_dump (c : Cmd) (s : State) : (postValve c s).dump = s.dump := by
  unfold postValve; split <;> simp
@[simp] theorem postValve_units (c : Cmd) (s : State) : (postValve c s).units = s.units := by
  unfold postValve; split <;> simp
@[simp] theorem postValve_mems (c : Cmd) (s : State) : (postValve c s).mems = s.mems := by
  unfold postValve; split <;> simp
@[simp] theorem postValve_repair (c : Cmd) (s : State) : (postValve c s).repair = s.repair := by
  unfold postValve; split <;> simp
@[simp] theorem postValve_sup (c : Cmd) (s : State) : (postValve c s).sup = s.sup := by
  unfold postValve; split <;> simp
@[simp] theorem postValve_fw (c : Cmd) (s : State) : (postValve c s).fw = s.fw := by
  unfold postValve; split <;> simp
@[simp] theorem postValve_ret (c : Cmd) (s : State) : (postValve c s).ret = s.ret := by
  unfold postValve; split <;> simp
@[simp] theorem postValve_i3c (c : Cmd) (s : State) : (postValve c s).i3c = s.i3c := by
  unfold postValve; split <;> simp
@[simp] theorem postValve_pins (c : Cmd) (s : State) : (postValve c s).pins = s.pins := by
  unfold postValve; split <;> simp

/-! ### complete -/

@[simp] theorem complete_pending (c : Cmd) (st : St) (d0 d1 : Nat) (flag : Bool) (s : State) : (complete c st d0 d1 flag s).pending = s.pending := by
  unfold complete; dsimp only; split <;> simp
@[simp] theorem complete_freeCtr (c : Cmd) (st : St) (d0 d1 : Nat) (flag : Bool) (s : State) : (complete c st d0 d1 flag s).freeCtr = s.freeCtr := by
  unfold complete; dsimp only; split <;> simp
@[simp] theorem complete_cycle (c : Cmd) (st : St) (d0 d1 : Nat) (flag : Bool) (s : State) : (complete c st d0 d1 flag s).cycle = s.cycle := by
  unfold complete; dsimp only; split <;> simp
@[simp] theorem complete_tower (c : Cmd) (st : St) (d0 d1 : Nat) (flag : Bool) (s : State) : (complete c st d0 d1 flag s).tower = s.tower := by
  unfold complete; dsimp only; split <;> simp
@[simp] theorem complete_tiers (c : Cmd) (st : St) (d0 d1 : Nat) (flag : Bool) (s : State) : (complete c st d0 d1 flag s).tiers = s.tiers := by
  unfold complete; dsimp only; split <;> simp
@[simp] theorem complete_arb (c : Cmd) (st : St) (d0 d1 : Nat) (flag : Bool) (s : State) : (complete c st d0 d1 flag s).arb = s.arb := by
  unfold complete; dsimp only; split <;> simp
@[simp] theorem complete_nextId (c : Cmd) (st : St) (d0 d1 : Nat) (flag : Bool) (s : State) : (complete c st d0 d1 flag s).nextId = s.nextId := by
  unfold complete; dsimp only; split <;> simp
@[simp] theorem complete_ctxs (c : Cmd) (st : St) (d0 d1 : Nat) (flag : Bool) (s : State) : (complete c st d0 d1 flag s).ctxs = s.ctxs := by
  unfold complete; dsimp only; split <;> simp
@[simp] theorem complete_slices (c : Cmd) (st : St) (d0 d1 : Nat) (flag : Bool) (s : State) : (complete c st d0 d1 flag s).slices = s.slices := by
  unfold complete; dsimp only; split <;> simp
@[simp] theorem complete_flushing (c : Cmd) (st : St) (d0 d1 : Nat) (flag : Bool) (s : State) : (complete c st d0 d1 flag s).flushing = s.flushing := by
  unfold complete; dsimp only; split <;> simp
@[simp] theorem complete_refills (c : Cmd) (st : St) (d0 d1 : Nat) (flag : Bool) (s : State) : (complete c st d0 d1 flag s).refills = s.refills := by
  unfold complete; dsimp only; split <;> simp
@[simp] theorem complete_waits (c : Cmd) (st : St) (d0 d1 : Nat) (flag : Bool) (s : State) : (complete c st d0 d1 flag s).waits = s.waits := by
  unfold complete; dsimp only; split <;> simp
@[simp] theorem complete_geom (c : Cmd) (st : St) (d0 d1 : Nat) (flag : Bool) (s : State) : (complete c st d0 d1 flag s).geom = s.geom := by
  unfold complete; dsimp only; split <;> simp
@[simp] theorem complete_lehr (c : Cmd) (st : St) (d0 d1 : Nat) (flag : Bool) (s : State) : (complete c st d0 d1 flag s).lehr = s.lehr := by
  unfold complete; dsimp only; split <;> simp
@[simp] theorem complete_drains (c : Cmd) (st : St) (d0 d1 : Nat) (flag : Bool) (s : State) : (complete c st d0 d1 flag s).drains = s.drains := by
  unfold complete; dsimp only; split <;> simp
@[simp] theorem complete_fetches (c : Cmd) (st : St) (d0 d1 : Nat) (flag : Bool) (s : State) : (complete c st d0 d1 flag s).fetches = s.fetches := by
  unfold complete; dsimp only; split <;> simp
@[simp] theorem complete_nextFetch (c : Cmd) (st : St) (d0 d1 : Nat) (flag : Bool) (s : State) : (complete c st d0 d1 flag s).nextFetch = s.nextFetch := by
  unfold complete; dsimp only; split <;> simp
@[simp] theorem complete_partials (c : Cmd) (st : St) (d0 d1 : Nat) (flag : Bool) (s : State) : (complete c st d0 d1 flag s).partials = s.partials := by
  unfold complete; dsimp only; split <;> simp
@[simp] theorem complete_nextPart (c : Cmd) (st : St) (d0 d1 : Nat) (flag : Bool) (s : State) : (complete c st d0 d1 flag s).nextPart = s.nextPart := by
  unfold complete; dsimp only; split <;> simp
@[simp] theorem complete_descs (c : Cmd) (st : St) (d0 d1 : Nat) (flag : Bool) (s : State) : (complete c st d0 d1 flag s).descs = s.descs := by
  unfold complete; dsimp only; split <;> simp
@[simp] theorem complete_place (c : Cmd) (st : St) (d0 d1 : Nat) (flag : Bool) (s : State) : (complete c st d0 d1 flag s).place = s.place := by
  unfold complete; dsimp only; split <;> simp
@[simp] theorem complete_remote (c : Cmd) (st : St) (d0 d1 : Nat) (flag : Bool) (s : State) : (complete c st d0 d1 flag s).remote = s.remote := by
  unfold complete; dsimp only; split <;> simp
@[simp] theorem complete_rung (c : Cmd) (st : St) (d0 d1 : Nat) (flag : Bool) (s : State) : (complete c st d0 d1 flag s).rung = s.rung := by
  unfold complete; dsimp only; split <;> simp
@[simp] theorem complete_dump (c : Cmd) (st : St) (d0 d1 : Nat) (flag : Bool) (s : State) : (complete c st d0 d1 flag s).dump = s.dump := by
  unfold complete; dsimp only; split <;> simp
@[simp] theorem complete_units (c : Cmd) (st : St) (d0 d1 : Nat) (flag : Bool) (s : State) : (complete c st d0 d1 flag s).units = s.units := by
  unfold complete; dsimp only; split <;> simp
@[simp] theorem complete_mems (c : Cmd) (st : St) (d0 d1 : Nat) (flag : Bool) (s : State) : (complete c st d0 d1 flag s).mems = s.mems := by
  unfold complete; dsimp only; split <;> simp
@[simp] theorem complete_repair (c : Cmd) (st : St) (d0 d1 : Nat) (flag : Bool) (s : State) : (complete c st d0 d1 flag s).repair = s.repair := by
  unfold complete; dsimp only; split <;> simp
@[simp] theorem complete_sup (c : Cmd) (st : St) (d0 d1 : Nat) (flag : Bool) (s : State) : (complete c st d0 d1 flag s).sup = s.sup := by
  unfold complete; dsimp only; split <;> simp
@[simp] theorem complete_fw (c : Cmd) (st : St) (d0 d1 : Nat) (flag : Bool) (s : State) : (complete c st d0 d1 flag s).fw = s.fw := by
  unfold complete; dsimp only; split <;> simp
@[simp] theorem complete_ret (c : Cmd) (st : St) (d0 d1 : Nat) (flag : Bool) (s : State) : (complete c st d0 d1 flag s).ret = s.ret := by
  unfold complete; dsimp only; split <;> simp
@[simp] theorem complete_i3c (c : Cmd) (st : St) (d0 d1 : Nat) (flag : Bool) (s : State) : (complete c st d0 d1 flag s).i3c = s.i3c := by
  unfold complete; dsimp only; split <;> simp
@[simp] theorem complete_pins (c : Cmd) (st : St) (d0 d1 : Nat) (flag : Bool) (s : State) : (complete c st d0 d1 flag s).pins = s.pins := by
  unfold complete; dsimp only; split <;> simp

/-! ### rejectCmd -/

@[simp] theorem rejectCmd_pending (c : Cmd) (v : Verdict) (s : State) : (rejectCmd c v s).pending = s.pending := by
  simp [rejectCmd]
@[simp] theorem rejectCmd_freeCtr (c : Cmd) (v : Verdict) (s : State) : (rejectCmd c v s).freeCtr = s.freeCtr := by
  simp [rejectCmd]
@[simp] theorem rejectCmd_cycle (c : Cmd) (v : Verdict) (s : State) : (rejectCmd c v s).cycle = s.cycle := by
  simp [rejectCmd]
@[simp] theorem rejectCmd_tower (c : Cmd) (v : Verdict) (s : State) : (rejectCmd c v s).tower = s.tower := by
  simp [rejectCmd]
@[simp] theorem rejectCmd_tiers (c : Cmd) (v : Verdict) (s : State) : (rejectCmd c v s).tiers = s.tiers := by
  simp [rejectCmd]
@[simp] theorem rejectCmd_arb (c : Cmd) (v : Verdict) (s : State) : (rejectCmd c v s).arb = s.arb := by
  simp [rejectCmd]
@[simp] theorem rejectCmd_nextId (c : Cmd) (v : Verdict) (s : State) : (rejectCmd c v s).nextId = s.nextId := by
  simp [rejectCmd]
@[simp] theorem rejectCmd_ctxs (c : Cmd) (v : Verdict) (s : State) : (rejectCmd c v s).ctxs = s.ctxs := by
  simp [rejectCmd]
@[simp] theorem rejectCmd_valves (c : Cmd) (v : Verdict) (s : State) : (rejectCmd c v s).valves = s.valves := by
  simp [rejectCmd]
@[simp] theorem rejectCmd_mods (c : Cmd) (v : Verdict) (s : State) : (rejectCmd c v s).mods = s.mods := by
  simp [rejectCmd]
@[simp] theorem rejectCmd_slices (c : Cmd) (v : Verdict) (s : State) : (rejectCmd c v s).slices = s.slices := by
  simp [rejectCmd]
@[simp] theorem rejectCmd_flushing (c : Cmd) (v : Verdict) (s : State) : (rejectCmd c v s).flushing = s.flushing := by
  simp [rejectCmd]
@[simp] theorem rejectCmd_refills (c : Cmd) (v : Verdict) (s : State) : (rejectCmd c v s).refills = s.refills := by
  simp [rejectCmd]
@[simp] theorem rejectCmd_waits (c : Cmd) (v : Verdict) (s : State) : (rejectCmd c v s).waits = s.waits := by
  simp [rejectCmd]
@[simp] theorem rejectCmd_geom (c : Cmd) (v : Verdict) (s : State) : (rejectCmd c v s).geom = s.geom := by
  simp [rejectCmd]
@[simp] theorem rejectCmd_lehr (c : Cmd) (v : Verdict) (s : State) : (rejectCmd c v s).lehr = s.lehr := by
  simp [rejectCmd]
@[simp] theorem rejectCmd_drains (c : Cmd) (v : Verdict) (s : State) : (rejectCmd c v s).drains = s.drains := by
  simp [rejectCmd]
@[simp] theorem rejectCmd_fetches (c : Cmd) (v : Verdict) (s : State) : (rejectCmd c v s).fetches = s.fetches := by
  simp [rejectCmd]
@[simp] theorem rejectCmd_nextFetch (c : Cmd) (v : Verdict) (s : State) : (rejectCmd c v s).nextFetch = s.nextFetch := by
  simp [rejectCmd]
@[simp] theorem rejectCmd_partials (c : Cmd) (v : Verdict) (s : State) : (rejectCmd c v s).partials = s.partials := by
  simp [rejectCmd]
@[simp] theorem rejectCmd_nextPart (c : Cmd) (v : Verdict) (s : State) : (rejectCmd c v s).nextPart = s.nextPart := by
  simp [rejectCmd]
@[simp] theorem rejectCmd_descs (c : Cmd) (v : Verdict) (s : State) : (rejectCmd c v s).descs = s.descs := by
  simp [rejectCmd]
@[simp] theorem rejectCmd_place (c : Cmd) (v : Verdict) (s : State) : (rejectCmd c v s).place = s.place := by
  simp [rejectCmd]
@[simp] theorem rejectCmd_remote (c : Cmd) (v : Verdict) (s : State) : (rejectCmd c v s).remote = s.remote := by
  simp [rejectCmd]
@[simp] theorem rejectCmd_rung (c : Cmd) (v : Verdict) (s : State) : (rejectCmd c v s).rung = s.rung := by
  simp [rejectCmd]
@[simp] theorem rejectCmd_dump (c : Cmd) (v : Verdict) (s : State) : (rejectCmd c v s).dump = s.dump := by
  simp [rejectCmd]
@[simp] theorem rejectCmd_units (c : Cmd) (v : Verdict) (s : State) : (rejectCmd c v s).units = s.units := by
  simp [rejectCmd]
@[simp] theorem rejectCmd_mems (c : Cmd) (v : Verdict) (s : State) : (rejectCmd c v s).mems = s.mems := by
  simp [rejectCmd]
@[simp] theorem rejectCmd_repair (c : Cmd) (v : Verdict) (s : State) : (rejectCmd c v s).repair = s.repair := by
  simp [rejectCmd]
@[simp] theorem rejectCmd_sup (c : Cmd) (v : Verdict) (s : State) : (rejectCmd c v s).sup = s.sup := by
  simp [rejectCmd]
@[simp] theorem rejectCmd_fw (c : Cmd) (v : Verdict) (s : State) : (rejectCmd c v s).fw = s.fw := by
  simp [rejectCmd]
@[simp] theorem rejectCmd_ret (c : Cmd) (v : Verdict) (s : State) : (rejectCmd c v s).ret = s.ret := by
  simp [rejectCmd]
@[simp] theorem rejectCmd_i3c (c : Cmd) (v : Verdict) (s : State) : (rejectCmd c v s).i3c = s.i3c := by
  simp [rejectCmd]
@[simp] theorem rejectCmd_pins (c : Cmd) (v : Verdict) (s : State) : (rejectCmd c v s).pins = s.pins := by
  simp [rejectCmd]

/-! ### settleQuarantine -/

@[simp] theorem settleQuarantine_pending (c : Nat) (s : State) : (settleQuarantine c s).pending = s.pending := by
  unfold settleQuarantine; split <;> rfl
@[simp] theorem settleQuarantine_freeCtr (c : Nat) (s : State) : (settleQuarantine c s).freeCtr = s.freeCtr := by
  unfold settleQuarantine; split <;> rfl
@[simp] theorem settleQuarantine_sent (c : Nat) (s : State) : (settleQuarantine c s).sent = s.sent := by
  unfold settleQuarantine; split <;> rfl
@[simp] theorem settleQuarantine_cycle (c : Nat) (s : State) : (settleQuarantine c s).cycle = s.cycle := by
  unfold settleQuarantine; split <;> rfl
@[simp] theorem settleQuarantine_bus (c : Nat) (s : State) : (settleQuarantine c s).bus = s.bus := by
  unfold settleQuarantine; split <;> rfl
@[simp] theorem settleQuarantine_tower (c : Nat) (s : State) : (settleQuarantine c s).tower = s.tower := by
  unfold settleQuarantine; split <;> rfl
@[simp] theorem settleQuarantine_regs (c : Nat) (s : State) : (settleQuarantine c s).regs = s.regs := by
  unfold settleQuarantine; split <;> rfl
@[simp] theorem settleQuarantine_mem (c : Nat) (s : State) : (settleQuarantine c s).mem = s.mem := by
  unfold settleQuarantine; split <;> rfl
@[simp] theorem settleQuarantine_tiers (c : Nat) (s : State) : (settleQuarantine c s).tiers = s.tiers := by
  unfold settleQuarantine; split <;> rfl
@[simp] theorem settleQuarantine_queues (c : Nat) (s : State) : (settleQuarantine c s).queues = s.queues := by
  unfold settleQuarantine; split <;> rfl
@[simp] theorem settleQuarantine_arb (c : Nat) (s : State) : (settleQuarantine c s).arb = s.arb := by
  unfold settleQuarantine; split <;> rfl
@[simp] theorem settleQuarantine_cmds (c : Nat) (s : State) : (settleQuarantine c s).cmds = s.cmds := by
  unfold settleQuarantine; split <;> rfl
@[simp] theorem settleQuarantine_nextId (c : Nat) (s : State) : (settleQuarantine c s).nextId = s.nextId := by
  unfold settleQuarantine; split <;> rfl
@[simp] theorem settleQuarantine_valves (c : Nat) (s : State) : (settleQuarantine c s).valves = s.valves := by
  unfold settleQuarantine; split <;> rfl
@[simp] theorem settleQuarantine_mods (c : Nat) (s : State) : (settleQuarantine c s).mods = s.mods := by
  unfold settleQuarantine; split <;> rfl
@[simp] theorem settleQuarantine_tables (c : Nat) (s : State) : (settleQuarantine c s).tables = s.tables := by
  unfold settleQuarantine; split <;> rfl
@[simp] theorem settleQuarantine_slices (c : Nat) (s : State) : (settleQuarantine c s).slices = s.slices := by
  unfold settleQuarantine; split <;> rfl
@[simp] theorem settleQuarantine_flushing (c : Nat) (s : State) : (settleQuarantine c s).flushing = s.flushing := by
  unfold settleQuarantine; split <;> rfl
@[simp] theorem settleQuarantine_refills (c : Nat) (s : State) : (settleQuarantine c s).refills = s.refills := by
  unfold settleQuarantine; split <;> rfl
@[simp] theorem settleQuarantine_waits (c : Nat) (s : State) : (settleQuarantine c s).waits = s.waits := by
  unfold settleQuarantine; split <;> rfl
@[simp] theorem settleQuarantine_geom (c : Nat) (s : State) : (settleQuarantine c s).geom = s.geom := by
  unfold settleQuarantine; split <;> rfl
@[simp] theorem settleQuarantine_lehr (c : Nat) (s : State) : (settleQuarantine c s).lehr = s.lehr := by
  unfold settleQuarantine; split <;> rfl
@[simp] theorem settleQuarantine_drains (c : Nat) (s : State) : (settleQuarantine c s).drains = s.drains := by
  unfold settleQuarantine; split <;> rfl
@[simp] theorem settleQuarantine_fetches (c : Nat) (s : State) : (settleQuarantine c s).fetches = s.fetches := by
  unfold settleQuarantine; split <;> rfl
@[simp] theorem settleQuarantine_nextFetch (c : Nat) (s : State) : (settleQuarantine c s).nextFetch = s.nextFetch := by
  unfold settleQuarantine; split <;> rfl
@[simp] theorem settleQuarantine_partials (c : Nat) (s : State) : (settleQuarantine c s).partials = s.partials := by
  unfold settleQuarantine; split <;> rfl
@[simp] theorem settleQuarantine_nextPart (c : Nat) (s : State) : (settleQuarantine c s).nextPart = s.nextPart := by
  unfold settleQuarantine; split <;> rfl
@[simp] theorem settleQuarantine_descs (c : Nat) (s : State) : (settleQuarantine c s).descs = s.descs := by
  unfold settleQuarantine; split <;> rfl
@[simp] theorem settleQuarantine_host (c : Nat) (s : State) : (settleQuarantine c s).host = s.host := by
  unfold settleQuarantine; split <;> rfl
@[simp] theorem settleQuarantine_place (c : Nat) (s : State) : (settleQuarantine c s).place = s.place := by
  unfold settleQuarantine; split <;> rfl
@[simp] theorem settleQuarantine_remote (c : Nat) (s : State) : (settleQuarantine c s).remote = s.remote := by
  unfold settleQuarantine; split <;> rfl
@[simp] theorem settleQuarantine_errs (c : Nat) (s : State) : (settleQuarantine c s).errs = s.errs := by
  unfold settleQuarantine; split <;> rfl
@[simp] theorem settleQuarantine_hang (c : Nat) (s : State) : (settleQuarantine c s).hang = s.hang := by
  unfold settleQuarantine; split <;> rfl
@[simp] theorem settleQuarantine_rung (c : Nat) (s : State) : (settleQuarantine c s).rung = s.rung := by
  unfold settleQuarantine; split <;> rfl
@[simp] theorem settleQuarantine_dump (c : Nat) (s : State) : (settleQuarantine c s).dump = s.dump := by
  unfold settleQuarantine; split <;> rfl
@[simp] theorem settleQuarantine_units (c : Nat) (s : State) : (settleQuarantine c s).units = s.units := by
  unfold settleQuarantine; split <;> rfl
@[simp] theorem settleQuarantine_mems (c : Nat) (s : State) : (settleQuarantine c s).mems = s.mems := by
  unfold settleQuarantine; split <;> rfl
@[simp] theorem settleQuarantine_repair (c : Nat) (s : State) : (settleQuarantine c s).repair = s.repair := by
  unfold settleQuarantine; split <;> rfl
@[simp] theorem settleQuarantine_sup (c : Nat) (s : State) : (settleQuarantine c s).sup = s.sup := by
  unfold settleQuarantine; split <;> rfl
@[simp] theorem settleQuarantine_fw (c : Nat) (s : State) : (settleQuarantine c s).fw = s.fw := by
  unfold settleQuarantine; split <;> rfl
@[simp] theorem settleQuarantine_ret (c : Nat) (s : State) : (settleQuarantine c s).ret = s.ret := by
  unfold settleQuarantine; split <;> rfl
@[simp] theorem settleQuarantine_i3c (c : Nat) (s : State) : (settleQuarantine c s).i3c = s.i3c := by
  unfold settleQuarantine; split <;> rfl
@[simp] theorem settleQuarantine_pins (c : Nat) (s : State) : (settleQuarantine c s).pins = s.pins := by
  unfold settleQuarantine; split <;> rfl

/-! ### retireTag -/

@[simp] theorem retireTag_pending (c : Nat) (tag : Tag) (s : State) : (retireTag c tag s).pending = s.pending := by
  simp [retireTag]
@[simp] theorem retireTag_freeCtr (c : Nat) (tag : Tag) (s : State) : (retireTag c tag s).freeCtr = s.freeCtr := by
  simp [retireTag]
@[simp] theorem retireTag_sent (c : Nat) (tag : Tag) (s : State) : (retireTag c tag s).sent = s.sent := by
  simp [retireTag]
@[simp] theorem retireTag_cycle (c : Nat) (tag : Tag) (s : State) : (retireTag c tag s).cycle = s.cycle := by
  simp [retireTag]
@[simp] theorem retireTag_bus (c : Nat) (tag : Tag) (s : State) : (retireTag c tag s).bus = s.bus := by
  simp [retireTag]
@[simp] theorem retireTag_tower (c : Nat) (tag : Tag) (s : State) : (retireTag c tag s).tower = s.tower := by
  simp [retireTag]
@[simp] theorem retireTag_regs (c : Nat) (tag : Tag) (s : State) : (retireTag c tag s).regs = s.regs := by
  simp [retireTag]
@[simp] theorem retireTag_mem (c : Nat) (tag : Tag) (s : State) : (retireTag c tag s).mem = s.mem := by
  simp [retireTag]
@[simp] theorem retireTag_tiers (c : Nat) (tag : Tag) (s : State) : (retireTag c tag s).tiers = s.tiers := by
  simp [retireTag]
@[simp] theorem retireTag_queues (c : Nat) (tag : Tag) (s : State) : (retireTag c tag s).queues = s.queues := by
  simp [retireTag]
@[simp] theorem retireTag_arb (c : Nat) (tag : Tag) (s : State) : (retireTag c tag s).arb = s.arb := by
  simp [retireTag]
@[simp] theorem retireTag_cmds (c : Nat) (tag : Tag) (s : State) : (retireTag c tag s).cmds = s.cmds := by
  simp [retireTag]
@[simp] theorem retireTag_nextId (c : Nat) (tag : Tag) (s : State) : (retireTag c tag s).nextId = s.nextId := by
  simp [retireTag]
@[simp] theorem retireTag_valves (c : Nat) (tag : Tag) (s : State) : (retireTag c tag s).valves = s.valves := by
  simp [retireTag]
@[simp] theorem retireTag_mods (c : Nat) (tag : Tag) (s : State) : (retireTag c tag s).mods = s.mods := by
  simp [retireTag]
@[simp] theorem retireTag_tables (c : Nat) (tag : Tag) (s : State) : (retireTag c tag s).tables = s.tables := by
  simp [retireTag]
@[simp] theorem retireTag_slices (c : Nat) (tag : Tag) (s : State) : (retireTag c tag s).slices = s.slices := by
  simp [retireTag]
@[simp] theorem retireTag_flushing (c : Nat) (tag : Tag) (s : State) : (retireTag c tag s).flushing = s.flushing := by
  simp [retireTag]
@[simp] theorem retireTag_refills (c : Nat) (tag : Tag) (s : State) : (retireTag c tag s).refills = s.refills := by
  simp [retireTag]
@[simp] theorem retireTag_waits (c : Nat) (tag : Tag) (s : State) : (retireTag c tag s).waits = s.waits := by
  simp [retireTag]
@[simp] theorem retireTag_geom (c : Nat) (tag : Tag) (s : State) : (retireTag c tag s).geom = s.geom := by
  simp [retireTag]
@[simp] theorem retireTag_lehr (c : Nat) (tag : Tag) (s : State) : (retireTag c tag s).lehr = s.lehr := by
  simp [retireTag]
@[simp] theorem retireTag_drains (c : Nat) (tag : Tag) (s : State) : (retireTag c tag s).drains = s.drains := by
  simp [retireTag]
@[simp] theorem retireTag_fetches (c : Nat) (tag : Tag) (s : State) : (retireTag c tag s).fetches = s.fetches := by
  simp [retireTag]
@[simp] theorem retireTag_nextFetch (c : Nat) (tag : Tag) (s : State) : (retireTag c tag s).nextFetch = s.nextFetch := by
  simp [retireTag]
@[simp] theorem retireTag_partials (c : Nat) (tag : Tag) (s : State) : (retireTag c tag s).partials = s.partials := by
  simp [retireTag]
@[simp] theorem retireTag_nextPart (c : Nat) (tag : Tag) (s : State) : (retireTag c tag s).nextPart = s.nextPart := by
  simp [retireTag]
@[simp] theorem retireTag_descs (c : Nat) (tag : Tag) (s : State) : (retireTag c tag s).descs = s.descs := by
  simp [retireTag]
@[simp] theorem retireTag_host (c : Nat) (tag : Tag) (s : State) : (retireTag c tag s).host = s.host := by
  simp [retireTag]
@[simp] theorem retireTag_place (c : Nat) (tag : Tag) (s : State) : (retireTag c tag s).place = s.place := by
  simp [retireTag]
@[simp] theorem retireTag_remote (c : Nat) (tag : Tag) (s : State) : (retireTag c tag s).remote = s.remote := by
  simp [retireTag]
@[simp] theorem retireTag_errs (c : Nat) (tag : Tag) (s : State) : (retireTag c tag s).errs = s.errs := by
  simp [retireTag]
@[simp] theorem retireTag_hang (c : Nat) (tag : Tag) (s : State) : (retireTag c tag s).hang = s.hang := by
  simp [retireTag]
@[simp] theorem retireTag_rung (c : Nat) (tag : Tag) (s : State) : (retireTag c tag s).rung = s.rung := by
  simp [retireTag]
@[simp] theorem retireTag_dump (c : Nat) (tag : Tag) (s : State) : (retireTag c tag s).dump = s.dump := by
  simp [retireTag]
@[simp] theorem retireTag_units (c : Nat) (tag : Tag) (s : State) : (retireTag c tag s).units = s.units := by
  simp [retireTag]
@[simp] theorem retireTag_mems (c : Nat) (tag : Tag) (s : State) : (retireTag c tag s).mems = s.mems := by
  simp [retireTag]
@[simp] theorem retireTag_repair (c : Nat) (tag : Tag) (s : State) : (retireTag c tag s).repair = s.repair := by
  simp [retireTag]
@[simp] theorem retireTag_sup (c : Nat) (tag : Tag) (s : State) : (retireTag c tag s).sup = s.sup := by
  simp [retireTag]
@[simp] theorem retireTag_fw (c : Nat) (tag : Tag) (s : State) : (retireTag c tag s).fw = s.fw := by
  simp [retireTag]
@[simp] theorem retireTag_ret (c : Nat) (tag : Tag) (s : State) : (retireTag c tag s).ret = s.ret := by
  simp [retireTag]
@[simp] theorem retireTag_i3c (c : Nat) (tag : Tag) (s : State) : (retireTag c tag s).i3c = s.i3c := by
  simp [retireTag]
@[simp] theorem retireTag_pins (c : Nat) (tag : Tag) (s : State) : (retireTag c tag s).pins = s.pins := by
  simp [retireTag]

/-! ### lateResponse -/

@[simp] theorem lateResponse_pending (c : Nat) (s : State) : (lateResponse c s).pending = s.pending := rfl
@[simp] theorem lateResponse_freeCtr (c : Nat) (s : State) : (lateResponse c s).freeCtr = s.freeCtr := rfl
@[simp] theorem lateResponse_sent (c : Nat) (s : State) : (lateResponse c s).sent = s.sent := rfl
@[simp] theorem lateResponse_cycle (c : Nat) (s : State) : (lateResponse c s).cycle = s.cycle := rfl
@[simp] theorem lateResponse_bus (c : Nat) (s : State) : (lateResponse c s).bus = s.bus := rfl
@[simp] theorem lateResponse_tower (c : Nat) (s : State) : (lateResponse c s).tower = s.tower := rfl
@[simp] theorem lateResponse_mem (c : Nat) (s : State) : (lateResponse c s).mem = s.mem := rfl
@[simp] theorem lateResponse_tiers (c : Nat) (s : State) : (lateResponse c s).tiers = s.tiers := rfl
@[simp] theorem lateResponse_queues (c : Nat) (s : State) : (lateResponse c s).queues = s.queues := rfl
@[simp] theorem lateResponse_arb (c : Nat) (s : State) : (lateResponse c s).arb = s.arb := rfl
@[simp] theorem lateResponse_cmds (c : Nat) (s : State) : (lateResponse c s).cmds = s.cmds := rfl
@[simp] theorem lateResponse_nextId (c : Nat) (s : State) : (lateResponse c s).nextId = s.nextId := rfl
@[simp] theorem lateResponse_ctxs (c : Nat) (s : State) : (lateResponse c s).ctxs = s.ctxs := rfl
@[simp] theorem lateResponse_valves (c : Nat) (s : State) : (lateResponse c s).valves = s.valves := rfl
@[simp] theorem lateResponse_mods (c : Nat) (s : State) : (lateResponse c s).mods = s.mods := rfl
@[simp] theorem lateResponse_tables (c : Nat) (s : State) : (lateResponse c s).tables = s.tables := rfl
@[simp] theorem lateResponse_slices (c : Nat) (s : State) : (lateResponse c s).slices = s.slices := rfl
@[simp] theorem lateResponse_flushing (c : Nat) (s : State) : (lateResponse c s).flushing = s.flushing := rfl
@[simp] theorem lateResponse_refills (c : Nat) (s : State) : (lateResponse c s).refills = s.refills := rfl
@[simp] theorem lateResponse_waits (c : Nat) (s : State) : (lateResponse c s).waits = s.waits := rfl
@[simp] theorem lateResponse_geom (c : Nat) (s : State) : (lateResponse c s).geom = s.geom := rfl
@[simp] theorem lateResponse_lehr (c : Nat) (s : State) : (lateResponse c s).lehr = s.lehr := rfl
@[simp] theorem lateResponse_drains (c : Nat) (s : State) : (lateResponse c s).drains = s.drains := rfl
@[simp] theorem lateResponse_fetches (c : Nat) (s : State) : (lateResponse c s).fetches = s.fetches := rfl
@[simp] theorem lateResponse_nextFetch (c : Nat) (s : State) : (lateResponse c s).nextFetch = s.nextFetch := rfl
@[simp] theorem lateResponse_partials (c : Nat) (s : State) : (lateResponse c s).partials = s.partials := rfl
@[simp] theorem lateResponse_nextPart (c : Nat) (s : State) : (lateResponse c s).nextPart = s.nextPart := rfl
@[simp] theorem lateResponse_descs (c : Nat) (s : State) : (lateResponse c s).descs = s.descs := rfl
@[simp] theorem lateResponse_host (c : Nat) (s : State) : (lateResponse c s).host = s.host := rfl
@[simp] theorem lateResponse_place (c : Nat) (s : State) : (lateResponse c s).place = s.place := rfl
@[simp] theorem lateResponse_remote (c : Nat) (s : State) : (lateResponse c s).remote = s.remote := rfl
@[simp] theorem lateResponse_errs (c : Nat) (s : State) : (lateResponse c s).errs = s.errs := rfl
@[simp] theorem lateResponse_hang (c : Nat) (s : State) : (lateResponse c s).hang = s.hang := rfl
@[simp] theorem lateResponse_rung (c : Nat) (s : State) : (lateResponse c s).rung = s.rung := rfl
@[simp] theorem lateResponse_dump (c : Nat) (s : State) : (lateResponse c s).dump = s.dump := rfl
@[simp] theorem lateResponse_units (c : Nat) (s : State) : (lateResponse c s).units = s.units := rfl
@[simp] theorem lateResponse_mems (c : Nat) (s : State) : (lateResponse c s).mems = s.mems := rfl
@[simp] theorem lateResponse_repair (c : Nat) (s : State) : (lateResponse c s).repair = s.repair := rfl
@[simp] theorem lateResponse_sup (c : Nat) (s : State) : (lateResponse c s).sup = s.sup := rfl
@[simp] theorem lateResponse_fw (c : Nat) (s : State) : (lateResponse c s).fw = s.fw := rfl
@[simp] theorem lateResponse_ret (c : Nat) (s : State) : (lateResponse c s).ret = s.ret := rfl
@[simp] theorem lateResponse_i3c (c : Nat) (s : State) : (lateResponse c s).i3c = s.i3c := rfl
@[simp] theorem lateResponse_pins (c : Nat) (s : State) : (lateResponse c s).pins = s.pins := rfl

/-! ### enableQueue -/

@[simp] theorem enableQueue_pending (q : Nat) (s : State) : (enableQueue q s).pending = s.pending := by
  unfold enableQueue; dsimp only; repeat' (first | rfl | (simp; done) | split)
@[simp] theorem enableQueue_freeCtr (q : Nat) (s : State) : (enableQueue q s).freeCtr = s.freeCtr := by
  unfold enableQueue; dsimp only; repeat' (first | rfl | (simp; done) | split)
@[simp] theorem enableQueue_cycle (q : Nat) (s : State) : (enableQueue q s).cycle = s.cycle := by
  unfold enableQueue; dsimp only; repeat' (first | rfl | (simp; done) | split)
@[simp] theorem enableQueue_tower (q : Nat) (s : State) : (enableQueue q s).tower = s.tower := by
  unfold enableQueue; dsimp only; repeat' (first | rfl | (simp; done) | split)
@[simp] theorem enableQueue_mem (q : Nat) (s : State) : (enableQueue q s).mem = s.mem := by
  unfold enableQueue; dsimp only; repeat' (first | rfl | (simp; done) | split)
@[simp] theorem enableQueue_tiers (q : Nat) (s : State) : (enableQueue q s).tiers = s.tiers := by
  unfold enableQueue; dsimp only; repeat' (first | rfl | (simp; done) | split)
@[simp] theorem enableQueue_cmds (q : Nat) (s : State) : (enableQueue q s).cmds = s.cmds := by
  unfold enableQueue; dsimp only; repeat' (first | rfl | (simp; done) | split)
@[simp] theorem enableQueue_nextId (q : Nat) (s : State) : (enableQueue q s).nextId = s.nextId := by
  unfold enableQueue; dsimp only; repeat' (first | rfl | (simp; done) | split)
@[simp] theorem enableQueue_ctxs (q : Nat) (s : State) : (enableQueue q s).ctxs = s.ctxs := by
  unfold enableQueue; dsimp only; repeat' (first | rfl | (simp; done) | split)
@[simp] theorem enableQueue_valves (q : Nat) (s : State) : (enableQueue q s).valves = s.valves := by
  unfold enableQueue; dsimp only; repeat' (first | rfl | (simp; done) | split)
@[simp] theorem enableQueue_mods (q : Nat) (s : State) : (enableQueue q s).mods = s.mods := by
  unfold enableQueue; dsimp only; repeat' (first | rfl | (simp; done) | split)
@[simp] theorem enableQueue_tables (q : Nat) (s : State) : (enableQueue q s).tables = s.tables := by
  unfold enableQueue; dsimp only; repeat' (first | rfl | (simp; done) | split)
@[simp] theorem enableQueue_slices (q : Nat) (s : State) : (enableQueue q s).slices = s.slices := by
  unfold enableQueue; dsimp only; repeat' (first | rfl | (simp; done) | split)
@[simp] theorem enableQueue_flushing (q : Nat) (s : State) : (enableQueue q s).flushing = s.flushing := by
  unfold enableQueue; dsimp only; repeat' (first | rfl | (simp; done) | split)
@[simp] theorem enableQueue_refills (q : Nat) (s : State) : (enableQueue q s).refills = s.refills := by
  unfold enableQueue; dsimp only; repeat' (first | rfl | (simp; done) | split)
@[simp] theorem enableQueue_waits (q : Nat) (s : State) : (enableQueue q s).waits = s.waits := by
  unfold enableQueue; dsimp only; repeat' (first | rfl | (simp; done) | split)
@[simp] theorem enableQueue_geom (q : Nat) (s : State) : (enableQueue q s).geom = s.geom := by
  unfold enableQueue; dsimp only; repeat' (first | rfl | (simp; done) | split)
@[simp] theorem enableQueue_lehr (q : Nat) (s : State) : (enableQueue q s).lehr = s.lehr := by
  unfold enableQueue; dsimp only; repeat' (first | rfl | (simp; done) | split)
@[simp] theorem enableQueue_drains (q : Nat) (s : State) : (enableQueue q s).drains = s.drains := by
  unfold enableQueue; dsimp only; repeat' (first | rfl | (simp; done) | split)
@[simp] theorem enableQueue_fetches (q : Nat) (s : State) : (enableQueue q s).fetches = s.fetches := by
  unfold enableQueue; dsimp only; repeat' (first | rfl | (simp; done) | split)
@[simp] theorem enableQueue_nextFetch (q : Nat) (s : State) : (enableQueue q s).nextFetch = s.nextFetch := by
  unfold enableQueue; dsimp only; repeat' (first | rfl | (simp; done) | split)
@[simp] theorem enableQueue_partials (q : Nat) (s : State) : (enableQueue q s).partials = s.partials := by
  unfold enableQueue; dsimp only; repeat' (first | rfl | (simp; done) | split)
@[simp] theorem enableQueue_nextPart (q : Nat) (s : State) : (enableQueue q s).nextPart = s.nextPart := by
  unfold enableQueue; dsimp only; repeat' (first | rfl | (simp; done) | split)
@[simp] theorem enableQueue_descs (q : Nat) (s : State) : (enableQueue q s).descs = s.descs := by
  unfold enableQueue; dsimp only; repeat' (first | rfl | (simp; done) | split)
@[simp] theorem enableQueue_place (q : Nat) (s : State) : (enableQueue q s).place = s.place := by
  unfold enableQueue; dsimp only; repeat' (first | rfl | (simp; done) | split)
@[simp] theorem enableQueue_remote (q : Nat) (s : State) : (enableQueue q s).remote = s.remote := by
  unfold enableQueue; dsimp only; repeat' (first | rfl | (simp; done) | split)
@[simp] theorem enableQueue_hang (q : Nat) (s : State) : (enableQueue q s).hang = s.hang := by
  unfold enableQueue; dsimp only; repeat' (first | rfl | (simp; done) | split)
@[simp] theorem enableQueue_rung (q : Nat) (s : State) : (enableQueue q s).rung = s.rung := by
  unfold enableQueue; dsimp only; repeat' (first | rfl | (simp; done) | split)
@[simp] theorem enableQueue_dump (q : Nat) (s : State) : (enableQueue q s).dump = s.dump := by
  unfold enableQueue; dsimp only; repeat' (first | rfl | (simp; done) | split)
@[simp] theorem enableQueue_units (q : Nat) (s : State) : (enableQueue q s).units = s.units := by
  unfold enableQueue; dsimp only; repeat' (first | rfl | (simp; done) | split)
@[simp] theorem enableQueue_mems (q : Nat) (s : State) : (enableQueue q s).mems = s.mems := by
  unfold enableQueue; dsimp only; repeat' (first | rfl | (simp; done) | split)
@[simp] theorem enableQueue_repair (q : Nat) (s : State) : (enableQueue q s).repair = s.repair := by
  unfold enableQueue; dsimp only; repeat' (first | rfl | (simp; done) | split)
@[simp] theorem enableQueue_sup (q : Nat) (s : State) : (enableQueue q s).sup = s.sup := by
  unfold enableQueue; dsimp only; repeat' (first | rfl | (simp; done) | split)
@[simp] theorem enableQueue_fw (q : Nat) (s : State) : (enableQueue q s).fw = s.fw := by
  unfold enableQueue; dsimp only; repeat' (first | rfl | (simp; done) | split)
@[simp] theorem enableQueue_ret (q : Nat) (s : State) : (enableQueue q s).ret = s.ret := by
  unfold enableQueue; dsimp only; repeat' (first | rfl | (simp; done) | split)
@[simp] theorem enableQueue_i3c (q : Nat) (s : State) : (enableQueue q s).i3c = s.i3c := by
  unfold enableQueue; dsimp only; repeat' (first | rfl | (simp; done) | split)
@[simp] theorem enableQueue_pins (q : Nat) (s : State) : (enableQueue q s).pins = s.pins := by
  unfold enableQueue; dsimp only; repeat' (first | rfl | (simp; done) | split)

/-! ### takeSnaps -/

@[simp] theorem takeSnaps_pending (ns : List Snap) (s : State) : (takeSnaps ns s).pending = s.pending := by
  unfold takeSnaps; induction ns generalizing s with | nil => rfl | cons p ps ih => exact ih _
@[simp] theorem takeSnaps_freeCtr (ns : List Snap) (s : State) : (takeSnaps ns s).freeCtr = s.freeCtr := by
  unfold takeSnaps; induction ns generalizing s with | nil => rfl | cons p ps ih => exact ih _
@[simp] theorem takeSnaps_sent (ns : List Snap) (s : State) : (takeSnaps ns s).sent = s.sent := by
  unfold takeSnaps; induction ns generalizing s with | nil => rfl | cons p ps ih => exact ih _
@[simp] theorem takeSnaps_cycle (ns : List Snap) (s : State) : (takeSnaps ns s).cycle = s.cycle := by
  unfold takeSnaps; induction ns generalizing s with | nil => rfl | cons p ps ih => exact ih _
@[simp] theorem takeSnaps_bus (ns : List Snap) (s : State) : (takeSnaps ns s).bus = s.bus := by
  unfold takeSnaps; induction ns generalizing s with | nil => rfl | cons p ps ih => exact ih _
@[simp] theorem takeSnaps_tower (ns : List Snap) (s : State) : (takeSnaps ns s).tower = s.tower := by
  unfold takeSnaps; induction ns generalizing s with | nil => rfl | cons p ps ih => exact ih _
@[simp] theorem takeSnaps_regs (ns : List Snap) (s : State) : (takeSnaps ns s).regs = s.regs := by
  unfold takeSnaps; induction ns generalizing s with | nil => rfl | cons p ps ih => exact ih _
@[simp] theorem takeSnaps_mem (ns : List Snap) (s : State) : (takeSnaps ns s).mem = s.mem := by
  unfold takeSnaps; induction ns generalizing s with | nil => rfl | cons p ps ih => exact ih _
@[simp] theorem takeSnaps_tiers (ns : List Snap) (s : State) : (takeSnaps ns s).tiers = s.tiers := by
  unfold takeSnaps; induction ns generalizing s with | nil => rfl | cons p ps ih => exact ih _
@[simp] theorem takeSnaps_queues (ns : List Snap) (s : State) : (takeSnaps ns s).queues = s.queues := by
  unfold takeSnaps; induction ns generalizing s with | nil => rfl | cons p ps ih => exact ih _
@[simp] theorem takeSnaps_arb (ns : List Snap) (s : State) : (takeSnaps ns s).arb = s.arb := by
  unfold takeSnaps; induction ns generalizing s with | nil => rfl | cons p ps ih => exact ih _
@[simp] theorem takeSnaps_cmds (ns : List Snap) (s : State) : (takeSnaps ns s).cmds = s.cmds := by
  unfold takeSnaps; induction ns generalizing s with | nil => rfl | cons p ps ih => exact ih _
@[simp] theorem takeSnaps_nextId (ns : List Snap) (s : State) : (takeSnaps ns s).nextId = s.nextId := by
  unfold takeSnaps; induction ns generalizing s with | nil => rfl | cons p ps ih => exact ih _
@[simp] theorem takeSnaps_ctxs (ns : List Snap) (s : State) : (takeSnaps ns s).ctxs = s.ctxs := by
  unfold takeSnaps; induction ns generalizing s with | nil => rfl | cons p ps ih => exact ih _
@[simp] theorem takeSnaps_valves (ns : List Snap) (s : State) : (takeSnaps ns s).valves = s.valves := by
  unfold takeSnaps; induction ns generalizing s with | nil => rfl | cons p ps ih => exact ih _
@[simp] theorem takeSnaps_mods (ns : List Snap) (s : State) : (takeSnaps ns s).mods = s.mods := by
  unfold takeSnaps; induction ns generalizing s with | nil => rfl | cons p ps ih => exact ih _
@[simp] theorem takeSnaps_slices (ns : List Snap) (s : State) : (takeSnaps ns s).slices = s.slices := by
  unfold takeSnaps; induction ns generalizing s with | nil => rfl | cons p ps ih => exact ih _
@[simp] theorem takeSnaps_flushing (ns : List Snap) (s : State) : (takeSnaps ns s).flushing = s.flushing := by
  unfold takeSnaps; induction ns generalizing s with | nil => rfl | cons p ps ih => exact ih _
@[simp] theorem takeSnaps_refills (ns : List Snap) (s : State) : (takeSnaps ns s).refills = s.refills := by
  unfold takeSnaps; induction ns generalizing s with | nil => rfl | cons p ps ih => exact ih _
@[simp] theorem takeSnaps_waits (ns : List Snap) (s : State) : (takeSnaps ns s).waits = s.waits := by
  unfold takeSnaps; induction ns generalizing s with | nil => rfl | cons p ps ih => exact ih _
@[simp] theorem takeSnaps_geom (ns : List Snap) (s : State) : (takeSnaps ns s).geom = s.geom := by
  unfold takeSnaps; induction ns generalizing s with | nil => rfl | cons p ps ih => exact ih _
@[simp] theorem takeSnaps_lehr (ns : List Snap) (s : State) : (takeSnaps ns s).lehr = s.lehr := by
  unfold takeSnaps; induction ns generalizing s with | nil => rfl | cons p ps ih => exact ih _
@[simp] theorem takeSnaps_drains (ns : List Snap) (s : State) : (takeSnaps ns s).drains = s.drains := by
  unfold takeSnaps; induction ns generalizing s with | nil => rfl | cons p ps ih => exact ih _
@[simp] theorem takeSnaps_fetches (ns : List Snap) (s : State) : (takeSnaps ns s).fetches = s.fetches := by
  unfold takeSnaps; induction ns generalizing s with | nil => rfl | cons p ps ih => exact ih _
@[simp] theorem takeSnaps_nextFetch (ns : List Snap) (s : State) : (takeSnaps ns s).nextFetch = s.nextFetch := by
  unfold takeSnaps; induction ns generalizing s with | nil => rfl | cons p ps ih => exact ih _
@[simp] theorem takeSnaps_partials (ns : List Snap) (s : State) : (takeSnaps ns s).partials = s.partials := by
  unfold takeSnaps; induction ns generalizing s with | nil => rfl | cons p ps ih => exact ih _
@[simp] theorem takeSnaps_nextPart (ns : List Snap) (s : State) : (takeSnaps ns s).nextPart = s.nextPart := by
  unfold takeSnaps; induction ns generalizing s with | nil => rfl | cons p ps ih => exact ih _
@[simp] theorem takeSnaps_descs (ns : List Snap) (s : State) : (takeSnaps ns s).descs = s.descs := by
  unfold takeSnaps; induction ns generalizing s with | nil => rfl | cons p ps ih => exact ih _
@[simp] theorem takeSnaps_host (ns : List Snap) (s : State) : (takeSnaps ns s).host = s.host := by
  unfold takeSnaps; induction ns generalizing s with | nil => rfl | cons p ps ih => exact ih _
@[simp] theorem takeSnaps_place (ns : List Snap) (s : State) : (takeSnaps ns s).place = s.place := by
  unfold takeSnaps; induction ns generalizing s with | nil => rfl | cons p ps ih => exact ih _
@[simp] theorem takeSnaps_remote (ns : List Snap) (s : State) : (takeSnaps ns s).remote = s.remote := by
  unfold takeSnaps; induction ns generalizing s with | nil => rfl | cons p ps ih => exact ih _
@[simp] theorem takeSnaps_errs (ns : List Snap) (s : State) : (takeSnaps ns s).errs = s.errs := by
  unfold takeSnaps; induction ns generalizing s with | nil => rfl | cons p ps ih => exact ih _
@[simp] theorem takeSnaps_hang (ns : List Snap) (s : State) : (takeSnaps ns s).hang = s.hang := by
  unfold takeSnaps; induction ns generalizing s with | nil => rfl | cons p ps ih => exact ih _
@[simp] theorem takeSnaps_rung (ns : List Snap) (s : State) : (takeSnaps ns s).rung = s.rung := by
  unfold takeSnaps; induction ns generalizing s with | nil => rfl | cons p ps ih => exact ih _
@[simp] theorem takeSnaps_dump (ns : List Snap) (s : State) : (takeSnaps ns s).dump = s.dump := by
  unfold takeSnaps; induction ns generalizing s with | nil => rfl | cons p ps ih => exact ih _
@[simp] theorem takeSnaps_units (ns : List Snap) (s : State) : (takeSnaps ns s).units = s.units := by
  unfold takeSnaps; induction ns generalizing s with | nil => rfl | cons p ps ih => exact ih _
@[simp] theorem takeSnaps_mems (ns : List Snap) (s : State) : (takeSnaps ns s).mems = s.mems := by
  unfold takeSnaps; induction ns generalizing s with | nil => rfl | cons p ps ih => exact ih _
@[simp] theorem takeSnaps_repair (ns : List Snap) (s : State) : (takeSnaps ns s).repair = s.repair := by
  unfold takeSnaps; induction ns generalizing s with | nil => rfl | cons p ps ih => exact ih _
@[simp] theorem takeSnaps_sup (ns : List Snap) (s : State) : (takeSnaps ns s).sup = s.sup := by
  unfold takeSnaps; induction ns generalizing s with | nil => rfl | cons p ps ih => exact ih _
@[simp] theorem takeSnaps_fw (ns : List Snap) (s : State) : (takeSnaps ns s).fw = s.fw := by
  unfold takeSnaps; induction ns generalizing s with | nil => rfl | cons p ps ih => exact ih _
@[simp] theorem takeSnaps_ret (ns : List Snap) (s : State) : (takeSnaps ns s).ret = s.ret := by
  unfold takeSnaps; induction ns generalizing s with | nil => rfl | cons p ps ih => exact ih _
@[simp] theorem takeSnaps_i3c (ns : List Snap) (s : State) : (takeSnaps ns s).i3c = s.i3c := by
  unfold takeSnaps; induction ns generalizing s with | nil => rfl | cons p ps ih => exact ih _
@[simp] theorem takeSnaps_pins (ns : List Snap) (s : State) : (takeSnaps ns s).pins = s.pins := by
  unfold takeSnaps; induction ns generalizing s with | nil => rfl | cons p ps ih => exact ih _

/-! ### admitted -/

@[simp] theorem admitted_pending (c : Cmd) (s : State) : (admitted c s).pending = s.pending := by
  simp [admitted]
@[simp] theorem admitted_freeCtr (c : Cmd) (s : State) : (admitted c s).freeCtr = s.freeCtr := by
  simp [admitted]
@[simp] theorem admitted_sent (c : Cmd) (s : State) : (admitted c s).sent = s.sent := by
  simp [admitted]
@[simp] theorem admitted_cycle (c : Cmd) (s : State) : (admitted c s).cycle = s.cycle := by
  simp [admitted]
@[simp] theorem admitted_bus (c : Cmd) (s : State) : (admitted c s).bus = s.bus := by
  simp [admitted]
@[simp] theorem admitted_tower (c : Cmd) (s : State) : (admitted c s).tower = s.tower := by
  simp [admitted]
@[simp] theorem admitted_regs (c : Cmd) (s : State) : (admitted c s).regs = s.regs := by
  simp [admitted]
@[simp] theorem admitted_mem (c : Cmd) (s : State) : (admitted c s).mem = s.mem := by
  simp [admitted]
@[simp] theorem admitted_tiers (c : Cmd) (s : State) : (admitted c s).tiers = s.tiers := by
  simp [admitted]
@[simp] theorem admitted_arb (c : Cmd) (s : State) : (admitted c s).arb = s.arb := by
  simp [admitted]
@[simp] theorem admitted_nextId (c : Cmd) (s : State) : (admitted c s).nextId = s.nextId := by
  simp [admitted]
@[simp] theorem admitted_ctxs (c : Cmd) (s : State) : (admitted c s).ctxs = s.ctxs := by
  simp [admitted]
@[simp] theorem admitted_valves (c : Cmd) (s : State) : (admitted c s).valves = s.valves := by
  simp [admitted]
@[simp] theorem admitted_mods (c : Cmd) (s : State) : (admitted c s).mods = s.mods := by
  simp [admitted]
@[simp] theorem admitted_slices (c : Cmd) (s : State) : (admitted c s).slices = s.slices := by
  simp [admitted]
@[simp] theorem admitted_flushing (c : Cmd) (s : State) : (admitted c s).flushing = s.flushing := by
  simp [admitted]
@[simp] theorem admitted_refills (c : Cmd) (s : State) : (admitted c s).refills = s.refills := by
  simp [admitted]
@[simp] theorem admitted_waits (c : Cmd) (s : State) : (admitted c s).waits = s.waits := by
  simp [admitted]
@[simp] theorem admitted_geom (c : Cmd) (s : State) : (admitted c s).geom = s.geom := by
  simp [admitted]
@[simp] theorem admitted_drains (c : Cmd) (s : State) : (admitted c s).drains = s.drains := by
  simp [admitted]
@[simp] theorem admitted_fetches (c : Cmd) (s : State) : (admitted c s).fetches = s.fetches := by
  simp [admitted]
@[simp] theorem admitted_nextFetch (c : Cmd) (s : State) : (admitted c s).nextFetch = s.nextFetch := by
  simp [admitted]
@[simp] theorem admitted_partials (c : Cmd) (s : State) : (admitted c s).partials = s.partials := by
  simp [admitted]
@[simp] theorem admitted_nextPart (c : Cmd) (s : State) : (admitted c s).nextPart = s.nextPart := by
  simp [admitted]
@[simp] theorem admitted_descs (c : Cmd) (s : State) : (admitted c s).descs = s.descs := by
  simp [admitted]
@[simp] theorem admitted_host (c : Cmd) (s : State) : (admitted c s).host = s.host := by
  simp [admitted]
@[simp] theorem admitted_place (c : Cmd) (s : State) : (admitted c s).place = s.place := by
  simp [admitted]
@[simp] theorem admitted_remote (c : Cmd) (s : State) : (admitted c s).remote = s.remote := by
  simp [admitted]
@[simp] theorem admitted_errs (c : Cmd) (s : State) : (admitted c s).errs = s.errs := by
  simp [admitted]
@[simp] theorem admitted_hang (c : Cmd) (s : State) : (admitted c s).hang = s.hang := by
  simp [admitted]
@[simp] theorem admitted_rung (c : Cmd) (s : State) : (admitted c s).rung = s.rung := by
  simp [admitted]
@[simp] theorem admitted_dump (c : Cmd) (s : State) : (admitted c s).dump = s.dump := by
  simp [admitted]
@[simp] theorem admitted_units (c : Cmd) (s : State) : (admitted c s).units = s.units := by
  simp [admitted]
@[simp] theorem admitted_mems (c : Cmd) (s : State) : (admitted c s).mems = s.mems := by
  simp [admitted]
@[simp] theorem admitted_repair (c : Cmd) (s : State) : (admitted c s).repair = s.repair := by
  simp [admitted]
@[simp] theorem admitted_sup (c : Cmd) (s : State) : (admitted c s).sup = s.sup := by
  simp [admitted]
@[simp] theorem admitted_fw (c : Cmd) (s : State) : (admitted c s).fw = s.fw := by
  simp [admitted]
@[simp] theorem admitted_ret (c : Cmd) (s : State) : (admitted c s).ret = s.ret := by
  simp [admitted]
@[simp] theorem admitted_i3c (c : Cmd) (s : State) : (admitted c s).i3c = s.i3c := by
  simp [admitted]
@[simp] theorem admitted_pins (c : Cmd) (s : State) : (admitted c s).pins = s.pins := by
  simp [admitted]

/-! ### retireOld -/

@[simp] theorem retireOld_pending (id : Nat) (s : State) : (retireOld id s).pending = s.pending := rfl
@[simp] theorem retireOld_freeCtr (id : Nat) (s : State) : (retireOld id s).freeCtr = s.freeCtr := rfl
@[simp] theorem retireOld_sent (id : Nat) (s : State) : (retireOld id s).sent = s.sent := rfl
@[simp] theorem retireOld_cycle (id : Nat) (s : State) : (retireOld id s).cycle = s.cycle := rfl
@[simp] theorem retireOld_bus (id : Nat) (s : State) : (retireOld id s).bus = s.bus := rfl
@[simp] theorem retireOld_tower (id : Nat) (s : State) : (retireOld id s).tower = s.tower := rfl
@[simp] theorem retireOld_regs (id : Nat) (s : State) : (retireOld id s).regs = s.regs := rfl
@[simp] theorem retireOld_mem (id : Nat) (s : State) : (retireOld id s).mem = s.mem := rfl
@[simp] theorem retireOld_tiers (id : Nat) (s : State) : (retireOld id s).tiers = s.tiers := rfl
@[simp] theorem retireOld_queues (id : Nat) (s : State) : (retireOld id s).queues = s.queues := rfl
@[simp] theorem retireOld_arb (id : Nat) (s : State) : (retireOld id s).arb = s.arb := rfl
@[simp] theorem retireOld_cmds (id : Nat) (s : State) : (retireOld id s).cmds = s.cmds := rfl
@[simp] theorem retireOld_nextId (id : Nat) (s : State) : (retireOld id s).nextId = s.nextId := rfl
@[simp] theorem retireOld_ctxs (id : Nat) (s : State) : (retireOld id s).ctxs = s.ctxs := rfl
@[simp] theorem retireOld_valves (id : Nat) (s : State) : (retireOld id s).valves = s.valves := rfl
@[simp] theorem retireOld_mods (id : Nat) (s : State) : (retireOld id s).mods = s.mods := rfl
@[simp] theorem retireOld_tables (id : Nat) (s : State) : (retireOld id s).tables = s.tables := rfl
@[simp] theorem retireOld_slices (id : Nat) (s : State) : (retireOld id s).slices = s.slices := rfl
@[simp] theorem retireOld_flushing (id : Nat) (s : State) : (retireOld id s).flushing = s.flushing := rfl
@[simp] theorem retireOld_refills (id : Nat) (s : State) : (retireOld id s).refills = s.refills := rfl
@[simp] theorem retireOld_waits (id : Nat) (s : State) : (retireOld id s).waits = s.waits := rfl
@[simp] theorem retireOld_geom (id : Nat) (s : State) : (retireOld id s).geom = s.geom := rfl
@[simp] theorem retireOld_lehr (id : Nat) (s : State) : (retireOld id s).lehr = s.lehr := rfl
@[simp] theorem retireOld_drains (id : Nat) (s : State) : (retireOld id s).drains = s.drains := rfl
@[simp] theorem retireOld_fetches (id : Nat) (s : State) : (retireOld id s).fetches = s.fetches := rfl
@[simp] theorem retireOld_nextFetch (id : Nat) (s : State) : (retireOld id s).nextFetch = s.nextFetch := rfl
@[simp] theorem retireOld_partials (id : Nat) (s : State) : (retireOld id s).partials = s.partials := rfl
@[simp] theorem retireOld_nextPart (id : Nat) (s : State) : (retireOld id s).nextPart = s.nextPart := rfl
@[simp] theorem retireOld_descs (id : Nat) (s : State) : (retireOld id s).descs = s.descs := rfl
@[simp] theorem retireOld_host (id : Nat) (s : State) : (retireOld id s).host = s.host := rfl
@[simp] theorem retireOld_remote (id : Nat) (s : State) : (retireOld id s).remote = s.remote := rfl
@[simp] theorem retireOld_errs (id : Nat) (s : State) : (retireOld id s).errs = s.errs := rfl
@[simp] theorem retireOld_hang (id : Nat) (s : State) : (retireOld id s).hang = s.hang := rfl
@[simp] theorem retireOld_rung (id : Nat) (s : State) : (retireOld id s).rung = s.rung := rfl
@[simp] theorem retireOld_dump (id : Nat) (s : State) : (retireOld id s).dump = s.dump := rfl
@[simp] theorem retireOld_units (id : Nat) (s : State) : (retireOld id s).units = s.units := rfl
@[simp] theorem retireOld_mems (id : Nat) (s : State) : (retireOld id s).mems = s.mems := rfl
@[simp] theorem retireOld_repair (id : Nat) (s : State) : (retireOld id s).repair = s.repair := rfl
@[simp] theorem retireOld_sup (id : Nat) (s : State) : (retireOld id s).sup = s.sup := rfl
@[simp] theorem retireOld_fw (id : Nat) (s : State) : (retireOld id s).fw = s.fw := rfl
@[simp] theorem retireOld_ret (id : Nat) (s : State) : (retireOld id s).ret = s.ret := rfl
@[simp] theorem retireOld_i3c (id : Nat) (s : State) : (retireOld id s).i3c = s.i3c := rfl
@[simp] theorem retireOld_pins (id : Nat) (s : State) : (retireOld id s).pins = s.pins := rfl

/-! ### freeFill -/

@[simp] theorem freeFill_pending (f : Fetch) (s : State) : (freeFill f s).pending = s.pending := by
  unfold freeFill; split <;> rfl
@[simp] theorem freeFill_freeCtr (f : Fetch) (s : State) : (freeFill f s).freeCtr = s.freeCtr := by
  unfold freeFill; split <;> rfl
@[simp] theorem freeFill_sent (f : Fetch) (s : State) : (freeFill f s).sent = s.sent := by
  unfold freeFill; split <;> rfl
@[simp] theorem freeFill_cycle (f : Fetch) (s : State) : (freeFill f s).cycle = s.cycle := by
  unfold freeFill; split <;> rfl
@[simp] theorem freeFill_bus (f : Fetch) (s : State) : (freeFill f s).bus = s.bus := by
  unfold freeFill; split <;> rfl
@[simp] theorem freeFill_tower (f : Fetch) (s : State) : (freeFill f s).tower = s.tower := by
  unfold freeFill; split <;> rfl
@[simp] theorem freeFill_regs (f : Fetch) (s : State) : (freeFill f s).regs = s.regs := by
  unfold freeFill; split <;> rfl
@[simp] theorem freeFill_mem (f : Fetch) (s : State) : (freeFill f s).mem = s.mem := by
  unfold freeFill; split <;> rfl
@[simp] theorem freeFill_tiers (f : Fetch) (s : State) : (freeFill f s).tiers = s.tiers := by
  unfold freeFill; split <;> rfl
@[simp] theorem freeFill_queues (f : Fetch) (s : State) : (freeFill f s).queues = s.queues := by
  unfold freeFill; split <;> rfl
@[simp] theorem freeFill_arb (f : Fetch) (s : State) : (freeFill f s).arb = s.arb := by
  unfold freeFill; split <;> rfl
@[simp] theorem freeFill_cmds (f : Fetch) (s : State) : (freeFill f s).cmds = s.cmds := by
  unfold freeFill; split <;> rfl
@[simp] theorem freeFill_nextId (f : Fetch) (s : State) : (freeFill f s).nextId = s.nextId := by
  unfold freeFill; split <;> rfl
@[simp] theorem freeFill_ctxs (f : Fetch) (s : State) : (freeFill f s).ctxs = s.ctxs := by
  unfold freeFill; split <;> rfl
@[simp] theorem freeFill_valves (f : Fetch) (s : State) : (freeFill f s).valves = s.valves := by
  unfold freeFill; split <;> rfl
@[simp] theorem freeFill_mods (f : Fetch) (s : State) : (freeFill f s).mods = s.mods := by
  unfold freeFill; split <;> rfl
@[simp] theorem freeFill_tables (f : Fetch) (s : State) : (freeFill f s).tables = s.tables := by
  unfold freeFill; split <;> rfl
@[simp] theorem freeFill_flushing (f : Fetch) (s : State) : (freeFill f s).flushing = s.flushing := by
  unfold freeFill; split <;> rfl
@[simp] theorem freeFill_refills (f : Fetch) (s : State) : (freeFill f s).refills = s.refills := by
  unfold freeFill; split <;> rfl
@[simp] theorem freeFill_waits (f : Fetch) (s : State) : (freeFill f s).waits = s.waits := by
  unfold freeFill; split <;> rfl
@[simp] theorem freeFill_geom (f : Fetch) (s : State) : (freeFill f s).geom = s.geom := by
  unfold freeFill; split <;> rfl
@[simp] theorem freeFill_lehr (f : Fetch) (s : State) : (freeFill f s).lehr = s.lehr := by
  unfold freeFill; split <;> rfl
@[simp] theorem freeFill_drains (f : Fetch) (s : State) : (freeFill f s).drains = s.drains := by
  unfold freeFill; split <;> rfl
@[simp] theorem freeFill_fetches (f : Fetch) (s : State) : (freeFill f s).fetches = s.fetches := by
  unfold freeFill; split <;> rfl
@[simp] theorem freeFill_nextFetch (f : Fetch) (s : State) : (freeFill f s).nextFetch = s.nextFetch := by
  unfold freeFill; split <;> rfl
@[simp] theorem freeFill_partials (f : Fetch) (s : State) : (freeFill f s).partials = s.partials := by
  unfold freeFill; split <;> rfl
@[simp] theorem freeFill_nextPart (f : Fetch) (s : State) : (freeFill f s).nextPart = s.nextPart := by
  unfold freeFill; split <;> rfl
@[simp] theorem freeFill_descs (f : Fetch) (s : State) : (freeFill f s).descs = s.descs := by
  unfold freeFill; split <;> rfl
@[simp] theorem freeFill_host (f : Fetch) (s : State) : (freeFill f s).host = s.host := by
  unfold freeFill; split <;> rfl
@[simp] theorem freeFill_place (f : Fetch) (s : State) : (freeFill f s).place = s.place := by
  unfold freeFill; split <;> rfl
@[simp] theorem freeFill_remote (f : Fetch) (s : State) : (freeFill f s).remote = s.remote := by
  unfold freeFill; split <;> rfl
@[simp] theorem freeFill_errs (f : Fetch) (s : State) : (freeFill f s).errs = s.errs := by
  unfold freeFill; split <;> rfl
@[simp] theorem freeFill_hang (f : Fetch) (s : State) : (freeFill f s).hang = s.hang := by
  unfold freeFill; split <;> rfl
@[simp] theorem freeFill_rung (f : Fetch) (s : State) : (freeFill f s).rung = s.rung := by
  unfold freeFill; split <;> rfl
@[simp] theorem freeFill_dump (f : Fetch) (s : State) : (freeFill f s).dump = s.dump := by
  unfold freeFill; split <;> rfl
@[simp] theorem freeFill_units (f : Fetch) (s : State) : (freeFill f s).units = s.units := by
  unfold freeFill; split <;> rfl
@[simp] theorem freeFill_mems (f : Fetch) (s : State) : (freeFill f s).mems = s.mems := by
  unfold freeFill; split <;> rfl
@[simp] theorem freeFill_repair (f : Fetch) (s : State) : (freeFill f s).repair = s.repair := by
  unfold freeFill; split <;> rfl
@[simp] theorem freeFill_sup (f : Fetch) (s : State) : (freeFill f s).sup = s.sup := by
  unfold freeFill; split <;> rfl
@[simp] theorem freeFill_fw (f : Fetch) (s : State) : (freeFill f s).fw = s.fw := by
  unfold freeFill; split <;> rfl
@[simp] theorem freeFill_ret (f : Fetch) (s : State) : (freeFill f s).ret = s.ret := by
  unfold freeFill; split <;> rfl
@[simp] theorem freeFill_i3c (f : Fetch) (s : State) : (freeFill f s).i3c = s.i3c := by
  unfold freeFill; split <;> rfl
@[simp] theorem freeFill_pins (f : Fetch) (s : State) : (freeFill f s).pins = s.pins := by
  unfold freeFill; split <;> rfl

/-! ### dropFetch -/

@[simp] theorem dropFetch_pending (f : Fetch) (s : State) : (dropFetch f s).pending = s.pending := by
  simp [dropFetch]
@[simp] theorem dropFetch_freeCtr (f : Fetch) (s : State) : (dropFetch f s).freeCtr = s.freeCtr := by
  simp [dropFetch]
@[simp] theorem dropFetch_sent (f : Fetch) (s : State) : (dropFetch f s).sent = s.sent := by
  simp [dropFetch]
@[simp] theorem dropFetch_cycle (f : Fetch) (s : State) : (dropFetch f s).cycle = s.cycle := by
  simp [dropFetch]
@[simp] theorem dropFetch_bus (f : Fetch) (s : State) : (dropFetch f s).bus = s.bus := by
  simp [dropFetch]
@[simp] theorem dropFetch_tower (f : Fetch) (s : State) : (dropFetch f s).tower = s.tower := by
  simp [dropFetch]
@[simp] theorem dropFetch_regs (f : Fetch) (s : State) : (dropFetch f s).regs = s.regs := by
  simp [dropFetch]
@[simp] theorem dropFetch_mem (f : Fetch) (s : State) : (dropFetch f s).mem = s.mem := by
  simp [dropFetch]
@[simp] theorem dropFetch_tiers (f : Fetch) (s : State) : (dropFetch f s).tiers = s.tiers := by
  simp [dropFetch]
@[simp] theorem dropFetch_queues (f : Fetch) (s : State) : (dropFetch f s).queues = s.queues := by
  simp [dropFetch]
@[simp] theorem dropFetch_arb (f : Fetch) (s : State) : (dropFetch f s).arb = s.arb := by
  simp [dropFetch]
@[simp] theorem dropFetch_cmds (f : Fetch) (s : State) : (dropFetch f s).cmds = s.cmds := by
  simp [dropFetch]
@[simp] theorem dropFetch_nextId (f : Fetch) (s : State) : (dropFetch f s).nextId = s.nextId := by
  simp [dropFetch]
@[simp] theorem dropFetch_ctxs (f : Fetch) (s : State) : (dropFetch f s).ctxs = s.ctxs := by
  simp [dropFetch]
@[simp] theorem dropFetch_valves (f : Fetch) (s : State) : (dropFetch f s).valves = s.valves := by
  simp [dropFetch]
@[simp] theorem dropFetch_mods (f : Fetch) (s : State) : (dropFetch f s).mods = s.mods := by
  simp [dropFetch]
@[simp] theorem dropFetch_tables (f : Fetch) (s : State) : (dropFetch f s).tables = s.tables := by
  simp [dropFetch]
@[simp] theorem dropFetch_flushing (f : Fetch) (s : State) : (dropFetch f s).flushing = s.flushing := by
  simp [dropFetch]
@[simp] theorem dropFetch_refills (f : Fetch) (s : State) : (dropFetch f s).refills = s.refills := by
  simp [dropFetch]
@[simp] theorem dropFetch_waits (f : Fetch) (s : State) : (dropFetch f s).waits = s.waits := by
  simp [dropFetch]
@[simp] theorem dropFetch_geom (f : Fetch) (s : State) : (dropFetch f s).geom = s.geom := by
  simp [dropFetch]
@[simp] theorem dropFetch_lehr (f : Fetch) (s : State) : (dropFetch f s).lehr = s.lehr := by
  simp [dropFetch]
@[simp] theorem dropFetch_drains (f : Fetch) (s : State) : (dropFetch f s).drains = s.drains := by
  simp [dropFetch]
@[simp] theorem dropFetch_nextFetch (f : Fetch) (s : State) : (dropFetch f s).nextFetch = s.nextFetch := by
  simp [dropFetch]
@[simp] theorem dropFetch_partials (f : Fetch) (s : State) : (dropFetch f s).partials = s.partials := by
  simp [dropFetch]
@[simp] theorem dropFetch_nextPart (f : Fetch) (s : State) : (dropFetch f s).nextPart = s.nextPart := by
  simp [dropFetch]
@[simp] theorem dropFetch_descs (f : Fetch) (s : State) : (dropFetch f s).descs = s.descs := by
  simp [dropFetch]
@[simp] theorem dropFetch_host (f : Fetch) (s : State) : (dropFetch f s).host = s.host := by
  simp [dropFetch]
@[simp] theorem dropFetch_remote (f : Fetch) (s : State) : (dropFetch f s).remote = s.remote := by
  simp [dropFetch]
@[simp] theorem dropFetch_errs (f : Fetch) (s : State) : (dropFetch f s).errs = s.errs := by
  simp [dropFetch]
@[simp] theorem dropFetch_hang (f : Fetch) (s : State) : (dropFetch f s).hang = s.hang := by
  simp [dropFetch]
@[simp] theorem dropFetch_rung (f : Fetch) (s : State) : (dropFetch f s).rung = s.rung := by
  simp [dropFetch]
@[simp] theorem dropFetch_dump (f : Fetch) (s : State) : (dropFetch f s).dump = s.dump := by
  simp [dropFetch]
@[simp] theorem dropFetch_units (f : Fetch) (s : State) : (dropFetch f s).units = s.units := by
  simp [dropFetch]
@[simp] theorem dropFetch_mems (f : Fetch) (s : State) : (dropFetch f s).mems = s.mems := by
  simp [dropFetch]
@[simp] theorem dropFetch_repair (f : Fetch) (s : State) : (dropFetch f s).repair = s.repair := by
  simp [dropFetch]
@[simp] theorem dropFetch_sup (f : Fetch) (s : State) : (dropFetch f s).sup = s.sup := by
  simp [dropFetch]
@[simp] theorem dropFetch_fw (f : Fetch) (s : State) : (dropFetch f s).fw = s.fw := by
  simp [dropFetch]
@[simp] theorem dropFetch_ret (f : Fetch) (s : State) : (dropFetch f s).ret = s.ret := by
  simp [dropFetch]
@[simp] theorem dropFetch_i3c (f : Fetch) (s : State) : (dropFetch f s).i3c = s.i3c := by
  simp [dropFetch]
@[simp] theorem dropFetch_pins (f : Fetch) (s : State) : (dropFetch f s).pins = s.pins := by
  simp [dropFetch]

/-! ### mapSlices -/

@[simp] theorem mapSlices_pending (f : Slice → Slice) (s : State) : (mapSlices f s).pending = s.pending := rfl
@[simp] theorem mapSlices_freeCtr (f : Slice → Slice) (s : State) : (mapSlices f s).freeCtr = s.freeCtr := rfl
@[simp] theorem mapSlices_sent (f : Slice → Slice) (s : State) : (mapSlices f s).sent = s.sent := rfl
@[simp] theorem mapSlices_cycle (f : Slice → Slice) (s : State) : (mapSlices f s).cycle = s.cycle := rfl
@[simp] theorem mapSlices_bus (f : Slice → Slice) (s : State) : (mapSlices f s).bus = s.bus := rfl
@[simp] theorem mapSlices_tower (f : Slice → Slice) (s : State) : (mapSlices f s).tower = s.tower := rfl
@[simp] theorem mapSlices_regs (f : Slice → Slice) (s : State) : (mapSlices f s).regs = s.regs := rfl
@[simp] theorem mapSlices_mem (f : Slice → Slice) (s : State) : (mapSlices f s).mem = s.mem := rfl
@[simp] theorem mapSlices_tiers (f : Slice → Slice) (s : State) : (mapSlices f s).tiers = s.tiers := rfl
@[simp] theorem mapSlices_queues (f : Slice → Slice) (s : State) : (mapSlices f s).queues = s.queues := rfl
@[simp] theorem mapSlices_arb (f : Slice → Slice) (s : State) : (mapSlices f s).arb = s.arb := rfl
@[simp] theorem mapSlices_cmds (f : Slice → Slice) (s : State) : (mapSlices f s).cmds = s.cmds := rfl
@[simp] theorem mapSlices_nextId (f : Slice → Slice) (s : State) : (mapSlices f s).nextId = s.nextId := rfl
@[simp] theorem mapSlices_ctxs (f : Slice → Slice) (s : State) : (mapSlices f s).ctxs = s.ctxs := rfl
@[simp] theorem mapSlices_valves (f : Slice → Slice) (s : State) : (mapSlices f s).valves = s.valves := rfl
@[simp] theorem mapSlices_mods (f : Slice → Slice) (s : State) : (mapSlices f s).mods = s.mods := rfl
@[simp] theorem mapSlices_tables (f : Slice → Slice) (s : State) : (mapSlices f s).tables = s.tables := rfl
@[simp] theorem mapSlices_flushing (f : Slice → Slice) (s : State) : (mapSlices f s).flushing = s.flushing := rfl
@[simp] theorem mapSlices_refills (f : Slice → Slice) (s : State) : (mapSlices f s).refills = s.refills := rfl
@[simp] theorem mapSlices_waits (f : Slice → Slice) (s : State) : (mapSlices f s).waits = s.waits := rfl
@[simp] theorem mapSlices_geom (f : Slice → Slice) (s : State) : (mapSlices f s).geom = s.geom := rfl
@[simp] theorem mapSlices_lehr (f : Slice → Slice) (s : State) : (mapSlices f s).lehr = s.lehr := rfl
@[simp] theorem mapSlices_drains (f : Slice → Slice) (s : State) : (mapSlices f s).drains = s.drains := rfl
@[simp] theorem mapSlices_fetches (f : Slice → Slice) (s : State) : (mapSlices f s).fetches = s.fetches := rfl
@[simp] theorem mapSlices_nextFetch (f : Slice → Slice) (s : State) : (mapSlices f s).nextFetch = s.nextFetch := rfl
@[simp] theorem mapSlices_partials (f : Slice → Slice) (s : State) : (mapSlices f s).partials = s.partials := rfl
@[simp] theorem mapSlices_nextPart (f : Slice → Slice) (s : State) : (mapSlices f s).nextPart = s.nextPart := rfl
@[simp] theorem mapSlices_descs (f : Slice → Slice) (s : State) : (mapSlices f s).descs = s.descs := rfl
@[simp] theorem mapSlices_host (f : Slice → Slice) (s : State) : (mapSlices f s).host = s.host := rfl
@[simp] theorem mapSlices_place (f : Slice → Slice) (s : State) : (mapSlices f s).place = s.place := rfl
@[simp] theorem mapSlices_remote (f : Slice → Slice) (s : State) : (mapSlices f s).remote = s.remote := rfl
@[simp] theorem mapSlices_errs (f : Slice → Slice) (s : State) : (mapSlices f s).errs = s.errs := rfl
@[simp] theorem mapSlices_hang (f : Slice → Slice) (s : State) : (mapSlices f s).hang = s.hang := rfl
@[simp] theorem mapSlices_rung (f : Slice → Slice) (s : State) : (mapSlices f s).rung = s.rung := rfl
@[simp] theorem mapSlices_dump (f : Slice → Slice) (s : State) : (mapSlices f s).dump = s.dump := rfl
@[simp] theorem mapSlices_units (f : Slice → Slice) (s : State) : (mapSlices f s).units = s.units := rfl
@[simp] theorem mapSlices_mems (f : Slice → Slice) (s : State) : (mapSlices f s).mems = s.mems := rfl
@[simp] theorem mapSlices_repair (f : Slice → Slice) (s : State) : (mapSlices f s).repair = s.repair := rfl
@[simp] theorem mapSlices_sup (f : Slice → Slice) (s : State) : (mapSlices f s).sup = s.sup := rfl
@[simp] theorem mapSlices_fw (f : Slice → Slice) (s : State) : (mapSlices f s).fw = s.fw := rfl
@[simp] theorem mapSlices_ret (f : Slice → Slice) (s : State) : (mapSlices f s).ret = s.ret := rfl
@[simp] theorem mapSlices_i3c (f : Slice → Slice) (s : State) : (mapSlices f s).i3c = s.i3c := rfl
@[simp] theorem mapSlices_pins (f : Slice → Slice) (s : State) : (mapSlices f s).pins = s.pins := rfl

/-! ### sendEnd -/

@[simp] theorem sendEnd_pending (c : Cmd) (st : St) (s : State) : (sendEnd c st s).pending = s.pending := by
  unfold sendEnd; split <;> rfl
@[simp] theorem sendEnd_freeCtr (c : Cmd) (st : St) (s : State) : (sendEnd c st s).freeCtr = s.freeCtr := by
  unfold sendEnd; split <;> rfl
@[simp] theorem sendEnd_cycle (c : Cmd) (st : St) (s : State) : (sendEnd c st s).cycle = s.cycle := by
  unfold sendEnd; split <;> rfl
@[simp] theorem sendEnd_bus (c : Cmd) (st : St) (s : State) : (sendEnd c st s).bus = s.bus := by
  unfold sendEnd; split <;> rfl
@[simp] theorem sendEnd_regs (c : Cmd) (st : St) (s : State) : (sendEnd c st s).regs = s.regs := by
  unfold sendEnd; split <;> rfl
@[simp] theorem sendEnd_mem (c : Cmd) (st : St) (s : State) : (sendEnd c st s).mem = s.mem := by
  unfold sendEnd; split <;> rfl
@[simp] theorem sendEnd_tiers (c : Cmd) (st : St) (s : State) : (sendEnd c st s).tiers = s.tiers := by
  unfold sendEnd; split <;> rfl
@[simp] theorem sendEnd_queues (c : Cmd) (st : St) (s : State) : (sendEnd c st s).queues = s.queues := by
  unfold sendEnd; split <;> rfl
@[simp] theorem sendEnd_arb (c : Cmd) (st : St) (s : State) : (sendEnd c st s).arb = s.arb := by
  unfold sendEnd; split <;> rfl
@[simp] theorem sendEnd_cmds (c : Cmd) (st : St) (s : State) : (sendEnd c st s).cmds = s.cmds := by
  unfold sendEnd; split <;> rfl
@[simp] theorem sendEnd_nextId (c : Cmd) (st : St) (s : State) : (sendEnd c st s).nextId = s.nextId := by
  unfold sendEnd; split <;> rfl
@[simp] theorem sendEnd_ctxs (c : Cmd) (st : St) (s : State) : (sendEnd c st s).ctxs = s.ctxs := by
  unfold sendEnd; split <;> rfl
@[simp] theorem sendEnd_valves (c : Cmd) (st : St) (s : State) : (sendEnd c st s).valves = s.valves := by
  unfold sendEnd; split <;> rfl
@[simp] theorem sendEnd_mods (c : Cmd) (st : St) (s : State) : (sendEnd c st s).mods = s.mods := by
  unfold sendEnd; split <;> rfl
@[simp] theorem sendEnd_tables (c : Cmd) (st : St) (s : State) : (sendEnd c st s).tables = s.tables := by
  unfold sendEnd; split <;> rfl
@[simp] theorem sendEnd_slices (c : Cmd) (st : St) (s : State) : (sendEnd c st s).slices = s.slices := by
  unfold sendEnd; split <;> rfl
@[simp] theorem sendEnd_flushing (c : Cmd) (st : St) (s : State) : (sendEnd c st s).flushing = s.flushing := by
  unfold sendEnd; split <;> rfl
@[simp] theorem sendEnd_refills (c : Cmd) (st : St) (s : State) : (sendEnd c st s).refills = s.refills := by
  unfold sendEnd; split <;> rfl
@[simp] theorem sendEnd_waits (c : Cmd) (st : St) (s : State) : (sendEnd c st s).waits = s.waits := by
  unfold sendEnd; split <;> rfl
@[simp] theorem sendEnd_geom (c : Cmd) (st : St) (s : State) : (sendEnd c st s).geom = s.geom := by
  unfold sendEnd; split <;> rfl
@[simp] theorem sendEnd_lehr (c : Cmd) (st : St) (s : State) : (sendEnd c st s).lehr = s.lehr := by
  unfold sendEnd; split <;> rfl
@[simp] theorem sendEnd_drains (c : Cmd) (st : St) (s : State) : (sendEnd c st s).drains = s.drains := by
  unfold sendEnd; split <;> rfl
@[simp] theorem sendEnd_fetches (c : Cmd) (st : St) (s : State) : (sendEnd c st s).fetches = s.fetches := by
  unfold sendEnd; split <;> rfl
@[simp] theorem sendEnd_nextFetch (c : Cmd) (st : St) (s : State) : (sendEnd c st s).nextFetch = s.nextFetch := by
  unfold sendEnd; split <;> rfl
@[simp] theorem sendEnd_partials (c : Cmd) (st : St) (s : State) : (sendEnd c st s).partials = s.partials := by
  unfold sendEnd; split <;> rfl
@[simp] theorem sendEnd_nextPart (c : Cmd) (st : St) (s : State) : (sendEnd c st s).nextPart = s.nextPart := by
  unfold sendEnd; split <;> rfl
@[simp] theorem sendEnd_descs (c : Cmd) (st : St) (s : State) : (sendEnd c st s).descs = s.descs := by
  unfold sendEnd; split <;> rfl
@[simp] theorem sendEnd_host (c : Cmd) (st : St) (s : State) : (sendEnd c st s).host = s.host := by
  unfold sendEnd; split <;> rfl
@[simp] theorem sendEnd_place (c : Cmd) (st : St) (s : State) : (sendEnd c st s).place = s.place := by
  unfold sendEnd; split <;> rfl
@[simp] theorem sendEnd_remote (c : Cmd) (st : St) (s : State) : (sendEnd c st s).remote = s.remote := by
  unfold sendEnd; split <;> rfl
@[simp] theorem sendEnd_errs (c : Cmd) (st : St) (s : State) : (sendEnd c st s).errs = s.errs := by
  unfold sendEnd; split <;> rfl
@[simp] theorem sendEnd_hang (c : Cmd) (st : St) (s : State) : (sendEnd c st s).hang = s.hang := by
  unfold sendEnd; split <;> rfl
@[simp] theorem sendEnd_rung (c : Cmd) (st : St) (s : State) : (sendEnd c st s).rung = s.rung := by
  unfold sendEnd; split <;> rfl
@[simp] theorem sendEnd_dump (c : Cmd) (st : St) (s : State) : (sendEnd c st s).dump = s.dump := by
  unfold sendEnd; split <;> rfl
@[simp] theorem sendEnd_units (c : Cmd) (st : St) (s : State) : (sendEnd c st s).units = s.units := by
  unfold sendEnd; split <;> rfl
@[simp] theorem sendEnd_mems (c : Cmd) (st : St) (s : State) : (sendEnd c st s).mems = s.mems := by
  unfold sendEnd; split <;> rfl
@[simp] theorem sendEnd_repair (c : Cmd) (st : St) (s : State) : (sendEnd c st s).repair = s.repair := by
  unfold sendEnd; split <;> rfl
@[simp] theorem sendEnd_sup (c : Cmd) (st : St) (s : State) : (sendEnd c st s).sup = s.sup := by
  unfold sendEnd; split <;> rfl
@[simp] theorem sendEnd_fw (c : Cmd) (st : St) (s : State) : (sendEnd c st s).fw = s.fw := by
  unfold sendEnd; split <;> rfl
@[simp] theorem sendEnd_ret (c : Cmd) (st : St) (s : State) : (sendEnd c st s).ret = s.ret := by
  unfold sendEnd; split <;> rfl
@[simp] theorem sendEnd_i3c (c : Cmd) (st : St) (s : State) : (sendEnd c st s).i3c = s.i3c := by
  unfold sendEnd; split <;> rfl
@[simp] theorem sendEnd_pins (c : Cmd) (st : St) (s : State) : (sendEnd c st s).pins = s.pins := by
  unfold sendEnd; split <;> rfl

/-! ### sendPhase -/

@[simp] theorem sendPhase_pending (phase : Nat) (c : Cmd) (ps : List Push) (s : State) : (sendPhase phase c ps s).pending = s.pending := by
  exact foldl_send (fun t : State => t.pending) _ (fun _ _ => rfl) ps s
@[simp] theorem sendPhase_freeCtr (phase : Nat) (c : Cmd) (ps : List Push) (s : State) : (sendPhase phase c ps s).freeCtr = s.freeCtr := by
  exact foldl_send (fun t : State => t.freeCtr) _ (fun _ _ => rfl) ps s
@[simp] theorem sendPhase_cycle (phase : Nat) (c : Cmd) (ps : List Push) (s : State) : (sendPhase phase c ps s).cycle = s.cycle := by
  exact foldl_send (fun t : State => t.cycle) _ (fun _ _ => rfl) ps s
@[simp] theorem sendPhase_bus (phase : Nat) (c : Cmd) (ps : List Push) (s : State) : (sendPhase phase c ps s).bus = s.bus := by
  exact foldl_send (fun t : State => t.bus) _ (fun _ _ => rfl) ps s
@[simp] theorem sendPhase_tower (phase : Nat) (c : Cmd) (ps : List Push) (s : State) : (sendPhase phase c ps s).tower = s.tower := by
  exact foldl_send (fun t : State => t.tower) _ (fun _ _ => rfl) ps s
@[simp] theorem sendPhase_regs (phase : Nat) (c : Cmd) (ps : List Push) (s : State) : (sendPhase phase c ps s).regs = s.regs := by
  exact foldl_send (fun t : State => t.regs) _ (fun _ _ => rfl) ps s
@[simp] theorem sendPhase_mem (phase : Nat) (c : Cmd) (ps : List Push) (s : State) : (sendPhase phase c ps s).mem = s.mem := by
  exact foldl_send (fun t : State => t.mem) _ (fun _ _ => rfl) ps s
@[simp] theorem sendPhase_tiers (phase : Nat) (c : Cmd) (ps : List Push) (s : State) : (sendPhase phase c ps s).tiers = s.tiers := by
  exact foldl_send (fun t : State => t.tiers) _ (fun _ _ => rfl) ps s
@[simp] theorem sendPhase_queues (phase : Nat) (c : Cmd) (ps : List Push) (s : State) : (sendPhase phase c ps s).queues = s.queues := by
  exact foldl_send (fun t : State => t.queues) _ (fun _ _ => rfl) ps s
@[simp] theorem sendPhase_arb (phase : Nat) (c : Cmd) (ps : List Push) (s : State) : (sendPhase phase c ps s).arb = s.arb := by
  exact foldl_send (fun t : State => t.arb) _ (fun _ _ => rfl) ps s
@[simp] theorem sendPhase_cmds (phase : Nat) (c : Cmd) (ps : List Push) (s : State) : (sendPhase phase c ps s).cmds = s.cmds := by
  exact foldl_send (fun t : State => t.cmds) _ (fun _ _ => rfl) ps s
@[simp] theorem sendPhase_nextId (phase : Nat) (c : Cmd) (ps : List Push) (s : State) : (sendPhase phase c ps s).nextId = s.nextId := by
  exact foldl_send (fun t : State => t.nextId) _ (fun _ _ => rfl) ps s
@[simp] theorem sendPhase_ctxs (phase : Nat) (c : Cmd) (ps : List Push) (s : State) : (sendPhase phase c ps s).ctxs = s.ctxs := by
  exact foldl_send (fun t : State => t.ctxs) _ (fun _ _ => rfl) ps s
@[simp] theorem sendPhase_valves (phase : Nat) (c : Cmd) (ps : List Push) (s : State) : (sendPhase phase c ps s).valves = s.valves := by
  exact foldl_send (fun t : State => t.valves) _ (fun _ _ => rfl) ps s
@[simp] theorem sendPhase_mods (phase : Nat) (c : Cmd) (ps : List Push) (s : State) : (sendPhase phase c ps s).mods = s.mods := by
  exact foldl_send (fun t : State => t.mods) _ (fun _ _ => rfl) ps s
@[simp] theorem sendPhase_tables (phase : Nat) (c : Cmd) (ps : List Push) (s : State) : (sendPhase phase c ps s).tables = s.tables := by
  exact foldl_send (fun t : State => t.tables) _ (fun _ _ => rfl) ps s
@[simp] theorem sendPhase_slices (phase : Nat) (c : Cmd) (ps : List Push) (s : State) : (sendPhase phase c ps s).slices = s.slices := by
  exact foldl_send (fun t : State => t.slices) _ (fun _ _ => rfl) ps s
@[simp] theorem sendPhase_flushing (phase : Nat) (c : Cmd) (ps : List Push) (s : State) : (sendPhase phase c ps s).flushing = s.flushing := by
  exact foldl_send (fun t : State => t.flushing) _ (fun _ _ => rfl) ps s
@[simp] theorem sendPhase_refills (phase : Nat) (c : Cmd) (ps : List Push) (s : State) : (sendPhase phase c ps s).refills = s.refills := by
  exact foldl_send (fun t : State => t.refills) _ (fun _ _ => rfl) ps s
@[simp] theorem sendPhase_waits (phase : Nat) (c : Cmd) (ps : List Push) (s : State) : (sendPhase phase c ps s).waits = s.waits := by
  exact foldl_send (fun t : State => t.waits) _ (fun _ _ => rfl) ps s
@[simp] theorem sendPhase_geom (phase : Nat) (c : Cmd) (ps : List Push) (s : State) : (sendPhase phase c ps s).geom = s.geom := by
  exact foldl_send (fun t : State => t.geom) _ (fun _ _ => rfl) ps s
@[simp] theorem sendPhase_lehr (phase : Nat) (c : Cmd) (ps : List Push) (s : State) : (sendPhase phase c ps s).lehr = s.lehr := by
  exact foldl_send (fun t : State => t.lehr) _ (fun _ _ => rfl) ps s
@[simp] theorem sendPhase_drains (phase : Nat) (c : Cmd) (ps : List Push) (s : State) : (sendPhase phase c ps s).drains = s.drains := by
  exact foldl_send (fun t : State => t.drains) _ (fun _ _ => rfl) ps s
@[simp] theorem sendPhase_fetches (phase : Nat) (c : Cmd) (ps : List Push) (s : State) : (sendPhase phase c ps s).fetches = s.fetches := by
  exact foldl_send (fun t : State => t.fetches) _ (fun _ _ => rfl) ps s
@[simp] theorem sendPhase_nextFetch (phase : Nat) (c : Cmd) (ps : List Push) (s : State) : (sendPhase phase c ps s).nextFetch = s.nextFetch := by
  exact foldl_send (fun t : State => t.nextFetch) _ (fun _ _ => rfl) ps s
@[simp] theorem sendPhase_partials (phase : Nat) (c : Cmd) (ps : List Push) (s : State) : (sendPhase phase c ps s).partials = s.partials := by
  exact foldl_send (fun t : State => t.partials) _ (fun _ _ => rfl) ps s
@[simp] theorem sendPhase_nextPart (phase : Nat) (c : Cmd) (ps : List Push) (s : State) : (sendPhase phase c ps s).nextPart = s.nextPart := by
  exact foldl_send (fun t : State => t.nextPart) _ (fun _ _ => rfl) ps s
@[simp] theorem sendPhase_descs (phase : Nat) (c : Cmd) (ps : List Push) (s : State) : (sendPhase phase c ps s).descs = s.descs := by
  exact foldl_send (fun t : State => t.descs) _ (fun _ _ => rfl) ps s
@[simp] theorem sendPhase_host (phase : Nat) (c : Cmd) (ps : List Push) (s : State) : (sendPhase phase c ps s).host = s.host := by
  exact foldl_send (fun t : State => t.host) _ (fun _ _ => rfl) ps s
@[simp] theorem sendPhase_place (phase : Nat) (c : Cmd) (ps : List Push) (s : State) : (sendPhase phase c ps s).place = s.place := by
  exact foldl_send (fun t : State => t.place) _ (fun _ _ => rfl) ps s
@[simp] theorem sendPhase_remote (phase : Nat) (c : Cmd) (ps : List Push) (s : State) : (sendPhase phase c ps s).remote = s.remote := by
  exact foldl_send (fun t : State => t.remote) _ (fun _ _ => rfl) ps s
@[simp] theorem sendPhase_errs (phase : Nat) (c : Cmd) (ps : List Push) (s : State) : (sendPhase phase c ps s).errs = s.errs := by
  exact foldl_send (fun t : State => t.errs) _ (fun _ _ => rfl) ps s
@[simp] theorem sendPhase_hang (phase : Nat) (c : Cmd) (ps : List Push) (s : State) : (sendPhase phase c ps s).hang = s.hang := by
  exact foldl_send (fun t : State => t.hang) _ (fun _ _ => rfl) ps s
@[simp] theorem sendPhase_rung (phase : Nat) (c : Cmd) (ps : List Push) (s : State) : (sendPhase phase c ps s).rung = s.rung := by
  exact foldl_send (fun t : State => t.rung) _ (fun _ _ => rfl) ps s
@[simp] theorem sendPhase_dump (phase : Nat) (c : Cmd) (ps : List Push) (s : State) : (sendPhase phase c ps s).dump = s.dump := by
  exact foldl_send (fun t : State => t.dump) _ (fun _ _ => rfl) ps s
@[simp] theorem sendPhase_units (phase : Nat) (c : Cmd) (ps : List Push) (s : State) : (sendPhase phase c ps s).units = s.units := by
  exact foldl_send (fun t : State => t.units) _ (fun _ _ => rfl) ps s
@[simp] theorem sendPhase_mems (phase : Nat) (c : Cmd) (ps : List Push) (s : State) : (sendPhase phase c ps s).mems = s.mems := by
  exact foldl_send (fun t : State => t.mems) _ (fun _ _ => rfl) ps s
@[simp] theorem sendPhase_repair (phase : Nat) (c : Cmd) (ps : List Push) (s : State) : (sendPhase phase c ps s).repair = s.repair := by
  exact foldl_send (fun t : State => t.repair) _ (fun _ _ => rfl) ps s
@[simp] theorem sendPhase_sup (phase : Nat) (c : Cmd) (ps : List Push) (s : State) : (sendPhase phase c ps s).sup = s.sup := by
  exact foldl_send (fun t : State => t.sup) _ (fun _ _ => rfl) ps s
@[simp] theorem sendPhase_fw (phase : Nat) (c : Cmd) (ps : List Push) (s : State) : (sendPhase phase c ps s).fw = s.fw := by
  exact foldl_send (fun t : State => t.fw) _ (fun _ _ => rfl) ps s
@[simp] theorem sendPhase_ret (phase : Nat) (c : Cmd) (ps : List Push) (s : State) : (sendPhase phase c ps s).ret = s.ret := by
  exact foldl_send (fun t : State => t.ret) _ (fun _ _ => rfl) ps s
@[simp] theorem sendPhase_i3c (phase : Nat) (c : Cmd) (ps : List Push) (s : State) : (sendPhase phase c ps s).i3c = s.i3c := by
  exact foldl_send (fun t : State => t.i3c) _ (fun _ _ => rfl) ps s
@[simp] theorem sendPhase_pins (phase : Nat) (c : Cmd) (ps : List Push) (s : State) : (sendPhase phase c ps s).pins = s.pins := by
  exact foldl_send (fun t : State => t.pins) _ (fun _ _ => rfl) ps s

/-! ### completeRecord -/

@[simp] theorem completeRecord_pending (id : Nat) (s : State) : (completeRecord id s).pending = s.pending := by
  unfold completeRecord; dsimp only; split <;> rfl
@[simp] theorem completeRecord_freeCtr (id : Nat) (s : State) : (completeRecord id s).freeCtr = s.freeCtr := by
  unfold completeRecord; dsimp only; split <;> rfl
@[simp] theorem completeRecord_sent (id : Nat) (s : State) : (completeRecord id s).sent = s.sent := by
  unfold completeRecord; dsimp only; split <;> rfl
@[simp] theorem completeRecord_cycle (id : Nat) (s : State) : (completeRecord id s).cycle = s.cycle := by
  unfold completeRecord; dsimp only; split <;> rfl
@[simp] theorem completeRecord_bus (id : Nat) (s : State) : (completeRecord id s).bus = s.bus := by
  unfold completeRecord; dsimp only; split <;> rfl
@[simp] theorem completeRecord_tower (id : Nat) (s : State) : (completeRecord id s).tower = s.tower := by
  unfold completeRecord; dsimp only; split <;> rfl
@[simp] theorem completeRecord_mem (id : Nat) (s : State) : (completeRecord id s).mem = s.mem := by
  unfold completeRecord; dsimp only; split <;> rfl
@[simp] theorem completeRecord_tiers (id : Nat) (s : State) : (completeRecord id s).tiers = s.tiers := by
  unfold completeRecord; dsimp only; split <;> rfl
@[simp] theorem completeRecord_queues (id : Nat) (s : State) : (completeRecord id s).queues = s.queues := by
  unfold completeRecord; dsimp only; split <;> rfl
@[simp] theorem completeRecord_arb (id : Nat) (s : State) : (completeRecord id s).arb = s.arb := by
  unfold completeRecord; dsimp only; split <;> rfl
@[simp] theorem completeRecord_cmds (id : Nat) (s : State) : (completeRecord id s).cmds = s.cmds := by
  unfold completeRecord; dsimp only; split <;> rfl
@[simp] theorem completeRecord_nextId (id : Nat) (s : State) : (completeRecord id s).nextId = s.nextId := by
  unfold completeRecord; dsimp only; split <;> rfl
@[simp] theorem completeRecord_ctxs (id : Nat) (s : State) : (completeRecord id s).ctxs = s.ctxs := by
  unfold completeRecord; dsimp only; split <;> rfl
@[simp] theorem completeRecord_valves (id : Nat) (s : State) : (completeRecord id s).valves = s.valves := by
  unfold completeRecord; dsimp only; split <;> rfl
@[simp] theorem completeRecord_mods (id : Nat) (s : State) : (completeRecord id s).mods = s.mods := by
  unfold completeRecord; dsimp only; split <;> rfl
@[simp] theorem completeRecord_tables (id : Nat) (s : State) : (completeRecord id s).tables = s.tables := by
  unfold completeRecord; dsimp only; split <;> rfl
@[simp] theorem completeRecord_slices (id : Nat) (s : State) : (completeRecord id s).slices = s.slices := by
  unfold completeRecord; dsimp only; split <;> rfl
@[simp] theorem completeRecord_flushing (id : Nat) (s : State) : (completeRecord id s).flushing = s.flushing := by
  unfold completeRecord; dsimp only; split <;> rfl
@[simp] theorem completeRecord_refills (id : Nat) (s : State) : (completeRecord id s).refills = s.refills := by
  unfold completeRecord; dsimp only; split <;> rfl
@[simp] theorem completeRecord_waits (id : Nat) (s : State) : (completeRecord id s).waits = s.waits := by
  unfold completeRecord; dsimp only; split <;> rfl
@[simp] theorem completeRecord_geom (id : Nat) (s : State) : (completeRecord id s).geom = s.geom := by
  unfold completeRecord; dsimp only; split <;> rfl
@[simp] theorem completeRecord_drains (id : Nat) (s : State) : (completeRecord id s).drains = s.drains := by
  unfold completeRecord; dsimp only; split <;> rfl
@[simp] theorem completeRecord_fetches (id : Nat) (s : State) : (completeRecord id s).fetches = s.fetches := by
  unfold completeRecord; dsimp only; split <;> rfl
@[simp] theorem completeRecord_nextFetch (id : Nat) (s : State) : (completeRecord id s).nextFetch = s.nextFetch := by
  unfold completeRecord; dsimp only; split <;> rfl
@[simp] theorem completeRecord_partials (id : Nat) (s : State) : (completeRecord id s).partials = s.partials := by
  unfold completeRecord; dsimp only; split <;> rfl
@[simp] theorem completeRecord_nextPart (id : Nat) (s : State) : (completeRecord id s).nextPart = s.nextPart := by
  unfold completeRecord; dsimp only; split <;> rfl
@[simp] theorem completeRecord_descs (id : Nat) (s : State) : (completeRecord id s).descs = s.descs := by
  unfold completeRecord; dsimp only; split <;> rfl
@[simp] theorem completeRecord_host (id : Nat) (s : State) : (completeRecord id s).host = s.host := by
  unfold completeRecord; dsimp only; split <;> rfl
@[simp] theorem completeRecord_place (id : Nat) (s : State) : (completeRecord id s).place = s.place := by
  unfold completeRecord; dsimp only; split <;> rfl
@[simp] theorem completeRecord_remote (id : Nat) (s : State) : (completeRecord id s).remote = s.remote := by
  unfold completeRecord; dsimp only; split <;> rfl
@[simp] theorem completeRecord_errs (id : Nat) (s : State) : (completeRecord id s).errs = s.errs := by
  unfold completeRecord; dsimp only; split <;> rfl
@[simp] theorem completeRecord_hang (id : Nat) (s : State) : (completeRecord id s).hang = s.hang := by
  unfold completeRecord; dsimp only; split <;> rfl
@[simp] theorem completeRecord_rung (id : Nat) (s : State) : (completeRecord id s).rung = s.rung := by
  unfold completeRecord; dsimp only; split <;> rfl
@[simp] theorem completeRecord_dump (id : Nat) (s : State) : (completeRecord id s).dump = s.dump := by
  unfold completeRecord; dsimp only; split <;> rfl
@[simp] theorem completeRecord_units (id : Nat) (s : State) : (completeRecord id s).units = s.units := by
  unfold completeRecord; dsimp only; split <;> rfl
@[simp] theorem completeRecord_mems (id : Nat) (s : State) : (completeRecord id s).mems = s.mems := by
  unfold completeRecord; dsimp only; split <;> rfl
@[simp] theorem completeRecord_repair (id : Nat) (s : State) : (completeRecord id s).repair = s.repair := by
  unfold completeRecord; dsimp only; split <;> rfl
@[simp] theorem completeRecord_sup (id : Nat) (s : State) : (completeRecord id s).sup = s.sup := by
  unfold completeRecord; dsimp only; split <;> rfl
@[simp] theorem completeRecord_fw (id : Nat) (s : State) : (completeRecord id s).fw = s.fw := by
  unfold completeRecord; dsimp only; split <;> rfl
@[simp] theorem completeRecord_ret (id : Nat) (s : State) : (completeRecord id s).ret = s.ret := by
  unfold completeRecord; dsimp only; split <;> rfl
@[simp] theorem completeRecord_i3c (id : Nat) (s : State) : (completeRecord id s).i3c = s.i3c := by
  unfold completeRecord; dsimp only; split <;> rfl
@[simp] theorem completeRecord_pins (id : Nat) (s : State) : (completeRecord id s).pins = s.pins := by
  unfold completeRecord; dsimp only; split <;> rfl

/-! ### spoilOut -/

@[simp] theorem spoilOut_pending (c : Cmd) (f : Fwd) (s : State) : (spoilOut c f s).pending = s.pending := by
  unfold spoilOut; dsimp only; split
  · exact foldl_keep (fun t : State => t.pending) _ (fun t b => by split <;> simp) _ _
  · rfl
@[simp] theorem spoilOut_sent (c : Cmd) (f : Fwd) (s : State) : (spoilOut c f s).sent = s.sent := by
  unfold spoilOut; dsimp only; split
  · exact foldl_keep (fun t : State => t.sent) _ (fun t b => by split <;> simp) _ _
  · rfl
@[simp] theorem spoilOut_cycle (c : Cmd) (f : Fwd) (s : State) : (spoilOut c f s).cycle = s.cycle := by
  unfold spoilOut; dsimp only; split
  · exact foldl_keep (fun t : State => t.cycle) _ (fun t b => by split <;> simp) _ _
  · rfl
@[simp] theorem spoilOut_bus (c : Cmd) (f : Fwd) (s : State) : (spoilOut c f s).bus = s.bus := by
  unfold spoilOut; dsimp only; split
  · exact foldl_keep (fun t : State => t.bus) _ (fun t b => by split <;> simp) _ _
  · rfl
@[simp] theorem spoilOut_tower (c : Cmd) (f : Fwd) (s : State) : (spoilOut c f s).tower = s.tower := by
  unfold spoilOut; dsimp only; split
  · exact foldl_keep (fun t : State => t.tower) _ (fun t b => by split <;> simp) _ _
  · rfl
@[simp] theorem spoilOut_regs (c : Cmd) (f : Fwd) (s : State) : (spoilOut c f s).regs = s.regs := by
  unfold spoilOut; dsimp only; split
  · exact foldl_keep (fun t : State => t.regs) _ (fun t b => by split <;> simp) _ _
  · rfl
@[simp] theorem spoilOut_tiers (c : Cmd) (f : Fwd) (s : State) : (spoilOut c f s).tiers = s.tiers := by
  unfold spoilOut; dsimp only; split
  · exact foldl_keep (fun t : State => t.tiers) _ (fun t b => by split <;> simp) _ _
  · rfl
@[simp] theorem spoilOut_queues (c : Cmd) (f : Fwd) (s : State) : (spoilOut c f s).queues = s.queues := by
  unfold spoilOut; dsimp only; split
  · exact foldl_keep (fun t : State => t.queues) _ (fun t b => by split <;> simp) _ _
  · rfl
@[simp] theorem spoilOut_arb (c : Cmd) (f : Fwd) (s : State) : (spoilOut c f s).arb = s.arb := by
  unfold spoilOut; dsimp only; split
  · exact foldl_keep (fun t : State => t.arb) _ (fun t b => by split <;> simp) _ _
  · rfl
@[simp] theorem spoilOut_cmds (c : Cmd) (f : Fwd) (s : State) : (spoilOut c f s).cmds = s.cmds := by
  unfold spoilOut; dsimp only; split
  · exact foldl_keep (fun t : State => t.cmds) _ (fun t b => by split <;> simp) _ _
  · rfl
@[simp] theorem spoilOut_nextId (c : Cmd) (f : Fwd) (s : State) : (spoilOut c f s).nextId = s.nextId := by
  unfold spoilOut; dsimp only; split
  · exact foldl_keep (fun t : State => t.nextId) _ (fun t b => by split <;> simp) _ _
  · rfl
@[simp] theorem spoilOut_ctxs (c : Cmd) (f : Fwd) (s : State) : (spoilOut c f s).ctxs = s.ctxs := by
  unfold spoilOut; dsimp only; split
  · exact foldl_keep (fun t : State => t.ctxs) _ (fun t b => by split <;> simp) _ _
  · rfl
@[simp] theorem spoilOut_valves (c : Cmd) (f : Fwd) (s : State) : (spoilOut c f s).valves = s.valves := by
  unfold spoilOut; dsimp only; split
  · exact foldl_keep (fun t : State => t.valves) _ (fun t b => by split <;> simp) _ _
  · rfl
@[simp] theorem spoilOut_mods (c : Cmd) (f : Fwd) (s : State) : (spoilOut c f s).mods = s.mods := by
  unfold spoilOut; dsimp only; split
  · exact foldl_keep (fun t : State => t.mods) _ (fun t b => by split <;> simp) _ _
  · rfl
@[simp] theorem spoilOut_tables (c : Cmd) (f : Fwd) (s : State) : (spoilOut c f s).tables = s.tables := by
  unfold spoilOut; dsimp only; split
  · exact foldl_keep (fun t : State => t.tables) _ (fun t b => by split <;> simp) _ _
  · rfl
@[simp] theorem spoilOut_slices (c : Cmd) (f : Fwd) (s : State) : (spoilOut c f s).slices = s.slices := by
  unfold spoilOut; dsimp only; split
  · exact foldl_keep (fun t : State => t.slices) _ (fun t b => by split <;> simp) _ _
  · rfl
@[simp] theorem spoilOut_flushing (c : Cmd) (f : Fwd) (s : State) : (spoilOut c f s).flushing = s.flushing := by
  unfold spoilOut; dsimp only; split
  · exact foldl_keep (fun t : State => t.flushing) _ (fun t b => by split <;> simp) _ _
  · rfl
@[simp] theorem spoilOut_refills (c : Cmd) (f : Fwd) (s : State) : (spoilOut c f s).refills = s.refills := by
  unfold spoilOut; dsimp only; split
  · exact foldl_keep (fun t : State => t.refills) _ (fun t b => by split <;> simp) _ _
  · rfl
@[simp] theorem spoilOut_waits (c : Cmd) (f : Fwd) (s : State) : (spoilOut c f s).waits = s.waits := by
  unfold spoilOut; dsimp only; split
  · exact foldl_keep (fun t : State => t.waits) _ (fun t b => by split <;> simp) _ _
  · rfl
@[simp] theorem spoilOut_geom (c : Cmd) (f : Fwd) (s : State) : (spoilOut c f s).geom = s.geom := by
  unfold spoilOut; dsimp only; split
  · exact foldl_keep (fun t : State => t.geom) _ (fun t b => by split <;> simp) _ _
  · rfl
@[simp] theorem spoilOut_lehr (c : Cmd) (f : Fwd) (s : State) : (spoilOut c f s).lehr = s.lehr := by
  unfold spoilOut; dsimp only; split
  · exact foldl_keep (fun t : State => t.lehr) _ (fun t b => by split <;> simp) _ _
  · rfl
@[simp] theorem spoilOut_drains (c : Cmd) (f : Fwd) (s : State) : (spoilOut c f s).drains = s.drains := by
  unfold spoilOut; dsimp only; split
  · exact foldl_keep (fun t : State => t.drains) _ (fun t b => by split <;> simp) _ _
  · rfl
@[simp] theorem spoilOut_fetches (c : Cmd) (f : Fwd) (s : State) : (spoilOut c f s).fetches = s.fetches := by
  unfold spoilOut; dsimp only; split
  · exact foldl_keep (fun t : State => t.fetches) _ (fun t b => by split <;> simp) _ _
  · rfl
@[simp] theorem spoilOut_nextFetch (c : Cmd) (f : Fwd) (s : State) : (spoilOut c f s).nextFetch = s.nextFetch := by
  unfold spoilOut; dsimp only; split
  · exact foldl_keep (fun t : State => t.nextFetch) _ (fun t b => by split <;> simp) _ _
  · rfl
@[simp] theorem spoilOut_partials (c : Cmd) (f : Fwd) (s : State) : (spoilOut c f s).partials = s.partials := by
  unfold spoilOut; dsimp only; split
  · exact foldl_keep (fun t : State => t.partials) _ (fun t b => by split <;> simp) _ _
  · rfl
@[simp] theorem spoilOut_nextPart (c : Cmd) (f : Fwd) (s : State) : (spoilOut c f s).nextPart = s.nextPart := by
  unfold spoilOut; dsimp only; split
  · exact foldl_keep (fun t : State => t.nextPart) _ (fun t b => by split <;> simp) _ _
  · rfl
@[simp] theorem spoilOut_descs (c : Cmd) (f : Fwd) (s : State) : (spoilOut c f s).descs = s.descs := by
  unfold spoilOut; dsimp only; split
  · exact foldl_keep (fun t : State => t.descs) _ (fun t b => by split <;> simp) _ _
  · rfl
@[simp] theorem spoilOut_host (c : Cmd) (f : Fwd) (s : State) : (spoilOut c f s).host = s.host := by
  unfold spoilOut; dsimp only; split
  · exact foldl_keep (fun t : State => t.host) _ (fun t b => by split <;> simp) _ _
  · rfl
@[simp] theorem spoilOut_place (c : Cmd) (f : Fwd) (s : State) : (spoilOut c f s).place = s.place := by
  unfold spoilOut; dsimp only; split
  · exact foldl_keep (fun t : State => t.place) _ (fun t b => by split <;> simp) _ _
  · rfl
@[simp] theorem spoilOut_remote (c : Cmd) (f : Fwd) (s : State) : (spoilOut c f s).remote = s.remote := by
  unfold spoilOut; dsimp only; split
  · exact foldl_keep (fun t : State => t.remote) _ (fun t b => by split <;> simp) _ _
  · rfl
@[simp] theorem spoilOut_errs (c : Cmd) (f : Fwd) (s : State) : (spoilOut c f s).errs = s.errs := by
  unfold spoilOut; dsimp only; split
  · exact foldl_keep (fun t : State => t.errs) _ (fun t b => by split <;> simp) _ _
  · rfl
@[simp] theorem spoilOut_hang (c : Cmd) (f : Fwd) (s : State) : (spoilOut c f s).hang = s.hang := by
  unfold spoilOut; dsimp only; split
  · exact foldl_keep (fun t : State => t.hang) _ (fun t b => by split <;> simp) _ _
  · rfl
@[simp] theorem spoilOut_rung (c : Cmd) (f : Fwd) (s : State) : (spoilOut c f s).rung = s.rung := by
  unfold spoilOut; dsimp only; split
  · exact foldl_keep (fun t : State => t.rung) _ (fun t b => by split <;> simp) _ _
  · rfl
@[simp] theorem spoilOut_dump (c : Cmd) (f : Fwd) (s : State) : (spoilOut c f s).dump = s.dump := by
  unfold spoilOut; dsimp only; split
  · exact foldl_keep (fun t : State => t.dump) _ (fun t b => by split <;> simp) _ _
  · rfl
@[simp] theorem spoilOut_units (c : Cmd) (f : Fwd) (s : State) : (spoilOut c f s).units = s.units := by
  unfold spoilOut; dsimp only; split
  · exact foldl_keep (fun t : State => t.units) _ (fun t b => by split <;> simp) _ _
  · rfl
@[simp] theorem spoilOut_mems (c : Cmd) (f : Fwd) (s : State) : (spoilOut c f s).mems = s.mems := by
  unfold spoilOut; dsimp only; split
  · exact foldl_keep (fun t : State => t.mems) _ (fun t b => by split <;> simp) _ _
  · rfl
@[simp] theorem spoilOut_repair (c : Cmd) (f : Fwd) (s : State) : (spoilOut c f s).repair = s.repair := by
  unfold spoilOut; dsimp only; split
  · exact foldl_keep (fun t : State => t.repair) _ (fun t b => by split <;> simp) _ _
  · rfl
@[simp] theorem spoilOut_sup (c : Cmd) (f : Fwd) (s : State) : (spoilOut c f s).sup = s.sup := by
  unfold spoilOut; dsimp only; split
  · exact foldl_keep (fun t : State => t.sup) _ (fun t b => by split <;> simp) _ _
  · rfl
@[simp] theorem spoilOut_fw (c : Cmd) (f : Fwd) (s : State) : (spoilOut c f s).fw = s.fw := by
  unfold spoilOut; dsimp only; split
  · exact foldl_keep (fun t : State => t.fw) _ (fun t b => by split <;> simp) _ _
  · rfl
@[simp] theorem spoilOut_ret (c : Cmd) (f : Fwd) (s : State) : (spoilOut c f s).ret = s.ret := by
  unfold spoilOut; dsimp only; split
  · exact foldl_keep (fun t : State => t.ret) _ (fun t b => by split <;> simp) _ _
  · rfl
@[simp] theorem spoilOut_i3c (c : Cmd) (f : Fwd) (s : State) : (spoilOut c f s).i3c = s.i3c := by
  unfold spoilOut; dsimp only; split
  · exact foldl_keep (fun t : State => t.i3c) _ (fun t b => by split <;> simp) _ _
  · rfl
@[simp] theorem spoilOut_pins (c : Cmd) (f : Fwd) (s : State) : (spoilOut c f s).pins = s.pins := by
  unfold spoilOut; dsimp only; split
  · exact foldl_keep (fun t : State => t.pins) _ (fun t b => by split <;> simp) _ _
  · rfl

/-! ### endFwd -/

@[simp] theorem endFwd_pending (c : Cmd) (f : Fwd) (st : St) (s : State) : (endFwd c f st s).pending = s.pending := by
  unfold endFwd; dsimp only; split <;> (split <;> simp)
@[simp] theorem endFwd_cycle (c : Cmd) (f : Fwd) (st : St) (s : State) : (endFwd c f st s).cycle = s.cycle := by
  unfold endFwd; dsimp only; split <;> (split <;> simp)
@[simp] theorem endFwd_bus (c : Cmd) (f : Fwd) (st : St) (s : State) : (endFwd c f st s).bus = s.bus := by
  unfold endFwd; dsimp only; split <;> (split <;> simp)
@[simp] theorem endFwd_tiers (c : Cmd) (f : Fwd) (st : St) (s : State) : (endFwd c f st s).tiers = s.tiers := by
  unfold endFwd; dsimp only; split <;> (split <;> simp)
@[simp] theorem endFwd_queues (c : Cmd) (f : Fwd) (st : St) (s : State) : (endFwd c f st s).queues = s.queues := by
  unfold endFwd; dsimp only; split <;> (split <;> simp)
@[simp] theorem endFwd_arb (c : Cmd) (f : Fwd) (st : St) (s : State) : (endFwd c f st s).arb = s.arb := by
  unfold endFwd; dsimp only; split <;> (split <;> simp)
@[simp] theorem endFwd_cmds (c : Cmd) (f : Fwd) (st : St) (s : State) : (endFwd c f st s).cmds = s.cmds := by
  unfold endFwd; dsimp only; split <;> (split <;> simp)
@[simp] theorem endFwd_nextId (c : Cmd) (f : Fwd) (st : St) (s : State) : (endFwd c f st s).nextId = s.nextId := by
  unfold endFwd; dsimp only; split <;> (split <;> simp)
@[simp] theorem endFwd_ctxs (c : Cmd) (f : Fwd) (st : St) (s : State) : (endFwd c f st s).ctxs = s.ctxs := by
  unfold endFwd; dsimp only; split <;> (split <;> simp)
@[simp] theorem endFwd_valves (c : Cmd) (f : Fwd) (st : St) (s : State) : (endFwd c f st s).valves = s.valves := by
  unfold endFwd; dsimp only; split <;> (split <;> simp)
@[simp] theorem endFwd_mods (c : Cmd) (f : Fwd) (st : St) (s : State) : (endFwd c f st s).mods = s.mods := by
  unfold endFwd; dsimp only; split <;> (split <;> simp)
@[simp] theorem endFwd_tables (c : Cmd) (f : Fwd) (st : St) (s : State) : (endFwd c f st s).tables = s.tables := by
  unfold endFwd; dsimp only; split <;> (split <;> simp)
@[simp] theorem endFwd_slices (c : Cmd) (f : Fwd) (st : St) (s : State) : (endFwd c f st s).slices = s.slices := by
  unfold endFwd; dsimp only; split <;> (split <;> simp)
@[simp] theorem endFwd_flushing (c : Cmd) (f : Fwd) (st : St) (s : State) : (endFwd c f st s).flushing = s.flushing := by
  unfold endFwd; dsimp only; split <;> (split <;> simp)
@[simp] theorem endFwd_refills (c : Cmd) (f : Fwd) (st : St) (s : State) : (endFwd c f st s).refills = s.refills := by
  unfold endFwd; dsimp only; split <;> (split <;> simp)
@[simp] theorem endFwd_waits (c : Cmd) (f : Fwd) (st : St) (s : State) : (endFwd c f st s).waits = s.waits := by
  unfold endFwd; dsimp only; split <;> (split <;> simp)
@[simp] theorem endFwd_geom (c : Cmd) (f : Fwd) (st : St) (s : State) : (endFwd c f st s).geom = s.geom := by
  unfold endFwd; dsimp only; split <;> (split <;> simp)
@[simp] theorem endFwd_drains (c : Cmd) (f : Fwd) (st : St) (s : State) : (endFwd c f st s).drains = s.drains := by
  unfold endFwd; dsimp only; split <;> (split <;> simp)
@[simp] theorem endFwd_fetches (c : Cmd) (f : Fwd) (st : St) (s : State) : (endFwd c f st s).fetches = s.fetches := by
  unfold endFwd; dsimp only; split <;> (split <;> simp)
@[simp] theorem endFwd_nextFetch (c : Cmd) (f : Fwd) (st : St) (s : State) : (endFwd c f st s).nextFetch = s.nextFetch := by
  unfold endFwd; dsimp only; split <;> (split <;> simp)
@[simp] theorem endFwd_partials (c : Cmd) (f : Fwd) (st : St) (s : State) : (endFwd c f st s).partials = s.partials := by
  unfold endFwd; dsimp only; split <;> (split <;> simp)
@[simp] theorem endFwd_nextPart (c : Cmd) (f : Fwd) (st : St) (s : State) : (endFwd c f st s).nextPart = s.nextPart := by
  unfold endFwd; dsimp only; split <;> (split <;> simp)
@[simp] theorem endFwd_descs (c : Cmd) (f : Fwd) (st : St) (s : State) : (endFwd c f st s).descs = s.descs := by
  unfold endFwd; dsimp only; split <;> (split <;> simp)
@[simp] theorem endFwd_host (c : Cmd) (f : Fwd) (st : St) (s : State) : (endFwd c f st s).host = s.host := by
  unfold endFwd; dsimp only; split <;> (split <;> simp)
@[simp] theorem endFwd_place (c : Cmd) (f : Fwd) (st : St) (s : State) : (endFwd c f st s).place = s.place := by
  unfold endFwd; dsimp only; split <;> (split <;> simp)
@[simp] theorem endFwd_remote (c : Cmd) (f : Fwd) (st : St) (s : State) : (endFwd c f st s).remote = s.remote := by
  unfold endFwd; dsimp only; split <;> (split <;> simp)
@[simp] theorem endFwd_errs (c : Cmd) (f : Fwd) (st : St) (s : State) : (endFwd c f st s).errs = s.errs := by
  unfold endFwd; dsimp only; split <;> (split <;> simp)
@[simp] theorem endFwd_hang (c : Cmd) (f : Fwd) (st : St) (s : State) : (endFwd c f st s).hang = s.hang := by
  unfold endFwd; dsimp only; split <;> (split <;> simp)
@[simp] theorem endFwd_rung (c : Cmd) (f : Fwd) (st : St) (s : State) : (endFwd c f st s).rung = s.rung := by
  unfold endFwd; dsimp only; split <;> (split <;> simp)
@[simp] theorem endFwd_dump (c : Cmd) (f : Fwd) (st : St) (s : State) : (endFwd c f st s).dump = s.dump := by
  unfold endFwd; dsimp only; split <;> (split <;> simp)
@[simp] theorem endFwd_units (c : Cmd) (f : Fwd) (st : St) (s : State) : (endFwd c f st s).units = s.units := by
  unfold endFwd; dsimp only; split <;> (split <;> simp)
@[simp] theorem endFwd_mems (c : Cmd) (f : Fwd) (st : St) (s : State) : (endFwd c f st s).mems = s.mems := by
  unfold endFwd; dsimp only; split <;> (split <;> simp)
@[simp] theorem endFwd_repair (c : Cmd) (f : Fwd) (st : St) (s : State) : (endFwd c f st s).repair = s.repair := by
  unfold endFwd; dsimp only; split <;> (split <;> simp)
@[simp] theorem endFwd_sup (c : Cmd) (f : Fwd) (st : St) (s : State) : (endFwd c f st s).sup = s.sup := by
  unfold endFwd; dsimp only; split <;> (split <;> simp)
@[simp] theorem endFwd_fw (c : Cmd) (f : Fwd) (st : St) (s : State) : (endFwd c f st s).fw = s.fw := by
  unfold endFwd; dsimp only; split <;> (split <;> simp)
@[simp] theorem endFwd_ret (c : Cmd) (f : Fwd) (st : St) (s : State) : (endFwd c f st s).ret = s.ret := by
  unfold endFwd; dsimp only; split <;> (split <;> simp)
@[simp] theorem endFwd_i3c (c : Cmd) (f : Fwd) (st : St) (s : State) : (endFwd c f st s).i3c = s.i3c := by
  unfold endFwd; dsimp only; split <;> (split <;> simp)
@[simp] theorem endFwd_pins (c : Cmd) (f : Fwd) (st : St) (s : State) : (endFwd c f st s).pins = s.pins := by
  unfold endFwd; dsimp only; split <;> (split <;> simp)

/-! ### addAmax -/

@[simp] theorem addAmax_pending (n : Nat) (g : Scatter) (s : State) : (addAmax n g s).pending = s.pending := rfl
@[simp] theorem addAmax_freeCtr (n : Nat) (g : Scatter) (s : State) : (addAmax n g s).freeCtr = s.freeCtr := rfl
@[simp] theorem addAmax_sent (n : Nat) (g : Scatter) (s : State) : (addAmax n g s).sent = s.sent := rfl
@[simp] theorem addAmax_cycle (n : Nat) (g : Scatter) (s : State) : (addAmax n g s).cycle = s.cycle := rfl
@[simp] theorem addAmax_bus (n : Nat) (g : Scatter) (s : State) : (addAmax n g s).bus = s.bus := rfl
@[simp] theorem addAmax_tower (n : Nat) (g : Scatter) (s : State) : (addAmax n g s).tower = s.tower := rfl
@[simp] theorem addAmax_mem (n : Nat) (g : Scatter) (s : State) : (addAmax n g s).mem = s.mem := rfl
@[simp] theorem addAmax_tiers (n : Nat) (g : Scatter) (s : State) : (addAmax n g s).tiers = s.tiers := rfl
@[simp] theorem addAmax_queues (n : Nat) (g : Scatter) (s : State) : (addAmax n g s).queues = s.queues := rfl
@[simp] theorem addAmax_arb (n : Nat) (g : Scatter) (s : State) : (addAmax n g s).arb = s.arb := rfl
@[simp] theorem addAmax_cmds (n : Nat) (g : Scatter) (s : State) : (addAmax n g s).cmds = s.cmds := rfl
@[simp] theorem addAmax_nextId (n : Nat) (g : Scatter) (s : State) : (addAmax n g s).nextId = s.nextId := rfl
@[simp] theorem addAmax_ctxs (n : Nat) (g : Scatter) (s : State) : (addAmax n g s).ctxs = s.ctxs := rfl
@[simp] theorem addAmax_valves (n : Nat) (g : Scatter) (s : State) : (addAmax n g s).valves = s.valves := rfl
@[simp] theorem addAmax_mods (n : Nat) (g : Scatter) (s : State) : (addAmax n g s).mods = s.mods := rfl
@[simp] theorem addAmax_slices (n : Nat) (g : Scatter) (s : State) : (addAmax n g s).slices = s.slices := rfl
@[simp] theorem addAmax_flushing (n : Nat) (g : Scatter) (s : State) : (addAmax n g s).flushing = s.flushing := rfl
@[simp] theorem addAmax_refills (n : Nat) (g : Scatter) (s : State) : (addAmax n g s).refills = s.refills := rfl
@[simp] theorem addAmax_waits (n : Nat) (g : Scatter) (s : State) : (addAmax n g s).waits = s.waits := rfl
@[simp] theorem addAmax_geom (n : Nat) (g : Scatter) (s : State) : (addAmax n g s).geom = s.geom := rfl
@[simp] theorem addAmax_lehr (n : Nat) (g : Scatter) (s : State) : (addAmax n g s).lehr = s.lehr := rfl
@[simp] theorem addAmax_drains (n : Nat) (g : Scatter) (s : State) : (addAmax n g s).drains = s.drains := rfl
@[simp] theorem addAmax_fetches (n : Nat) (g : Scatter) (s : State) : (addAmax n g s).fetches = s.fetches := rfl
@[simp] theorem addAmax_nextFetch (n : Nat) (g : Scatter) (s : State) : (addAmax n g s).nextFetch = s.nextFetch := rfl
@[simp] theorem addAmax_partials (n : Nat) (g : Scatter) (s : State) : (addAmax n g s).partials = s.partials := rfl
@[simp] theorem addAmax_nextPart (n : Nat) (g : Scatter) (s : State) : (addAmax n g s).nextPart = s.nextPart := rfl
@[simp] theorem addAmax_descs (n : Nat) (g : Scatter) (s : State) : (addAmax n g s).descs = s.descs := rfl
@[simp] theorem addAmax_host (n : Nat) (g : Scatter) (s : State) : (addAmax n g s).host = s.host := rfl
@[simp] theorem addAmax_place (n : Nat) (g : Scatter) (s : State) : (addAmax n g s).place = s.place := rfl
@[simp] theorem addAmax_remote (n : Nat) (g : Scatter) (s : State) : (addAmax n g s).remote = s.remote := rfl
@[simp] theorem addAmax_errs (n : Nat) (g : Scatter) (s : State) : (addAmax n g s).errs = s.errs := rfl
@[simp] theorem addAmax_hang (n : Nat) (g : Scatter) (s : State) : (addAmax n g s).hang = s.hang := rfl
@[simp] theorem addAmax_rung (n : Nat) (g : Scatter) (s : State) : (addAmax n g s).rung = s.rung := rfl
@[simp] theorem addAmax_dump (n : Nat) (g : Scatter) (s : State) : (addAmax n g s).dump = s.dump := rfl
@[simp] theorem addAmax_units (n : Nat) (g : Scatter) (s : State) : (addAmax n g s).units = s.units := rfl
@[simp] theorem addAmax_mems (n : Nat) (g : Scatter) (s : State) : (addAmax n g s).mems = s.mems := rfl
@[simp] theorem addAmax_repair (n : Nat) (g : Scatter) (s : State) : (addAmax n g s).repair = s.repair := rfl
@[simp] theorem addAmax_sup (n : Nat) (g : Scatter) (s : State) : (addAmax n g s).sup = s.sup := rfl
@[simp] theorem addAmax_fw (n : Nat) (g : Scatter) (s : State) : (addAmax n g s).fw = s.fw := rfl
@[simp] theorem addAmax_ret (n : Nat) (g : Scatter) (s : State) : (addAmax n g s).ret = s.ret := rfl
@[simp] theorem addAmax_i3c (n : Nat) (g : Scatter) (s : State) : (addAmax n g s).i3c = s.i3c := rfl
@[simp] theorem addAmax_pins (n : Nat) (g : Scatter) (s : State) : (addAmax n g s).pins = s.pins := rfl

/-! ### spoilInter -/

@[simp] theorem spoilInter_pending (c : Cmd) (g : Scatter) (s : State) : (spoilInter c g s).pending = s.pending := by
  unfold spoilInter; dsimp only; split <;> (split <;> simp)
@[simp] theorem spoilInter_sent (c : Cmd) (g : Scatter) (s : State) : (spoilInter c g s).sent = s.sent := by
  unfold spoilInter; dsimp only; split <;> (split <;> simp)
@[simp] theorem spoilInter_cycle (c : Cmd) (g : Scatter) (s : State) : (spoilInter c g s).cycle = s.cycle := by
  unfold spoilInter; dsimp only; split <;> (split <;> simp)
@[simp] theorem spoilInter_bus (c : Cmd) (g : Scatter) (s : State) : (spoilInter c g s).bus = s.bus := by
  unfold spoilInter; dsimp only; split <;> (split <;> simp)
@[simp] theorem spoilInter_tower (c : Cmd) (g : Scatter) (s : State) : (spoilInter c g s).tower = s.tower := by
  unfold spoilInter; dsimp only; split <;> (split <;> simp)
@[simp] theorem spoilInter_tiers (c : Cmd) (g : Scatter) (s : State) : (spoilInter c g s).tiers = s.tiers := by
  unfold spoilInter; dsimp only; split <;> (split <;> simp)
@[simp] theorem spoilInter_queues (c : Cmd) (g : Scatter) (s : State) : (spoilInter c g s).queues = s.queues := by
  unfold spoilInter; dsimp only; split <;> (split <;> simp)
@[simp] theorem spoilInter_arb (c : Cmd) (g : Scatter) (s : State) : (spoilInter c g s).arb = s.arb := by
  unfold spoilInter; dsimp only; split <;> (split <;> simp)
@[simp] theorem spoilInter_cmds (c : Cmd) (g : Scatter) (s : State) : (spoilInter c g s).cmds = s.cmds := by
  unfold spoilInter; dsimp only; split <;> (split <;> simp)
@[simp] theorem spoilInter_nextId (c : Cmd) (g : Scatter) (s : State) : (spoilInter c g s).nextId = s.nextId := by
  unfold spoilInter; dsimp only; split <;> (split <;> simp)
@[simp] theorem spoilInter_ctxs (c : Cmd) (g : Scatter) (s : State) : (spoilInter c g s).ctxs = s.ctxs := by
  unfold spoilInter; dsimp only; split <;> (split <;> simp)
@[simp] theorem spoilInter_valves (c : Cmd) (g : Scatter) (s : State) : (spoilInter c g s).valves = s.valves := by
  unfold spoilInter; dsimp only; split <;> (split <;> simp)
@[simp] theorem spoilInter_mods (c : Cmd) (g : Scatter) (s : State) : (spoilInter c g s).mods = s.mods := by
  unfold spoilInter; dsimp only; split <;> (split <;> simp)
@[simp] theorem spoilInter_tables (c : Cmd) (g : Scatter) (s : State) : (spoilInter c g s).tables = s.tables := by
  unfold spoilInter; dsimp only; split <;> (split <;> simp)
@[simp] theorem spoilInter_slices (c : Cmd) (g : Scatter) (s : State) : (spoilInter c g s).slices = s.slices := by
  unfold spoilInter; dsimp only; split <;> (split <;> simp)
@[simp] theorem spoilInter_flushing (c : Cmd) (g : Scatter) (s : State) : (spoilInter c g s).flushing = s.flushing := by
  unfold spoilInter; dsimp only; split <;> (split <;> simp)
@[simp] theorem spoilInter_refills (c : Cmd) (g : Scatter) (s : State) : (spoilInter c g s).refills = s.refills := by
  unfold spoilInter; dsimp only; split <;> (split <;> simp)
@[simp] theorem spoilInter_waits (c : Cmd) (g : Scatter) (s : State) : (spoilInter c g s).waits = s.waits := by
  unfold spoilInter; dsimp only; split <;> (split <;> simp)
@[simp] theorem spoilInter_geom (c : Cmd) (g : Scatter) (s : State) : (spoilInter c g s).geom = s.geom := by
  unfold spoilInter; dsimp only; split <;> (split <;> simp)
@[simp] theorem spoilInter_drains (c : Cmd) (g : Scatter) (s : State) : (spoilInter c g s).drains = s.drains := by
  unfold spoilInter; dsimp only; split <;> (split <;> simp)
@[simp] theorem spoilInter_fetches (c : Cmd) (g : Scatter) (s : State) : (spoilInter c g s).fetches = s.fetches := by
  unfold spoilInter; dsimp only; split <;> (split <;> simp)
@[simp] theorem spoilInter_nextFetch (c : Cmd) (g : Scatter) (s : State) : (spoilInter c g s).nextFetch = s.nextFetch := by
  unfold spoilInter; dsimp only; split <;> (split <;> simp)
@[simp] theorem spoilInter_partials (c : Cmd) (g : Scatter) (s : State) : (spoilInter c g s).partials = s.partials := by
  unfold spoilInter; dsimp only; split <;> (split <;> simp)
@[simp] theorem spoilInter_nextPart (c : Cmd) (g : Scatter) (s : State) : (spoilInter c g s).nextPart = s.nextPart := by
  unfold spoilInter; dsimp only; split <;> (split <;> simp)
@[simp] theorem spoilInter_descs (c : Cmd) (g : Scatter) (s : State) : (spoilInter c g s).descs = s.descs := by
  unfold spoilInter; dsimp only; split <;> (split <;> simp)
@[simp] theorem spoilInter_host (c : Cmd) (g : Scatter) (s : State) : (spoilInter c g s).host = s.host := by
  unfold spoilInter; dsimp only; split <;> (split <;> simp)
@[simp] theorem spoilInter_place (c : Cmd) (g : Scatter) (s : State) : (spoilInter c g s).place = s.place := by
  unfold spoilInter; dsimp only; split <;> (split <;> simp)
@[simp] theorem spoilInter_remote (c : Cmd) (g : Scatter) (s : State) : (spoilInter c g s).remote = s.remote := by
  unfold spoilInter; dsimp only; split <;> (split <;> simp)
@[simp] theorem spoilInter_errs (c : Cmd) (g : Scatter) (s : State) : (spoilInter c g s).errs = s.errs := by
  unfold spoilInter; dsimp only; split <;> (split <;> simp)
@[simp] theorem spoilInter_hang (c : Cmd) (g : Scatter) (s : State) : (spoilInter c g s).hang = s.hang := by
  unfold spoilInter; dsimp only; split <;> (split <;> simp)
@[simp] theorem spoilInter_rung (c : Cmd) (g : Scatter) (s : State) : (spoilInter c g s).rung = s.rung := by
  unfold spoilInter; dsimp only; split <;> (split <;> simp)
@[simp] theorem spoilInter_dump (c : Cmd) (g : Scatter) (s : State) : (spoilInter c g s).dump = s.dump := by
  unfold spoilInter; dsimp only; split <;> (split <;> simp)
@[simp] theorem spoilInter_units (c : Cmd) (g : Scatter) (s : State) : (spoilInter c g s).units = s.units := by
  unfold spoilInter; dsimp only; split <;> (split <;> simp)
@[simp] theorem spoilInter_mems (c : Cmd) (g : Scatter) (s : State) : (spoilInter c g s).mems = s.mems := by
  unfold spoilInter; dsimp only; split <;> (split <;> simp)
@[simp] theorem spoilInter_repair (c : Cmd) (g : Scatter) (s : State) : (spoilInter c g s).repair = s.repair := by
  unfold spoilInter; dsimp only; split <;> (split <;> simp)
@[simp] theorem spoilInter_sup (c : Cmd) (g : Scatter) (s : State) : (spoilInter c g s).sup = s.sup := by
  unfold spoilInter; dsimp only; split <;> (split <;> simp)
@[simp] theorem spoilInter_fw (c : Cmd) (g : Scatter) (s : State) : (spoilInter c g s).fw = s.fw := by
  unfold spoilInter; dsimp only; split <;> (split <;> simp)
@[simp] theorem spoilInter_ret (c : Cmd) (g : Scatter) (s : State) : (spoilInter c g s).ret = s.ret := by
  unfold spoilInter; dsimp only; split <;> (split <;> simp)
@[simp] theorem spoilInter_i3c (c : Cmd) (g : Scatter) (s : State) : (spoilInter c g s).i3c = s.i3c := by
  unfold spoilInter; dsimp only; split <;> (split <;> simp)
@[simp] theorem spoilInter_pins (c : Cmd) (g : Scatter) (s : State) : (spoilInter c g s).pins = s.pins := by
  unfold spoilInter; dsimp only; split <;> (split <;> simp)

/-! ### endScatter -/

@[simp] theorem endScatter_pending (c : Cmd) (g : Scatter) (st : St) (s : State) : (endScatter c g st s).pending = s.pending := by
  unfold endScatter; dsimp only; repeat' (first | rfl | (simp; done) | split)
@[simp] theorem endScatter_cycle (c : Cmd) (g : Scatter) (st : St) (s : State) : (endScatter c g st s).cycle = s.cycle := by
  unfold endScatter; dsimp only; repeat' (first | rfl | (simp; done) | split)
@[simp] theorem endScatter_bus (c : Cmd) (g : Scatter) (st : St) (s : State) : (endScatter c g st s).bus = s.bus := by
  unfold endScatter; dsimp only; repeat' (first | rfl | (simp; done) | split)
@[simp] theorem endScatter_tower (c : Cmd) (g : Scatter) (st : St) (s : State) : (endScatter c g st s).tower = s.tower := by
  unfold endScatter; dsimp only; repeat' (first | rfl | (simp; done) | split)
@[simp] theorem endScatter_tiers (c : Cmd) (g : Scatter) (st : St) (s : State) : (endScatter c g st s).tiers = s.tiers := by
  unfold endScatter; dsimp only; repeat' (first | rfl | (simp; done) | split)
@[simp] theorem endScatter_queues (c : Cmd) (g : Scatter) (st : St) (s : State) : (endScatter c g st s).queues = s.queues := by
  unfold endScatter; dsimp only; repeat' (first | rfl | (simp; done) | split)
@[simp] theorem endScatter_arb (c : Cmd) (g : Scatter) (st : St) (s : State) : (endScatter c g st s).arb = s.arb := by
  unfold endScatter; dsimp only; repeat' (first | rfl | (simp; done) | split)
@[simp] theorem endScatter_cmds (c : Cmd) (g : Scatter) (st : St) (s : State) : (endScatter c g st s).cmds = s.cmds := by
  unfold endScatter; dsimp only; repeat' (first | rfl | (simp; done) | split)
@[simp] theorem endScatter_nextId (c : Cmd) (g : Scatter) (st : St) (s : State) : (endScatter c g st s).nextId = s.nextId := by
  unfold endScatter; dsimp only; repeat' (first | rfl | (simp; done) | split)
@[simp] theorem endScatter_ctxs (c : Cmd) (g : Scatter) (st : St) (s : State) : (endScatter c g st s).ctxs = s.ctxs := by
  unfold endScatter; dsimp only; repeat' (first | rfl | (simp; done) | split)
@[simp] theorem endScatter_valves (c : Cmd) (g : Scatter) (st : St) (s : State) : (endScatter c g st s).valves = s.valves := by
  unfold endScatter; dsimp only; repeat' (first | rfl | (simp; done) | split)
@[simp] theorem endScatter_mods (c : Cmd) (g : Scatter) (st : St) (s : State) : (endScatter c g st s).mods = s.mods := by
  unfold endScatter; dsimp only; repeat' (first | rfl | (simp; done) | split)
@[simp] theorem endScatter_flushing (c : Cmd) (g : Scatter) (st : St) (s : State) : (endScatter c g st s).flushing = s.flushing := by
  unfold endScatter; dsimp only; repeat' (first | rfl | (simp; done) | split)
@[simp] theorem endScatter_refills (c : Cmd) (g : Scatter) (st : St) (s : State) : (endScatter c g st s).refills = s.refills := by
  unfold endScatter; dsimp only; repeat' (first | rfl | (simp; done) | split)
@[simp] theorem endScatter_waits (c : Cmd) (g : Scatter) (st : St) (s : State) : (endScatter c g st s).waits = s.waits := by
  unfold endScatter; dsimp only; repeat' (first | rfl | (simp; done) | split)
@[simp] theorem endScatter_geom (c : Cmd) (g : Scatter) (st : St) (s : State) : (endScatter c g st s).geom = s.geom := by
  unfold endScatter; dsimp only; repeat' (first | rfl | (simp; done) | split)
@[simp] theorem endScatter_fetches (c : Cmd) (g : Scatter) (st : St) (s : State) : (endScatter c g st s).fetches = s.fetches := by
  unfold endScatter; dsimp only; repeat' (first | rfl | (simp; done) | split)
@[simp] theorem endScatter_nextFetch (c : Cmd) (g : Scatter) (st : St) (s : State) : (endScatter c g st s).nextFetch = s.nextFetch := by
  unfold endScatter; dsimp only; repeat' (first | rfl | (simp; done) | split)
@[simp] theorem endScatter_partials (c : Cmd) (g : Scatter) (st : St) (s : State) : (endScatter c g st s).partials = s.partials := by
  unfold endScatter; dsimp only; repeat' (first | rfl | (simp; done) | split)
@[simp] theorem endScatter_nextPart (c : Cmd) (g : Scatter) (st : St) (s : State) : (endScatter c g st s).nextPart = s.nextPart := by
  unfold endScatter; dsimp only; repeat' (first | rfl | (simp; done) | split)
@[simp] theorem endScatter_descs (c : Cmd) (g : Scatter) (st : St) (s : State) : (endScatter c g st s).descs = s.descs := by
  unfold endScatter; dsimp only; repeat' (first | rfl | (simp; done) | split)
@[simp] theorem endScatter_host (c : Cmd) (g : Scatter) (st : St) (s : State) : (endScatter c g st s).host = s.host := by
  unfold endScatter; dsimp only; repeat' (first | rfl | (simp; done) | split)
@[simp] theorem endScatter_place (c : Cmd) (g : Scatter) (st : St) (s : State) : (endScatter c g st s).place = s.place := by
  unfold endScatter; dsimp only; repeat' (first | rfl | (simp; done) | split)
@[simp] theorem endScatter_remote (c : Cmd) (g : Scatter) (st : St) (s : State) : (endScatter c g st s).remote = s.remote := by
  unfold endScatter; dsimp only; repeat' (first | rfl | (simp; done) | split)
@[simp] theorem endScatter_errs (c : Cmd) (g : Scatter) (st : St) (s : State) : (endScatter c g st s).errs = s.errs := by
  unfold endScatter; dsimp only; repeat' (first | rfl | (simp; done) | split)
@[simp] theorem endScatter_hang (c : Cmd) (g : Scatter) (st : St) (s : State) : (endScatter c g st s).hang = s.hang := by
  unfold endScatter; dsimp only; repeat' (first | rfl | (simp; done) | split)
@[simp] theorem endScatter_rung (c : Cmd) (g : Scatter) (st : St) (s : State) : (endScatter c g st s).rung = s.rung := by
  unfold endScatter; dsimp only; repeat' (first | rfl | (simp; done) | split)
@[simp] theorem endScatter_dump (c : Cmd) (g : Scatter) (st : St) (s : State) : (endScatter c g st s).dump = s.dump := by
  unfold endScatter; dsimp only; repeat' (first | rfl | (simp; done) | split)
@[simp] theorem endScatter_units (c : Cmd) (g : Scatter) (st : St) (s : State) : (endScatter c g st s).units = s.units := by
  unfold endScatter; dsimp only; repeat' (first | rfl | (simp; done) | split)
@[simp] theorem endScatter_mems (c : Cmd) (g : Scatter) (st : St) (s : State) : (endScatter c g st s).mems = s.mems := by
  unfold endScatter; dsimp only; repeat' (first | rfl | (simp; done) | split)
@[simp] theorem endScatter_repair (c : Cmd) (g : Scatter) (st : St) (s : State) : (endScatter c g st s).repair = s.repair := by
  unfold endScatter; dsimp only; repeat' (first | rfl | (simp; done) | split)
@[simp] theorem endScatter_sup (c : Cmd) (g : Scatter) (st : St) (s : State) : (endScatter c g st s).sup = s.sup := by
  unfold endScatter; dsimp only; repeat' (first | rfl | (simp; done) | split)
@[simp] theorem endScatter_fw (c : Cmd) (g : Scatter) (st : St) (s : State) : (endScatter c g st s).fw = s.fw := by
  unfold endScatter; dsimp only; repeat' (first | rfl | (simp; done) | split)
@[simp] theorem endScatter_ret (c : Cmd) (g : Scatter) (st : St) (s : State) : (endScatter c g st s).ret = s.ret := by
  unfold endScatter; dsimp only; repeat' (first | rfl | (simp; done) | split)
@[simp] theorem endScatter_i3c (c : Cmd) (g : Scatter) (st : St) (s : State) : (endScatter c g st s).i3c = s.i3c := by
  unfold endScatter; dsimp only; repeat' (first | rfl | (simp; done) | split)
@[simp] theorem endScatter_pins (c : Cmd) (g : Scatter) (st : St) (s : State) : (endScatter c g st s).pins = s.pins := by
  unfold endScatter; dsimp only; repeat' (first | rfl | (simp; done) | split)

/-! ### dropPending -/

@[simp] theorem dropPending_pending (id : Nat) (s : State) : (dropPending id s).pending = s.pending := rfl
@[simp] theorem dropPending_freeCtr (id : Nat) (s : State) : (dropPending id s).freeCtr = s.freeCtr := rfl
@[simp] theorem dropPending_sent (id : Nat) (s : State) : (dropPending id s).sent = s.sent := rfl
@[simp] theorem dropPending_cycle (id : Nat) (s : State) : (dropPending id s).cycle = s.cycle := rfl
@[simp] theorem dropPending_bus (id : Nat) (s : State) : (dropPending id s).bus = s.bus := rfl
@[simp] theorem dropPending_tower (id : Nat) (s : State) : (dropPending id s).tower = s.tower := rfl
@[simp] theorem dropPending_regs (id : Nat) (s : State) : (dropPending id s).regs = s.regs := rfl
@[simp] theorem dropPending_mem (id : Nat) (s : State) : (dropPending id s).mem = s.mem := rfl
@[simp] theorem dropPending_tiers (id : Nat) (s : State) : (dropPending id s).tiers = s.tiers := rfl
@[simp] theorem dropPending_queues (id : Nat) (s : State) : (dropPending id s).queues = s.queues := rfl
@[simp] theorem dropPending_arb (id : Nat) (s : State) : (dropPending id s).arb = s.arb := rfl
@[simp] theorem dropPending_cmds (id : Nat) (s : State) : (dropPending id s).cmds = s.cmds := rfl
@[simp] theorem dropPending_nextId (id : Nat) (s : State) : (dropPending id s).nextId = s.nextId := rfl
@[simp] theorem dropPending_ctxs (id : Nat) (s : State) : (dropPending id s).ctxs = s.ctxs := rfl
@[simp] theorem dropPending_valves (id : Nat) (s : State) : (dropPending id s).valves = s.valves := rfl
@[simp] theorem dropPending_mods (id : Nat) (s : State) : (dropPending id s).mods = s.mods := rfl
@[simp] theorem dropPending_tables (id : Nat) (s : State) : (dropPending id s).tables = s.tables := rfl
@[simp] theorem dropPending_flushing (id : Nat) (s : State) : (dropPending id s).flushing = s.flushing := rfl
@[simp] theorem dropPending_refills (id : Nat) (s : State) : (dropPending id s).refills = s.refills := rfl
@[simp] theorem dropPending_waits (id : Nat) (s : State) : (dropPending id s).waits = s.waits := rfl
@[simp] theorem dropPending_geom (id : Nat) (s : State) : (dropPending id s).geom = s.geom := rfl
@[simp] theorem dropPending_lehr (id : Nat) (s : State) : (dropPending id s).lehr = s.lehr := rfl
@[simp] theorem dropPending_drains (id : Nat) (s : State) : (dropPending id s).drains = s.drains := rfl
@[simp] theorem dropPending_fetches (id : Nat) (s : State) : (dropPending id s).fetches = s.fetches := rfl
@[simp] theorem dropPending_nextFetch (id : Nat) (s : State) : (dropPending id s).nextFetch = s.nextFetch := rfl
@[simp] theorem dropPending_partials (id : Nat) (s : State) : (dropPending id s).partials = s.partials := rfl
@[simp] theorem dropPending_nextPart (id : Nat) (s : State) : (dropPending id s).nextPart = s.nextPart := rfl
@[simp] theorem dropPending_descs (id : Nat) (s : State) : (dropPending id s).descs = s.descs := rfl
@[simp] theorem dropPending_host (id : Nat) (s : State) : (dropPending id s).host = s.host := rfl
@[simp] theorem dropPending_place (id : Nat) (s : State) : (dropPending id s).place = s.place := rfl
@[simp] theorem dropPending_remote (id : Nat) (s : State) : (dropPending id s).remote = s.remote := rfl
@[simp] theorem dropPending_errs (id : Nat) (s : State) : (dropPending id s).errs = s.errs := rfl
@[simp] theorem dropPending_hang (id : Nat) (s : State) : (dropPending id s).hang = s.hang := rfl
@[simp] theorem dropPending_rung (id : Nat) (s : State) : (dropPending id s).rung = s.rung := rfl
@[simp] theorem dropPending_dump (id : Nat) (s : State) : (dropPending id s).dump = s.dump := rfl
@[simp] theorem dropPending_units (id : Nat) (s : State) : (dropPending id s).units = s.units := rfl
@[simp] theorem dropPending_mems (id : Nat) (s : State) : (dropPending id s).mems = s.mems := rfl
@[simp] theorem dropPending_repair (id : Nat) (s : State) : (dropPending id s).repair = s.repair := rfl
@[simp] theorem dropPending_sup (id : Nat) (s : State) : (dropPending id s).sup = s.sup := rfl
@[simp] theorem dropPending_fw (id : Nat) (s : State) : (dropPending id s).fw = s.fw := rfl
@[simp] theorem dropPending_ret (id : Nat) (s : State) : (dropPending id s).ret = s.ret := rfl
@[simp] theorem dropPending_i3c (id : Nat) (s : State) : (dropPending id s).i3c = s.i3c := rfl
@[simp] theorem dropPending_pins (id : Nat) (s : State) : (dropPending id s).pins = s.pins := rfl

/-! ### endMerge -/

@[simp] theorem endMerge_pending (c : Cmd) (s : State) : (endMerge c s).pending = s.pending := by
  simp [endMerge]
@[simp] theorem endMerge_freeCtr (c : Cmd) (s : State) : (endMerge c s).freeCtr = s.freeCtr := by
  simp [endMerge]
@[simp] theorem endMerge_sent (c : Cmd) (s : State) : (endMerge c s).sent = s.sent := by
  simp [endMerge]
@[simp] theorem endMerge_cycle (c : Cmd) (s : State) : (endMerge c s).cycle = s.cycle := by
  simp [endMerge]
@[simp] theorem endMerge_bus (c : Cmd) (s : State) : (endMerge c s).bus = s.bus := by
  simp [endMerge]
@[simp] theorem endMerge_tower (c : Cmd) (s : State) : (endMerge c s).tower = s.tower := by
  simp [endMerge]
@[simp] theorem endMerge_regs (c : Cmd) (s : State) : (endMerge c s).regs = s.regs := by
  simp [endMerge]
@[simp] theorem endMerge_mem (c : Cmd) (s : State) : (endMerge c s).mem = s.mem := by
  simp [endMerge]
@[simp] theorem endMerge_tiers (c : Cmd) (s : State) : (endMerge c s).tiers = s.tiers := by
  simp [endMerge]
@[simp] theorem endMerge_queues (c : Cmd) (s : State) : (endMerge c s).queues = s.queues := by
  simp [endMerge]
@[simp] theorem endMerge_arb (c : Cmd) (s : State) : (endMerge c s).arb = s.arb := by
  simp [endMerge]
@[simp] theorem endMerge_cmds (c : Cmd) (s : State) : (endMerge c s).cmds = s.cmds := by
  simp [endMerge]
@[simp] theorem endMerge_nextId (c : Cmd) (s : State) : (endMerge c s).nextId = s.nextId := by
  simp [endMerge]
@[simp] theorem endMerge_ctxs (c : Cmd) (s : State) : (endMerge c s).ctxs = s.ctxs := by
  simp [endMerge]
@[simp] theorem endMerge_valves (c : Cmd) (s : State) : (endMerge c s).valves = s.valves := by
  simp [endMerge]
@[simp] theorem endMerge_mods (c : Cmd) (s : State) : (endMerge c s).mods = s.mods := by
  simp [endMerge]
@[simp] theorem endMerge_flushing (c : Cmd) (s : State) : (endMerge c s).flushing = s.flushing := by
  simp [endMerge]
@[simp] theorem endMerge_refills (c : Cmd) (s : State) : (endMerge c s).refills = s.refills := by
  simp [endMerge]
@[simp] theorem endMerge_waits (c : Cmd) (s : State) : (endMerge c s).waits = s.waits := by
  simp [endMerge]
@[simp] theorem endMerge_geom (c : Cmd) (s : State) : (endMerge c s).geom = s.geom := by
  simp [endMerge]
@[simp] theorem endMerge_lehr (c : Cmd) (s : State) : (endMerge c s).lehr = s.lehr := by
  simp [endMerge]
@[simp] theorem endMerge_drains (c : Cmd) (s : State) : (endMerge c s).drains = s.drains := by
  simp [endMerge]
@[simp] theorem endMerge_fetches (c : Cmd) (s : State) : (endMerge c s).fetches = s.fetches := by
  simp [endMerge]
@[simp] theorem endMerge_nextFetch (c : Cmd) (s : State) : (endMerge c s).nextFetch = s.nextFetch := by
  simp [endMerge]
@[simp] theorem endMerge_partials (c : Cmd) (s : State) : (endMerge c s).partials = s.partials := by
  simp [endMerge]
@[simp] theorem endMerge_nextPart (c : Cmd) (s : State) : (endMerge c s).nextPart = s.nextPart := by
  simp [endMerge]
@[simp] theorem endMerge_descs (c : Cmd) (s : State) : (endMerge c s).descs = s.descs := by
  simp [endMerge]
@[simp] theorem endMerge_host (c : Cmd) (s : State) : (endMerge c s).host = s.host := by
  simp [endMerge]
@[simp] theorem endMerge_place (c : Cmd) (s : State) : (endMerge c s).place = s.place := by
  simp [endMerge]
@[simp] theorem endMerge_remote (c : Cmd) (s : State) : (endMerge c s).remote = s.remote := by
  simp [endMerge]
@[simp] theorem endMerge_errs (c : Cmd) (s : State) : (endMerge c s).errs = s.errs := by
  simp [endMerge]
@[simp] theorem endMerge_hang (c : Cmd) (s : State) : (endMerge c s).hang = s.hang := by
  simp [endMerge]
@[simp] theorem endMerge_rung (c : Cmd) (s : State) : (endMerge c s).rung = s.rung := by
  simp [endMerge]
@[simp] theorem endMerge_dump (c : Cmd) (s : State) : (endMerge c s).dump = s.dump := by
  simp [endMerge]
@[simp] theorem endMerge_units (c : Cmd) (s : State) : (endMerge c s).units = s.units := by
  simp [endMerge]
@[simp] theorem endMerge_mems (c : Cmd) (s : State) : (endMerge c s).mems = s.mems := by
  simp [endMerge]
@[simp] theorem endMerge_repair (c : Cmd) (s : State) : (endMerge c s).repair = s.repair := by
  simp [endMerge]
@[simp] theorem endMerge_sup (c : Cmd) (s : State) : (endMerge c s).sup = s.sup := by
  simp [endMerge]
@[simp] theorem endMerge_fw (c : Cmd) (s : State) : (endMerge c s).fw = s.fw := by
  simp [endMerge]
@[simp] theorem endMerge_ret (c : Cmd) (s : State) : (endMerge c s).ret = s.ret := by
  simp [endMerge]
@[simp] theorem endMerge_i3c (c : Cmd) (s : State) : (endMerge c s).i3c = s.i3c := by
  simp [endMerge]
@[simp] theorem endMerge_pins (c : Cmd) (s : State) : (endMerge c s).pins = s.pins := by
  simp [endMerge]

/-! ### releaseMoves -/

@[simp] theorem releaseMoves_pending (id : Nat) (s : State) : (releaseMoves id s).pending = s.pending := rfl
@[simp] theorem releaseMoves_freeCtr (id : Nat) (s : State) : (releaseMoves id s).freeCtr = s.freeCtr := rfl
@[simp] theorem releaseMoves_sent (id : Nat) (s : State) : (releaseMoves id s).sent = s.sent := rfl
@[simp] theorem releaseMoves_cycle (id : Nat) (s : State) : (releaseMoves id s).cycle = s.cycle := rfl
@[simp] theorem releaseMoves_bus (id : Nat) (s : State) : (releaseMoves id s).bus = s.bus := rfl
@[simp] theorem releaseMoves_tower (id : Nat) (s : State) : (releaseMoves id s).tower = s.tower := rfl
@[simp] theorem releaseMoves_regs (id : Nat) (s : State) : (releaseMoves id s).regs = s.regs := rfl
@[simp] theorem releaseMoves_mem (id : Nat) (s : State) : (releaseMoves id s).mem = s.mem := rfl
@[simp] theorem releaseMoves_tiers (id : Nat) (s : State) : (releaseMoves id s).tiers = s.tiers := rfl
@[simp] theorem releaseMoves_queues (id : Nat) (s : State) : (releaseMoves id s).queues = s.queues := rfl
@[simp] theorem releaseMoves_arb (id : Nat) (s : State) : (releaseMoves id s).arb = s.arb := rfl
@[simp] theorem releaseMoves_cmds (id : Nat) (s : State) : (releaseMoves id s).cmds = s.cmds := rfl
@[simp] theorem releaseMoves_nextId (id : Nat) (s : State) : (releaseMoves id s).nextId = s.nextId := rfl
@[simp] theorem releaseMoves_ctxs (id : Nat) (s : State) : (releaseMoves id s).ctxs = s.ctxs := rfl
@[simp] theorem releaseMoves_valves (id : Nat) (s : State) : (releaseMoves id s).valves = s.valves := rfl
@[simp] theorem releaseMoves_mods (id : Nat) (s : State) : (releaseMoves id s).mods = s.mods := rfl
@[simp] theorem releaseMoves_tables (id : Nat) (s : State) : (releaseMoves id s).tables = s.tables := rfl
@[simp] theorem releaseMoves_slices (id : Nat) (s : State) : (releaseMoves id s).slices = s.slices := rfl
@[simp] theorem releaseMoves_flushing (id : Nat) (s : State) : (releaseMoves id s).flushing = s.flushing := rfl
@[simp] theorem releaseMoves_refills (id : Nat) (s : State) : (releaseMoves id s).refills = s.refills := rfl
@[simp] theorem releaseMoves_waits (id : Nat) (s : State) : (releaseMoves id s).waits = s.waits := rfl
@[simp] theorem releaseMoves_geom (id : Nat) (s : State) : (releaseMoves id s).geom = s.geom := rfl
@[simp] theorem releaseMoves_lehr (id : Nat) (s : State) : (releaseMoves id s).lehr = s.lehr := rfl
@[simp] theorem releaseMoves_drains (id : Nat) (s : State) : (releaseMoves id s).drains = s.drains := rfl
@[simp] theorem releaseMoves_fetches (id : Nat) (s : State) : (releaseMoves id s).fetches = s.fetches := rfl
@[simp] theorem releaseMoves_nextFetch (id : Nat) (s : State) : (releaseMoves id s).nextFetch = s.nextFetch := rfl
@[simp] theorem releaseMoves_partials (id : Nat) (s : State) : (releaseMoves id s).partials = s.partials := rfl
@[simp] theorem releaseMoves_nextPart (id : Nat) (s : State) : (releaseMoves id s).nextPart = s.nextPart := rfl
@[simp] theorem releaseMoves_descs (id : Nat) (s : State) : (releaseMoves id s).descs = s.descs := rfl
@[simp] theorem releaseMoves_host (id : Nat) (s : State) : (releaseMoves id s).host = s.host := rfl
@[simp] theorem releaseMoves_remote (id : Nat) (s : State) : (releaseMoves id s).remote = s.remote := rfl
@[simp] theorem releaseMoves_errs (id : Nat) (s : State) : (releaseMoves id s).errs = s.errs := rfl
@[simp] theorem releaseMoves_hang (id : Nat) (s : State) : (releaseMoves id s).hang = s.hang := rfl
@[simp] theorem releaseMoves_rung (id : Nat) (s : State) : (releaseMoves id s).rung = s.rung := rfl
@[simp] theorem releaseMoves_dump (id : Nat) (s : State) : (releaseMoves id s).dump = s.dump := rfl
@[simp] theorem releaseMoves_units (id : Nat) (s : State) : (releaseMoves id s).units = s.units := rfl
@[simp] theorem releaseMoves_mems (id : Nat) (s : State) : (releaseMoves id s).mems = s.mems := rfl
@[simp] theorem releaseMoves_repair (id : Nat) (s : State) : (releaseMoves id s).repair = s.repair := rfl
@[simp] theorem releaseMoves_sup (id : Nat) (s : State) : (releaseMoves id s).sup = s.sup := rfl
@[simp] theorem releaseMoves_fw (id : Nat) (s : State) : (releaseMoves id s).fw = s.fw := rfl
@[simp] theorem releaseMoves_ret (id : Nat) (s : State) : (releaseMoves id s).ret = s.ret := rfl
@[simp] theorem releaseMoves_i3c (id : Nat) (s : State) : (releaseMoves id s).i3c = s.i3c := rfl
@[simp] theorem releaseMoves_pins (id : Nat) (s : State) : (releaseMoves id s).pins = s.pins := rfl

/-! ### endRows -/

@[simp] theorem endRows_pending (c : Cmd) (s : State) : (endRows c s).pending = s.pending := by
  simp [endRows]
@[simp] theorem endRows_freeCtr (c : Cmd) (s : State) : (endRows c s).freeCtr = s.freeCtr := by
  simp [endRows]
@[simp] theorem endRows_sent (c : Cmd) (s : State) : (endRows c s).sent = s.sent := by
  simp [endRows]
@[simp] theorem endRows_cycle (c : Cmd) (s : State) : (endRows c s).cycle = s.cycle := by
  simp [endRows]
@[simp] theorem endRows_bus (c : Cmd) (s : State) : (endRows c s).bus = s.bus := by
  simp [endRows]
@[simp] theorem endRows_tower (c : Cmd) (s : State) : (endRows c s).tower = s.tower := by
  simp [endRows]
@[simp] theorem endRows_regs (c : Cmd) (s : State) : (endRows c s).regs = s.regs := by
  simp [endRows]
@[simp] theorem endRows_mem (c : Cmd) (s : State) : (endRows c s).mem = s.mem := by
  simp [endRows]
@[simp] theorem endRows_tiers (c : Cmd) (s : State) : (endRows c s).tiers = s.tiers := by
  simp [endRows]
@[simp] theorem endRows_queues (c : Cmd) (s : State) : (endRows c s).queues = s.queues := by
  simp [endRows]
@[simp] theorem endRows_arb (c : Cmd) (s : State) : (endRows c s).arb = s.arb := by
  simp [endRows]
@[simp] theorem endRows_cmds (c : Cmd) (s : State) : (endRows c s).cmds = s.cmds := by
  simp [endRows]
@[simp] theorem endRows_nextId (c : Cmd) (s : State) : (endRows c s).nextId = s.nextId := by
  simp [endRows]
@[simp] theorem endRows_ctxs (c : Cmd) (s : State) : (endRows c s).ctxs = s.ctxs := by
  simp [endRows]
@[simp] theorem endRows_valves (c : Cmd) (s : State) : (endRows c s).valves = s.valves := by
  simp [endRows]
@[simp] theorem endRows_mods (c : Cmd) (s : State) : (endRows c s).mods = s.mods := by
  simp [endRows]
@[simp] theorem endRows_flushing (c : Cmd) (s : State) : (endRows c s).flushing = s.flushing := by
  simp [endRows]
@[simp] theorem endRows_refills (c : Cmd) (s : State) : (endRows c s).refills = s.refills := by
  simp [endRows]
@[simp] theorem endRows_waits (c : Cmd) (s : State) : (endRows c s).waits = s.waits := by
  simp [endRows]
@[simp] theorem endRows_geom (c : Cmd) (s : State) : (endRows c s).geom = s.geom := by
  simp [endRows]
@[simp] theorem endRows_lehr (c : Cmd) (s : State) : (endRows c s).lehr = s.lehr := by
  simp [endRows]
@[simp] theorem endRows_drains (c : Cmd) (s : State) : (endRows c s).drains = s.drains := by
  simp [endRows]
@[simp] theorem endRows_fetches (c : Cmd) (s : State) : (endRows c s).fetches = s.fetches := by
  simp [endRows]
@[simp] theorem endRows_nextFetch (c : Cmd) (s : State) : (endRows c s).nextFetch = s.nextFetch := by
  simp [endRows]
@[simp] theorem endRows_partials (c : Cmd) (s : State) : (endRows c s).partials = s.partials := by
  simp [endRows]
@[simp] theorem endRows_nextPart (c : Cmd) (s : State) : (endRows c s).nextPart = s.nextPart := by
  simp [endRows]
@[simp] theorem endRows_descs (c : Cmd) (s : State) : (endRows c s).descs = s.descs := by
  simp [endRows]
@[simp] theorem endRows_host (c : Cmd) (s : State) : (endRows c s).host = s.host := by
  simp [endRows]
@[simp] theorem endRows_remote (c : Cmd) (s : State) : (endRows c s).remote = s.remote := by
  simp [endRows]
@[simp] theorem endRows_errs (c : Cmd) (s : State) : (endRows c s).errs = s.errs := by
  simp [endRows]
@[simp] theorem endRows_hang (c : Cmd) (s : State) : (endRows c s).hang = s.hang := by
  simp [endRows]
@[simp] theorem endRows_rung (c : Cmd) (s : State) : (endRows c s).rung = s.rung := by
  simp [endRows]
@[simp] theorem endRows_dump (c : Cmd) (s : State) : (endRows c s).dump = s.dump := by
  simp [endRows]
@[simp] theorem endRows_units (c : Cmd) (s : State) : (endRows c s).units = s.units := by
  simp [endRows]
@[simp] theorem endRows_mems (c : Cmd) (s : State) : (endRows c s).mems = s.mems := by
  simp [endRows]
@[simp] theorem endRows_repair (c : Cmd) (s : State) : (endRows c s).repair = s.repair := by
  simp [endRows]
@[simp] theorem endRows_sup (c : Cmd) (s : State) : (endRows c s).sup = s.sup := by
  simp [endRows]
@[simp] theorem endRows_fw (c : Cmd) (s : State) : (endRows c s).fw = s.fw := by
  simp [endRows]
@[simp] theorem endRows_ret (c : Cmd) (s : State) : (endRows c s).ret = s.ret := by
  simp [endRows]
@[simp] theorem endRows_i3c (c : Cmd) (s : State) : (endRows c s).i3c = s.i3c := by
  simp [endRows]
@[simp] theorem endRows_pins (c : Cmd) (s : State) : (endRows c s).pins = s.pins := by
  simp [endRows]

/-! ### endStream -/

@[simp] theorem endStream_pending (c : Cmd) (s : State) : (endStream c s).pending = s.pending := by
  unfold endStream; dsimp only; split
  · exact (foldl_keep (fun t : State => t.pending) _ (fun _ _ => by simp) _ _).trans (by simp)
  · split <;> simp
@[simp] theorem endStream_freeCtr (c : Cmd) (s : State) : (endStream c s).freeCtr = s.freeCtr := by
  unfold endStream; dsimp only; split
  · exact (foldl_keep (fun t : State => t.freeCtr) _ (fun _ _ => by simp) _ _).trans (by simp)
  · split <;> simp
@[simp] theorem endStream_sent (c : Cmd) (s : State) : (endStream c s).sent = s.sent := by
  unfold endStream; dsimp only; split
  · exact (foldl_keep (fun t : State => t.sent) _ (fun _ _ => by simp) _ _).trans (by simp)
  · split <;> simp
@[simp] theorem endStream_cycle (c : Cmd) (s : State) : (endStream c s).cycle = s.cycle := by
  unfold endStream; dsimp only; split
  · exact (foldl_keep (fun t : State => t.cycle) _ (fun _ _ => by simp) _ _).trans (by simp)
  · split <;> simp
@[simp] theorem endStream_bus (c : Cmd) (s : State) : (endStream c s).bus = s.bus := by
  unfold endStream; dsimp only; split
  · exact (foldl_keep (fun t : State => t.bus) _ (fun _ _ => by simp) _ _).trans (by simp)
  · split <;> simp
@[simp] theorem endStream_tower (c : Cmd) (s : State) : (endStream c s).tower = s.tower := by
  unfold endStream; dsimp only; split
  · exact (foldl_keep (fun t : State => t.tower) _ (fun _ _ => by simp) _ _).trans (by simp)
  · split <;> simp
@[simp] theorem endStream_regs (c : Cmd) (s : State) : (endStream c s).regs = s.regs := by
  unfold endStream; dsimp only; split
  · exact (foldl_keep (fun t : State => t.regs) _ (fun _ _ => by simp) _ _).trans (by simp)
  · split <;> simp
@[simp] theorem endStream_mem (c : Cmd) (s : State) : (endStream c s).mem = s.mem := by
  unfold endStream; dsimp only; split
  · exact (foldl_keep (fun t : State => t.mem) _ (fun _ _ => by simp) _ _).trans (by simp)
  · split <;> simp
@[simp] theorem endStream_tiers (c : Cmd) (s : State) : (endStream c s).tiers = s.tiers := by
  unfold endStream; dsimp only; split
  · exact (foldl_keep (fun t : State => t.tiers) _ (fun _ _ => by simp) _ _).trans (by simp)
  · split <;> simp
@[simp] theorem endStream_queues (c : Cmd) (s : State) : (endStream c s).queues = s.queues := by
  unfold endStream; dsimp only; split
  · exact (foldl_keep (fun t : State => t.queues) _ (fun _ _ => by simp) _ _).trans (by simp)
  · split <;> simp
@[simp] theorem endStream_arb (c : Cmd) (s : State) : (endStream c s).arb = s.arb := by
  unfold endStream; dsimp only; split
  · exact (foldl_keep (fun t : State => t.arb) _ (fun _ _ => by simp) _ _).trans (by simp)
  · split <;> simp
@[simp] theorem endStream_nextId (c : Cmd) (s : State) : (endStream c s).nextId = s.nextId := by
  unfold endStream; dsimp only; split
  · exact (foldl_keep (fun t : State => t.nextId) _ (fun _ _ => by simp) _ _).trans (by simp)
  · split <;> simp
@[simp] theorem endStream_ctxs (c : Cmd) (s : State) : (endStream c s).ctxs = s.ctxs := by
  unfold endStream; dsimp only; split
  · exact (foldl_keep (fun t : State => t.ctxs) _ (fun _ _ => by simp) _ _).trans (by simp)
  · split <;> simp
@[simp] theorem endStream_valves (c : Cmd) (s : State) : (endStream c s).valves = s.valves := by
  unfold endStream; dsimp only; split
  · exact (foldl_keep (fun t : State => t.valves) _ (fun _ _ => by simp) _ _).trans (by simp)
  · split <;> simp
@[simp] theorem endStream_mods (c : Cmd) (s : State) : (endStream c s).mods = s.mods := by
  unfold endStream; dsimp only; split
  · exact (foldl_keep (fun t : State => t.mods) _ (fun _ _ => by simp) _ _).trans (by simp)
  · split <;> simp
@[simp] theorem endStream_tables (c : Cmd) (s : State) : (endStream c s).tables = s.tables := by
  unfold endStream; dsimp only; split
  · exact (foldl_keep (fun t : State => t.tables) _ (fun _ _ => by simp) _ _).trans (by simp)
  · split <;> simp
@[simp] theorem endStream_slices (c : Cmd) (s : State) : (endStream c s).slices = s.slices := by
  unfold endStream; dsimp only; split
  · exact (foldl_keep (fun t : State => t.slices) _ (fun _ _ => by simp) _ _).trans (by simp)
  · split <;> simp
@[simp] theorem endStream_flushing (c : Cmd) (s : State) : (endStream c s).flushing = s.flushing := by
  unfold endStream; dsimp only; split
  · exact (foldl_keep (fun t : State => t.flushing) _ (fun _ _ => by simp) _ _).trans (by simp)
  · split <;> simp
@[simp] theorem endStream_refills (c : Cmd) (s : State) : (endStream c s).refills = s.refills := by
  unfold endStream; dsimp only; split
  · exact (foldl_keep (fun t : State => t.refills) _ (fun _ _ => by simp) _ _).trans (by simp)
  · split <;> simp
@[simp] theorem endStream_waits (c : Cmd) (s : State) : (endStream c s).waits = s.waits := by
  unfold endStream; dsimp only; split
  · exact (foldl_keep (fun t : State => t.waits) _ (fun _ _ => by simp) _ _).trans (by simp)
  · split <;> simp
@[simp] theorem endStream_geom (c : Cmd) (s : State) : (endStream c s).geom = s.geom := by
  unfold endStream; dsimp only; split
  · exact (foldl_keep (fun t : State => t.geom) _ (fun _ _ => by simp) _ _).trans (by simp)
  · split <;> simp
@[simp] theorem endStream_lehr (c : Cmd) (s : State) : (endStream c s).lehr = s.lehr := by
  unfold endStream; dsimp only; split
  · exact (foldl_keep (fun t : State => t.lehr) _ (fun _ _ => by simp) _ _).trans (by simp)
  · split <;> simp
@[simp] theorem endStream_drains (c : Cmd) (s : State) : (endStream c s).drains = s.drains := by
  unfold endStream; dsimp only; split
  · exact (foldl_keep (fun t : State => t.drains) _ (fun _ _ => by simp) _ _).trans (by simp)
  · split <;> simp
@[simp] theorem endStream_fetches (c : Cmd) (s : State) : (endStream c s).fetches = s.fetches := by
  unfold endStream; dsimp only; split
  · exact (foldl_keep (fun t : State => t.fetches) _ (fun _ _ => by simp) _ _).trans (by simp)
  · split <;> simp
@[simp] theorem endStream_nextFetch (c : Cmd) (s : State) : (endStream c s).nextFetch = s.nextFetch := by
  unfold endStream; dsimp only; split
  · exact (foldl_keep (fun t : State => t.nextFetch) _ (fun _ _ => by simp) _ _).trans (by simp)
  · split <;> simp
@[simp] theorem endStream_partials (c : Cmd) (s : State) : (endStream c s).partials = s.partials := by
  unfold endStream; dsimp only; split
  · exact (foldl_keep (fun t : State => t.partials) _ (fun _ _ => by simp) _ _).trans (by simp)
  · split <;> simp
@[simp] theorem endStream_nextPart (c : Cmd) (s : State) : (endStream c s).nextPart = s.nextPart := by
  unfold endStream; dsimp only; split
  · exact (foldl_keep (fun t : State => t.nextPart) _ (fun _ _ => by simp) _ _).trans (by simp)
  · split <;> simp
@[simp] theorem endStream_host (c : Cmd) (s : State) : (endStream c s).host = s.host := by
  unfold endStream; dsimp only; split
  · exact (foldl_keep (fun t : State => t.host) _ (fun _ _ => by simp) _ _).trans (by simp)
  · split <;> simp
@[simp] theorem endStream_place (c : Cmd) (s : State) : (endStream c s).place = s.place := by
  unfold endStream; dsimp only; split
  · exact (foldl_keep (fun t : State => t.place) _ (fun _ _ => by simp) _ _).trans (by simp)
  · split <;> simp
@[simp] theorem endStream_remote (c : Cmd) (s : State) : (endStream c s).remote = s.remote := by
  unfold endStream; dsimp only; split
  · exact (foldl_keep (fun t : State => t.remote) _ (fun _ _ => by simp) _ _).trans (by simp)
  · split <;> simp
@[simp] theorem endStream_errs (c : Cmd) (s : State) : (endStream c s).errs = s.errs := by
  unfold endStream; dsimp only; split
  · exact (foldl_keep (fun t : State => t.errs) _ (fun _ _ => by simp) _ _).trans (by simp)
  · split <;> simp
@[simp] theorem endStream_hang (c : Cmd) (s : State) : (endStream c s).hang = s.hang := by
  unfold endStream; dsimp only; split
  · exact (foldl_keep (fun t : State => t.hang) _ (fun _ _ => by simp) _ _).trans (by simp)
  · split <;> simp
@[simp] theorem endStream_rung (c : Cmd) (s : State) : (endStream c s).rung = s.rung := by
  unfold endStream; dsimp only; split
  · exact (foldl_keep (fun t : State => t.rung) _ (fun _ _ => by simp) _ _).trans (by simp)
  · split <;> simp
@[simp] theorem endStream_dump (c : Cmd) (s : State) : (endStream c s).dump = s.dump := by
  unfold endStream; dsimp only; split
  · exact (foldl_keep (fun t : State => t.dump) _ (fun _ _ => by simp) _ _).trans (by simp)
  · split <;> simp
@[simp] theorem endStream_units (c : Cmd) (s : State) : (endStream c s).units = s.units := by
  unfold endStream; dsimp only; split
  · exact (foldl_keep (fun t : State => t.units) _ (fun _ _ => by simp) _ _).trans (by simp)
  · split <;> simp
@[simp] theorem endStream_mems (c : Cmd) (s : State) : (endStream c s).mems = s.mems := by
  unfold endStream; dsimp only; split
  · exact (foldl_keep (fun t : State => t.mems) _ (fun _ _ => by simp) _ _).trans (by simp)
  · split <;> simp
@[simp] theorem endStream_repair (c : Cmd) (s : State) : (endStream c s).repair = s.repair := by
  unfold endStream; dsimp only; split
  · exact (foldl_keep (fun t : State => t.repair) _ (fun _ _ => by simp) _ _).trans (by simp)
  · split <;> simp
@[simp] theorem endStream_sup (c : Cmd) (s : State) : (endStream c s).sup = s.sup := by
  unfold endStream; dsimp only; split
  · exact (foldl_keep (fun t : State => t.sup) _ (fun _ _ => by simp) _ _).trans (by simp)
  · split <;> simp
@[simp] theorem endStream_fw (c : Cmd) (s : State) : (endStream c s).fw = s.fw := by
  unfold endStream; dsimp only; split
  · exact (foldl_keep (fun t : State => t.fw) _ (fun _ _ => by simp) _ _).trans (by simp)
  · split <;> simp
@[simp] theorem endStream_ret (c : Cmd) (s : State) : (endStream c s).ret = s.ret := by
  unfold endStream; dsimp only; split
  · exact (foldl_keep (fun t : State => t.ret) _ (fun _ _ => by simp) _ _).trans (by simp)
  · split <;> simp
@[simp] theorem endStream_i3c (c : Cmd) (s : State) : (endStream c s).i3c = s.i3c := by
  unfold endStream; dsimp only; split
  · exact (foldl_keep (fun t : State => t.i3c) _ (fun _ _ => by simp) _ _).trans (by simp)
  · split <;> simp
@[simp] theorem endStream_pins (c : Cmd) (s : State) : (endStream c s).pins = s.pins := by
  unfold endStream; dsimp only; split
  · exact (foldl_keep (fun t : State => t.pins) _ (fun _ _ => by simp) _ _).trans (by simp)
  · split <;> simp

/-! ### dropWaits -/

@[simp] theorem dropWaits_pending (id : Nat) (s : State) : (dropWaits id s).pending = s.pending := rfl
@[simp] theorem dropWaits_freeCtr (id : Nat) (s : State) : (dropWaits id s).freeCtr = s.freeCtr := rfl
@[simp] theorem dropWaits_sent (id : Nat) (s : State) : (dropWaits id s).sent = s.sent := rfl
@[simp] theorem dropWaits_cycle (id : Nat) (s : State) : (dropWaits id s).cycle = s.cycle := rfl
@[simp] theorem dropWaits_bus (id : Nat) (s : State) : (dropWaits id s).bus = s.bus := rfl
@[simp] theorem dropWaits_tower (id : Nat) (s : State) : (dropWaits id s).tower = s.tower := rfl
@[simp] theorem dropWaits_regs (id : Nat) (s : State) : (dropWaits id s).regs = s.regs := rfl
@[simp] theorem dropWaits_mem (id : Nat) (s : State) : (dropWaits id s).mem = s.mem := rfl
@[simp] theorem dropWaits_tiers (id : Nat) (s : State) : (dropWaits id s).tiers = s.tiers := rfl
@[simp] theorem dropWaits_queues (id : Nat) (s : State) : (dropWaits id s).queues = s.queues := rfl
@[simp] theorem dropWaits_arb (id : Nat) (s : State) : (dropWaits id s).arb = s.arb := rfl
@[simp] theorem dropWaits_cmds (id : Nat) (s : State) : (dropWaits id s).cmds = s.cmds := rfl
@[simp] theorem dropWaits_nextId (id : Nat) (s : State) : (dropWaits id s).nextId = s.nextId := rfl
@[simp] theorem dropWaits_ctxs (id : Nat) (s : State) : (dropWaits id s).ctxs = s.ctxs := rfl
@[simp] theorem dropWaits_valves (id : Nat) (s : State) : (dropWaits id s).valves = s.valves := rfl
@[simp] theorem dropWaits_mods (id : Nat) (s : State) : (dropWaits id s).mods = s.mods := rfl
@[simp] theorem dropWaits_tables (id : Nat) (s : State) : (dropWaits id s).tables = s.tables := rfl
@[simp] theorem dropWaits_flushing (id : Nat) (s : State) : (dropWaits id s).flushing = s.flushing := rfl
@[simp] theorem dropWaits_refills (id : Nat) (s : State) : (dropWaits id s).refills = s.refills := rfl
@[simp] theorem dropWaits_geom (id : Nat) (s : State) : (dropWaits id s).geom = s.geom := rfl
@[simp] theorem dropWaits_lehr (id : Nat) (s : State) : (dropWaits id s).lehr = s.lehr := rfl
@[simp] theorem dropWaits_drains (id : Nat) (s : State) : (dropWaits id s).drains = s.drains := rfl
@[simp] theorem dropWaits_nextFetch (id : Nat) (s : State) : (dropWaits id s).nextFetch = s.nextFetch := rfl
@[simp] theorem dropWaits_nextPart (id : Nat) (s : State) : (dropWaits id s).nextPart = s.nextPart := rfl
@[simp] theorem dropWaits_descs (id : Nat) (s : State) : (dropWaits id s).descs = s.descs := rfl
@[simp] theorem dropWaits_host (id : Nat) (s : State) : (dropWaits id s).host = s.host := rfl
@[simp] theorem dropWaits_place (id : Nat) (s : State) : (dropWaits id s).place = s.place := rfl
@[simp] theorem dropWaits_errs (id : Nat) (s : State) : (dropWaits id s).errs = s.errs := rfl
@[simp] theorem dropWaits_hang (id : Nat) (s : State) : (dropWaits id s).hang = s.hang := rfl
@[simp] theorem dropWaits_rung (id : Nat) (s : State) : (dropWaits id s).rung = s.rung := rfl
@[simp] theorem dropWaits_dump (id : Nat) (s : State) : (dropWaits id s).dump = s.dump := rfl
@[simp] theorem dropWaits_units (id : Nat) (s : State) : (dropWaits id s).units = s.units := rfl
@[simp] theorem dropWaits_mems (id : Nat) (s : State) : (dropWaits id s).mems = s.mems := rfl
@[simp] theorem dropWaits_repair (id : Nat) (s : State) : (dropWaits id s).repair = s.repair := rfl
@[simp] theorem dropWaits_sup (id : Nat) (s : State) : (dropWaits id s).sup = s.sup := rfl
@[simp] theorem dropWaits_fw (id : Nat) (s : State) : (dropWaits id s).fw = s.fw := rfl
@[simp] theorem dropWaits_ret (id : Nat) (s : State) : (dropWaits id s).ret = s.ret := rfl
@[simp] theorem dropWaits_i3c (id : Nat) (s : State) : (dropWaits id s).i3c = s.i3c := rfl
@[simp] theorem dropWaits_pins (id : Nat) (s : State) : (dropWaits id s).pins = s.pins := rfl

/-! ### cleanup -/

@[simp] theorem cleanup_pending (c : Cmd) (st : St) (s : State) : (cleanup c st s).pending = s.pending := by
  unfold cleanup; repeat' (first | rfl | (simp; done) | split)
@[simp] theorem cleanup_cycle (c : Cmd) (st : St) (s : State) : (cleanup c st s).cycle = s.cycle := by
  unfold cleanup; repeat' (first | rfl | (simp; done) | split)
@[simp] theorem cleanup_bus (c : Cmd) (st : St) (s : State) : (cleanup c st s).bus = s.bus := by
  unfold cleanup; repeat' (first | rfl | (simp; done) | split)
@[simp] theorem cleanup_tiers (c : Cmd) (st : St) (s : State) : (cleanup c st s).tiers = s.tiers := by
  unfold cleanup; repeat' (first | rfl | (simp; done) | split)
@[simp] theorem cleanup_queues (c : Cmd) (st : St) (s : State) : (cleanup c st s).queues = s.queues := by
  unfold cleanup; repeat' (first | rfl | (simp; done) | split)
@[simp] theorem cleanup_arb (c : Cmd) (st : St) (s : State) : (cleanup c st s).arb = s.arb := by
  unfold cleanup; repeat' (first | rfl | (simp; done) | split)
@[simp] theorem cleanup_nextId (c : Cmd) (st : St) (s : State) : (cleanup c st s).nextId = s.nextId := by
  unfold cleanup; repeat' (first | rfl | (simp; done) | split)
@[simp] theorem cleanup_ctxs (c : Cmd) (st : St) (s : State) : (cleanup c st s).ctxs = s.ctxs := by
  unfold cleanup; repeat' (first | rfl | (simp; done) | split)
@[simp] theorem cleanup_valves (c : Cmd) (st : St) (s : State) : (cleanup c st s).valves = s.valves := by
  unfold cleanup; repeat' (first | rfl | (simp; done) | split)
@[simp] theorem cleanup_mods (c : Cmd) (st : St) (s : State) : (cleanup c st s).mods = s.mods := by
  unfold cleanup; repeat' (first | rfl | (simp; done) | split)
@[simp] theorem cleanup_flushing (c : Cmd) (st : St) (s : State) : (cleanup c st s).flushing = s.flushing := by
  unfold cleanup; repeat' (first | rfl | (simp; done) | split)
@[simp] theorem cleanup_refills (c : Cmd) (st : St) (s : State) : (cleanup c st s).refills = s.refills := by
  unfold cleanup; repeat' (first | rfl | (simp; done) | split)
@[simp] theorem cleanup_geom (c : Cmd) (st : St) (s : State) : (cleanup c st s).geom = s.geom := by
  unfold cleanup; repeat' (first | rfl | (simp; done) | split)
@[simp] theorem cleanup_nextFetch (c : Cmd) (st : St) (s : State) : (cleanup c st s).nextFetch = s.nextFetch := by
  unfold cleanup; repeat' (first | rfl | (simp; done) | split)
@[simp] theorem cleanup_nextPart (c : Cmd) (st : St) (s : State) : (cleanup c st s).nextPart = s.nextPart := by
  unfold cleanup; repeat' (first | rfl | (simp; done) | split)
@[simp] theorem cleanup_host (c : Cmd) (st : St) (s : State) : (cleanup c st s).host = s.host := by
  unfold cleanup; repeat' (first | rfl | (simp; done) | split)
@[simp] theorem cleanup_errs (c : Cmd) (st : St) (s : State) : (cleanup c st s).errs = s.errs := by
  unfold cleanup; repeat' (first | rfl | (simp; done) | split)
@[simp] theorem cleanup_hang (c : Cmd) (st : St) (s : State) : (cleanup c st s).hang = s.hang := by
  unfold cleanup; repeat' (first | rfl | (simp; done) | split)
@[simp] theorem cleanup_rung (c : Cmd) (st : St) (s : State) : (cleanup c st s).rung = s.rung := by
  unfold cleanup; repeat' (first | rfl | (simp; done) | split)
@[simp] theorem cleanup_dump (c : Cmd) (st : St) (s : State) : (cleanup c st s).dump = s.dump := by
  unfold cleanup; repeat' (first | rfl | (simp; done) | split)
@[simp] theorem cleanup_units (c : Cmd) (st : St) (s : State) : (cleanup c st s).units = s.units := by
  unfold cleanup; repeat' (first | rfl | (simp; done) | split)
@[simp] theorem cleanup_mems (c : Cmd) (st : St) (s : State) : (cleanup c st s).mems = s.mems := by
  unfold cleanup; repeat' (first | rfl | (simp; done) | split)
@[simp] theorem cleanup_repair (c : Cmd) (st : St) (s : State) : (cleanup c st s).repair = s.repair := by
  unfold cleanup; repeat' (first | rfl | (simp; done) | split)
@[simp] theorem cleanup_sup (c : Cmd) (st : St) (s : State) : (cleanup c st s).sup = s.sup := by
  unfold cleanup; repeat' (first | rfl | (simp; done) | split)
@[simp] theorem cleanup_fw (c : Cmd) (st : St) (s : State) : (cleanup c st s).fw = s.fw := by
  unfold cleanup; repeat' (first | rfl | (simp; done) | split)
@[simp] theorem cleanup_ret (c : Cmd) (st : St) (s : State) : (cleanup c st s).ret = s.ret := by
  unfold cleanup; repeat' (first | rfl | (simp; done) | split)
@[simp] theorem cleanup_i3c (c : Cmd) (st : St) (s : State) : (cleanup c st s).i3c = s.i3c := by
  unfold cleanup; repeat' (first | rfl | (simp; done) | split)
@[simp] theorem cleanup_pins (c : Cmd) (st : St) (s : State) : (cleanup c st s).pins = s.pins := by
  unfold cleanup; repeat' (first | rfl | (simp; done) | split)

/-! ### leaveTag -/

@[simp] theorem leaveTag_pending (c : Cmd) (s : State) : (leaveTag c s).pending = s.pending := by
  unfold leaveTag; split <;> rfl
@[simp] theorem leaveTag_freeCtr (c : Cmd) (s : State) : (leaveTag c s).freeCtr = s.freeCtr := by
  unfold leaveTag; split <;> rfl
@[simp] theorem leaveTag_sent (c : Cmd) (s : State) : (leaveTag c s).sent = s.sent := by
  unfold leaveTag; split <;> rfl
@[simp] theorem leaveTag_cycle (c : Cmd) (s : State) : (leaveTag c s).cycle = s.cycle := by
  unfold leaveTag; split <;> rfl
@[simp] theorem leaveTag_bus (c : Cmd) (s : State) : (leaveTag c s).bus = s.bus := by
  unfold leaveTag; split <;> rfl
@[simp] theorem leaveTag_tower (c : Cmd) (s : State) : (leaveTag c s).tower = s.tower := by
  unfold leaveTag; split <;> rfl
@[simp] theorem leaveTag_regs (c : Cmd) (s : State) : (leaveTag c s).regs = s.regs := by
  unfold leaveTag; split <;> rfl
@[simp] theorem leaveTag_mem (c : Cmd) (s : State) : (leaveTag c s).mem = s.mem := by
  unfold leaveTag; split <;> rfl
@[simp] theorem leaveTag_tiers (c : Cmd) (s : State) : (leaveTag c s).tiers = s.tiers := by
  unfold leaveTag; split <;> rfl
@[simp] theorem leaveTag_queues (c : Cmd) (s : State) : (leaveTag c s).queues = s.queues := by
  unfold leaveTag; split <;> rfl
@[simp] theorem leaveTag_arb (c : Cmd) (s : State) : (leaveTag c s).arb = s.arb := by
  unfold leaveTag; split <;> rfl
@[simp] theorem leaveTag_cmds (c : Cmd) (s : State) : (leaveTag c s).cmds = s.cmds := by
  unfold leaveTag; split <;> rfl
@[simp] theorem leaveTag_nextId (c : Cmd) (s : State) : (leaveTag c s).nextId = s.nextId := by
  unfold leaveTag; split <;> rfl
@[simp] theorem leaveTag_valves (c : Cmd) (s : State) : (leaveTag c s).valves = s.valves := by
  unfold leaveTag; split <;> rfl
@[simp] theorem leaveTag_mods (c : Cmd) (s : State) : (leaveTag c s).mods = s.mods := by
  unfold leaveTag; split <;> rfl
@[simp] theorem leaveTag_tables (c : Cmd) (s : State) : (leaveTag c s).tables = s.tables := by
  unfold leaveTag; split <;> rfl
@[simp] theorem leaveTag_slices (c : Cmd) (s : State) : (leaveTag c s).slices = s.slices := by
  unfold leaveTag; split <;> rfl
@[simp] theorem leaveTag_flushing (c : Cmd) (s : State) : (leaveTag c s).flushing = s.flushing := by
  unfold leaveTag; split <;> rfl
@[simp] theorem leaveTag_refills (c : Cmd) (s : State) : (leaveTag c s).refills = s.refills := by
  unfold leaveTag; split <;> rfl
@[simp] theorem leaveTag_waits (c : Cmd) (s : State) : (leaveTag c s).waits = s.waits := by
  unfold leaveTag; split <;> rfl
@[simp] theorem leaveTag_geom (c : Cmd) (s : State) : (leaveTag c s).geom = s.geom := by
  unfold leaveTag; split <;> rfl
@[simp] theorem leaveTag_lehr (c : Cmd) (s : State) : (leaveTag c s).lehr = s.lehr := by
  unfold leaveTag; split <;> rfl
@[simp] theorem leaveTag_drains (c : Cmd) (s : State) : (leaveTag c s).drains = s.drains := by
  unfold leaveTag; split <;> rfl
@[simp] theorem leaveTag_fetches (c : Cmd) (s : State) : (leaveTag c s).fetches = s.fetches := by
  unfold leaveTag; split <;> rfl
@[simp] theorem leaveTag_nextFetch (c : Cmd) (s : State) : (leaveTag c s).nextFetch = s.nextFetch := by
  unfold leaveTag; split <;> rfl
@[simp] theorem leaveTag_partials (c : Cmd) (s : State) : (leaveTag c s).partials = s.partials := by
  unfold leaveTag; split <;> rfl
@[simp] theorem leaveTag_nextPart (c : Cmd) (s : State) : (leaveTag c s).nextPart = s.nextPart := by
  unfold leaveTag; split <;> rfl
@[simp] theorem leaveTag_descs (c : Cmd) (s : State) : (leaveTag c s).descs = s.descs := by
  unfold leaveTag; split <;> rfl
@[simp] theorem leaveTag_host (c : Cmd) (s : State) : (leaveTag c s).host = s.host := by
  unfold leaveTag; split <;> rfl
@[simp] theorem leaveTag_place (c : Cmd) (s : State) : (leaveTag c s).place = s.place := by
  unfold leaveTag; split <;> rfl
@[simp] theorem leaveTag_remote (c : Cmd) (s : State) : (leaveTag c s).remote = s.remote := by
  unfold leaveTag; split <;> rfl
@[simp] theorem leaveTag_errs (c : Cmd) (s : State) : (leaveTag c s).errs = s.errs := by
  unfold leaveTag; split <;> rfl
@[simp] theorem leaveTag_hang (c : Cmd) (s : State) : (leaveTag c s).hang = s.hang := by
  unfold leaveTag; split <;> rfl
@[simp] theorem leaveTag_rung (c : Cmd) (s : State) : (leaveTag c s).rung = s.rung := by
  unfold leaveTag; split <;> rfl
@[simp] theorem leaveTag_dump (c : Cmd) (s : State) : (leaveTag c s).dump = s.dump := by
  unfold leaveTag; split <;> rfl
@[simp] theorem leaveTag_units (c : Cmd) (s : State) : (leaveTag c s).units = s.units := by
  unfold leaveTag; split <;> rfl
@[simp] theorem leaveTag_mems (c : Cmd) (s : State) : (leaveTag c s).mems = s.mems := by
  unfold leaveTag; split <;> rfl
@[simp] theorem leaveTag_repair (c : Cmd) (s : State) : (leaveTag c s).repair = s.repair := by
  unfold leaveTag; split <;> rfl
@[simp] theorem leaveTag_sup (c : Cmd) (s : State) : (leaveTag c s).sup = s.sup := by
  unfold leaveTag; split <;> rfl
@[simp] theorem leaveTag_fw (c : Cmd) (s : State) : (leaveTag c s).fw = s.fw := by
  unfold leaveTag; split <;> rfl
@[simp] theorem leaveTag_ret (c : Cmd) (s : State) : (leaveTag c s).ret = s.ret := by
  unfold leaveTag; split <;> rfl
@[simp] theorem leaveTag_i3c (c : Cmd) (s : State) : (leaveTag c s).i3c = s.i3c := by
  unfold leaveTag; split <;> rfl
@[simp] theorem leaveTag_pins (c : Cmd) (s : State) : (leaveTag c s).pins = s.pins := by
  unfold leaveTag; split <;> rfl

/-! ### keepEnded -/

@[simp] theorem keepEnded_pending (c : Cmd) (v : Verdict) (s : State) : (keepEnded c v s).pending = s.pending := by
  simp [keepEnded]
@[simp] theorem keepEnded_freeCtr (c : Cmd) (v : Verdict) (s : State) : (keepEnded c v s).freeCtr = s.freeCtr := by
  simp [keepEnded]
@[simp] theorem keepEnded_cycle (c : Cmd) (v : Verdict) (s : State) : (keepEnded c v s).cycle = s.cycle := by
  simp [keepEnded]
@[simp] theorem keepEnded_bus (c : Cmd) (v : Verdict) (s : State) : (keepEnded c v s).bus = s.bus := by
  simp [keepEnded]
@[simp] theorem keepEnded_tower (c : Cmd) (v : Verdict) (s : State) : (keepEnded c v s).tower = s.tower := by
  simp [keepEnded]
@[simp] theorem keepEnded_regs (c : Cmd) (v : Verdict) (s : State) : (keepEnded c v s).regs = s.regs := by
  simp [keepEnded]
@[simp] theorem keepEnded_mem (c : Cmd) (v : Verdict) (s : State) : (keepEnded c v s).mem = s.mem := by
  simp [keepEnded]
@[simp] theorem keepEnded_tiers (c : Cmd) (v : Verdict) (s : State) : (keepEnded c v s).tiers = s.tiers := by
  simp [keepEnded]
@[simp] theorem keepEnded_queues (c : Cmd) (v : Verdict) (s : State) : (keepEnded c v s).queues = s.queues := by
  simp [keepEnded]
@[simp] theorem keepEnded_arb (c : Cmd) (v : Verdict) (s : State) : (keepEnded c v s).arb = s.arb := by
  simp [keepEnded]
@[simp] theorem keepEnded_nextId (c : Cmd) (v : Verdict) (s : State) : (keepEnded c v s).nextId = s.nextId := by
  simp [keepEnded]
@[simp] theorem keepEnded_ctxs (c : Cmd) (v : Verdict) (s : State) : (keepEnded c v s).ctxs = s.ctxs := by
  simp [keepEnded]
@[simp] theorem keepEnded_valves (c : Cmd) (v : Verdict) (s : State) : (keepEnded c v s).valves = s.valves := by
  simp [keepEnded]
@[simp] theorem keepEnded_mods (c : Cmd) (v : Verdict) (s : State) : (keepEnded c v s).mods = s.mods := by
  simp [keepEnded]
@[simp] theorem keepEnded_tables (c : Cmd) (v : Verdict) (s : State) : (keepEnded c v s).tables = s.tables := by
  simp [keepEnded]
@[simp] theorem keepEnded_slices (c : Cmd) (v : Verdict) (s : State) : (keepEnded c v s).slices = s.slices := by
  simp [keepEnded]
@[simp] theorem keepEnded_flushing (c : Cmd) (v : Verdict) (s : State) : (keepEnded c v s).flushing = s.flushing := by
  simp [keepEnded]
@[simp] theorem keepEnded_refills (c : Cmd) (v : Verdict) (s : State) : (keepEnded c v s).refills = s.refills := by
  simp [keepEnded]
@[simp] theorem keepEnded_waits (c : Cmd) (v : Verdict) (s : State) : (keepEnded c v s).waits = s.waits := by
  simp [keepEnded]
@[simp] theorem keepEnded_geom (c : Cmd) (v : Verdict) (s : State) : (keepEnded c v s).geom = s.geom := by
  simp [keepEnded]
@[simp] theorem keepEnded_lehr (c : Cmd) (v : Verdict) (s : State) : (keepEnded c v s).lehr = s.lehr := by
  simp [keepEnded]
@[simp] theorem keepEnded_drains (c : Cmd) (v : Verdict) (s : State) : (keepEnded c v s).drains = s.drains := by
  simp [keepEnded]
@[simp] theorem keepEnded_fetches (c : Cmd) (v : Verdict) (s : State) : (keepEnded c v s).fetches = s.fetches := by
  simp [keepEnded]
@[simp] theorem keepEnded_nextFetch (c : Cmd) (v : Verdict) (s : State) : (keepEnded c v s).nextFetch = s.nextFetch := by
  simp [keepEnded]
@[simp] theorem keepEnded_partials (c : Cmd) (v : Verdict) (s : State) : (keepEnded c v s).partials = s.partials := by
  simp [keepEnded]
@[simp] theorem keepEnded_nextPart (c : Cmd) (v : Verdict) (s : State) : (keepEnded c v s).nextPart = s.nextPart := by
  simp [keepEnded]
@[simp] theorem keepEnded_descs (c : Cmd) (v : Verdict) (s : State) : (keepEnded c v s).descs = s.descs := by
  simp [keepEnded]
@[simp] theorem keepEnded_host (c : Cmd) (v : Verdict) (s : State) : (keepEnded c v s).host = s.host := by
  simp [keepEnded]
@[simp] theorem keepEnded_place (c : Cmd) (v : Verdict) (s : State) : (keepEnded c v s).place = s.place := by
  simp [keepEnded]
@[simp] theorem keepEnded_remote (c : Cmd) (v : Verdict) (s : State) : (keepEnded c v s).remote = s.remote := by
  simp [keepEnded]
@[simp] theorem keepEnded_errs (c : Cmd) (v : Verdict) (s : State) : (keepEnded c v s).errs = s.errs := by
  simp [keepEnded]
@[simp] theorem keepEnded_hang (c : Cmd) (v : Verdict) (s : State) : (keepEnded c v s).hang = s.hang := by
  simp [keepEnded]
@[simp] theorem keepEnded_rung (c : Cmd) (v : Verdict) (s : State) : (keepEnded c v s).rung = s.rung := by
  simp [keepEnded]
@[simp] theorem keepEnded_dump (c : Cmd) (v : Verdict) (s : State) : (keepEnded c v s).dump = s.dump := by
  simp [keepEnded]
@[simp] theorem keepEnded_units (c : Cmd) (v : Verdict) (s : State) : (keepEnded c v s).units = s.units := by
  simp [keepEnded]
@[simp] theorem keepEnded_mems (c : Cmd) (v : Verdict) (s : State) : (keepEnded c v s).mems = s.mems := by
  simp [keepEnded]
@[simp] theorem keepEnded_repair (c : Cmd) (v : Verdict) (s : State) : (keepEnded c v s).repair = s.repair := by
  simp [keepEnded]
@[simp] theorem keepEnded_sup (c : Cmd) (v : Verdict) (s : State) : (keepEnded c v s).sup = s.sup := by
  simp [keepEnded]
@[simp] theorem keepEnded_fw (c : Cmd) (v : Verdict) (s : State) : (keepEnded c v s).fw = s.fw := by
  simp [keepEnded]
@[simp] theorem keepEnded_ret (c : Cmd) (v : Verdict) (s : State) : (keepEnded c v s).ret = s.ret := by
  simp [keepEnded]
@[simp] theorem keepEnded_i3c (c : Cmd) (v : Verdict) (s : State) : (keepEnded c v s).i3c = s.i3c := by
  simp [keepEnded]
@[simp] theorem keepEnded_pins (c : Cmd) (v : Verdict) (s : State) : (keepEnded c v s).pins = s.pins := by
  simp [keepEnded]

/-! ### endCommand -/

@[simp] theorem endCommand_pending (c : Cmd) (v : Verdict) (s : State) : (endCommand c v s).pending = s.pending := by
  unfold endCommand; dsimp only; repeat' (first | rfl | (simp; done) | split)
@[simp] theorem endCommand_cycle (c : Cmd) (v : Verdict) (s : State) : (endCommand c v s).cycle = s.cycle := by
  unfold endCommand; dsimp only; repeat' (first | rfl | (simp; done) | split)
@[simp] theorem endCommand_tiers (c : Cmd) (v : Verdict) (s : State) : (endCommand c v s).tiers = s.tiers := by
  unfold endCommand; dsimp only; repeat' (first | rfl | (simp; done) | split)
@[simp] theorem endCommand_arb (c : Cmd) (v : Verdict) (s : State) : (endCommand c v s).arb = s.arb := by
  unfold endCommand; dsimp only; repeat' (first | rfl | (simp; done) | split)
@[simp] theorem endCommand_nextId (c : Cmd) (v : Verdict) (s : State) : (endCommand c v s).nextId = s.nextId := by
  unfold endCommand; dsimp only; repeat' (first | rfl | (simp; done) | split)
@[simp] theorem endCommand_flushing (c : Cmd) (v : Verdict) (s : State) : (endCommand c v s).flushing = s.flushing := by
  unfold endCommand; dsimp only; repeat' (first | rfl | (simp; done) | split)
@[simp] theorem endCommand_refills (c : Cmd) (v : Verdict) (s : State) : (endCommand c v s).refills = s.refills := by
  unfold endCommand; dsimp only; repeat' (first | rfl | (simp; done) | split)
@[simp] theorem endCommand_geom (c : Cmd) (v : Verdict) (s : State) : (endCommand c v s).geom = s.geom := by
  unfold endCommand; dsimp only; repeat' (first | rfl | (simp; done) | split)
@[simp] theorem endCommand_nextFetch (c : Cmd) (v : Verdict) (s : State) : (endCommand c v s).nextFetch = s.nextFetch := by
  unfold endCommand; dsimp only; repeat' (first | rfl | (simp; done) | split)
@[simp] theorem endCommand_nextPart (c : Cmd) (v : Verdict) (s : State) : (endCommand c v s).nextPart = s.nextPart := by
  unfold endCommand; dsimp only; repeat' (first | rfl | (simp; done) | split)
@[simp] theorem endCommand_rung (c : Cmd) (v : Verdict) (s : State) : (endCommand c v s).rung = s.rung := by
  unfold endCommand; dsimp only; repeat' (first | rfl | (simp; done) | split)
@[simp] theorem endCommand_dump (c : Cmd) (v : Verdict) (s : State) : (endCommand c v s).dump = s.dump := by
  unfold endCommand; dsimp only; repeat' (first | rfl | (simp; done) | split)
@[simp] theorem endCommand_units (c : Cmd) (v : Verdict) (s : State) : (endCommand c v s).units = s.units := by
  unfold endCommand; dsimp only; repeat' (first | rfl | (simp; done) | split)
@[simp] theorem endCommand_mems (c : Cmd) (v : Verdict) (s : State) : (endCommand c v s).mems = s.mems := by
  unfold endCommand; dsimp only; repeat' (first | rfl | (simp; done) | split)
@[simp] theorem endCommand_repair (c : Cmd) (v : Verdict) (s : State) : (endCommand c v s).repair = s.repair := by
  unfold endCommand; dsimp only; repeat' (first | rfl | (simp; done) | split)
@[simp] theorem endCommand_sup (c : Cmd) (v : Verdict) (s : State) : (endCommand c v s).sup = s.sup := by
  unfold endCommand; dsimp only; repeat' (first | rfl | (simp; done) | split)
@[simp] theorem endCommand_fw (c : Cmd) (v : Verdict) (s : State) : (endCommand c v s).fw = s.fw := by
  unfold endCommand; dsimp only; repeat' (first | rfl | (simp; done) | split)
@[simp] theorem endCommand_ret (c : Cmd) (v : Verdict) (s : State) : (endCommand c v s).ret = s.ret := by
  unfold endCommand; dsimp only; repeat' (first | rfl | (simp; done) | split)
@[simp] theorem endCommand_i3c (c : Cmd) (v : Verdict) (s : State) : (endCommand c v s).i3c = s.i3c := by
  unfold endCommand; dsimp only; repeat' (first | rfl | (simp; done) | split)
@[simp] theorem endCommand_pins (c : Cmd) (v : Verdict) (s : State) : (endCommand c v s).pins = s.pins := by
  unfold endCommand; dsimp only; repeat' (first | rfl | (simp; done) | split)

end Sys2Proof.Machine
end

