-- ==== Sys2Proof/Laws/Ops.lean ====
section
/-! SUPPORT. What the shared operations do beside leaving fields alone: memory writes, error records, served register accesses. -/

namespace Sys2Proof.Machine

/-! ### Memory -/

/-- Bytes written keep the canonical form. -/
theorem writeKeys_wf (bs : List Byte) : ∀ (m : Sparse Byte) (k : Nat), Memory.wf m = true → Memory.wf (writeKeys m k bs) = true := by
  induction bs with
  | nil => exact fun _ _ h => h
  | cons b bs ih => exact fun m k h => ih _ _ (Sparse.wf_set k b h)

/-- A byte outside the keys written reads as before. -/
theorem readByte_writeKeys_other (bs : List Byte) :
    ∀ (m : Sparse Byte) (k a : Nat), (a < k ∨ k + bs.length ≤ a) → readByte (writeKeys m k bs) a = readByte m a := by
  induction bs with
  | nil => exact fun _ _ _ _ => rfl
  | cons b bs ih =>
    intro m k a h
    simp only [List.length_cons] at h
    rw [writeKeys, ih _ _ _ (by omega), readByte, Sparse.get_set_other _ _ _ (by omega), readByte]

/-- What was written reads back. -/
theorem readKeys_writeKeys (bs : List Byte) : ∀ (m : Sparse Byte) (k : Nat), readKeys (writeKeys m k bs) bs.length k = bs := by
  induction bs with
  | nil => exact fun _ _ => rfl
  | cons b bs ih =>
    intro m k
    have h := readByte_writeKeys_other bs (Sparse.set 0#8 m k b) (k + 1) k (by omega)
    rw [List.length_cons, readKeys, writeKeys, ih, h, readByte, Sparse.get_set_same]

/-- A write of memory keeps its canonical form. -/
theorem writeMem_wf (space a : Nat) (bs : List Byte) (s : State) (h : Memory.wf s.mem = true) :
    Memory.wf (writeMem space a bs s).mem = true := writeKeys_wf _ _ _ h

/-- So does a write of free bytes. -/
theorem writeFree_wf (space a n : Nat) (s : State) (h : Memory.wf s.mem = true) :
    Memory.wf (writeFree space a n s).mem = true := writeKeys_wf _ _ _ h

/-! ### Error records -/

/-- An error record touches only what `State.logged` takes over. -/
theorem logErr_logged (code action : Nat) (c : Option Nat) (u info : Nat) (s : State) :
    logErr code action c u info s = s.logged (logErr code action c u info s) := by
  unfold logErr
  dsimp only
  split <;> rfl

/-- The registers an error record may change. -/
theorem logErr_regs (code action : Nat) (c : Option Nat) (u info : Nat) (s : State) :
    RegsKept s (logErr code action c u info s) [Reg.ERR_STAT_NEW.key 0, Reg.ERR_OVERWRITE_CNT_COUNT.key 0] := by
  intro k hk
  simp only [List.mem_cons, List.not_mem_nil, or_false, not_or] at hk
  unfold logErr
  dsimp only
  split <;> simp [wr, bump, wrRegs, Sparse.get_set_other _ _ _ hk.1, Sparse.get_set_other _ _ _ hk.2]

/-- An error record is written once (R302, R303). -/
theorem logErr_logsOne (code action : Nat) (c : Option Nat) (u info : Nat) (s : State) :
    LogsOne s (logErr code action c u info s) code action c u info := by
  have e : (logErr code action c u info s).errs =
      { slots := Sparse.set {} s.errs.slots (s.errs.head % 1024)
          { code := code, action := action, noCmd := c.isNone, ctx := c.getD 0, unit := u, gen := (ctx s (c.getD 0)).gen,
            seq := s.errs.head, time := s.cycle, info := info },
        head := (s.errs.head + 1) % 2 ^ 32 } := by
    unfold logErr; dsimp only; split <;> rfl
  refine ⟨?_, ?_, ?_, ?_⟩
  · rw [e, Sparse.get_set_same]
  · rw [e]
  · have : (logErr code action c u info s).regs =
        (wr Reg.ERR_STAT_NEW 0 1 (if overwrites s then bump Reg.ERR_OVERWRITE_CNT_COUNT 0 1 s else s)).regs := rfl
    rw [rd_congr _ _ this, rd_wr_same]; rfl
  · intro k hk
    rw [e, Sparse.get_set_other _ _ _ hk]

/-- What is said of a record depends on the log, the counter, the contexts' generations and the flag alone. -/
theorem LogsOne.congr {s t s' t' : State} {code action : Nat} {c : Option Nat} {u info : Nat} (h : LogsOne s t code action c u info)
    (h1 : s'.errs = s.errs) (h2 : s'.cycle = s.cycle) (h3 : (ctx s' (c.getD 0)).gen = (ctx s (c.getD 0)).gen)
    (h4 : t'.errs = t.errs) (h5 : rd Reg.ERR_STAT_NEW 0 t' = rd Reg.ERR_STAT_NEW 0 t) :
    LogsOne s' t' code action c u info := by
  unfold LogsOne at *
  rw [h1, h2, h3, h4, h5]
  exact h

/-! ### Served register accesses -/

/-- A register write that the aperture serves has its effect on the awake engine. -/
theorem apWrite_serves {o : Nat} {s : State} (f : State → State) (h : Serves s o) : apWrite o s f = f s.accessed := by
  simp [apWrite, h.1, State.accessed]

@[simp] theorem accessed_queues (s : State) : s.accessed.queues = s.queues := by simp [State.accessed]
@[simp] theorem accessed_cmds (s : State) : s.accessed.cmds = s.cmds := by simp [State.accessed]
@[simp] theorem accessed_ctxs (s : State) : s.accessed.ctxs = s.ctxs := by simp [State.accessed]
@[simp] theorem accessed_host (s : State) : s.accessed.host = s.host := by simp [State.accessed]
@[simp] theorem accessed_mem (s : State) : s.accessed.mem = s.mem := by simp [State.accessed]
@[simp] theorem accessed_errs (s : State) : s.accessed.errs = s.errs := by simp [State.accessed]
@[simp] theorem accessed_pending (s : State) : s.accessed.pending = s.pending := by simp [State.accessed]
@[simp] theorem accessed_cycle (s : State) : s.accessed.cycle = s.cycle := by simp [State.accessed]

/-- An access keeps every register but the shown power state. -/
theorem rd_accessed (f : Fld) (i : Nat) (s : State) (h : f.key i ≠ Reg.SUP_PSTATE_STAT_STATE.key 0) : rd f i s.accessed = rd f i s := by
  have e : s.accessed.regs = (wakeUp s).regs := rfl
  rw [rd_congr f i e]
  unfold wakeUp
  split
  · exact rd_wr_other _ _ _ _ _ _ h
  · rfl

end Sys2Proof.Machine
end

