-- ==== Sys2Proof/Laws/PerInstr.lean ====
section
/-! SUPPORT. What is said of every command as syntax, one lemma for each constructor. -/

namespace Sys2Proof.Laws

/-- No word of the opcode table spells the command: the table gives no row of this block bits. -/
def Shape.Statement (i : Instr) : Prop := ∀ nbits w : Nat, decodeTableWord nbits w ≠ some i

/-- The decoder answers no command, whatever the word. -/
theorem decodeTableWord_ne (i : Instr) : Shape.Statement i := fun _ _ h => nomatch h

theorem Shape.nop (cmd : Nat) :
    Shape.Statement (.nop cmd) := decodeTableWord_ne _
theorem Shape.gatherPool (cmd : Nat) :
    Shape.Statement (.gatherPool cmd) := decodeTableWord_ne _
theorem Shape.cascade (cmd : Nat) :
    Shape.Statement (.cascade cmd) := decodeTableWord_ne _
theorem Shape.scatterGrad (cmd : Nat) :
    Shape.Statement (.scatterGrad cmd) := decodeTableWord_ne _
theorem Shape.interactionScatterGrad (cmd : Nat) :
    Shape.Statement (.interactionScatterGrad cmd) := decodeTableWord_ne _
theorem Shape.mergeApply (cmd : Nat) :
    Shape.Statement (.mergeApply cmd) := decodeTableWord_ne _
theorem Shape.zeroRows (cmd : Nat) :
    Shape.Statement (.zeroRows cmd) := decodeTableWord_ne _
theorem Shape.prefetch (cmd : Nat) :
    Shape.Statement (.prefetch cmd) := decodeTableWord_ne _
theorem Shape.pinRows (cmd : Nat) :
    Shape.Statement (.pinRows cmd) := decodeTableWord_ne _
theorem Shape.unpin (cmd : Nat) :
    Shape.Statement (.unpin cmd) := decodeTableWord_ne _
theorem Shape.rowMigrate (cmd : Nat) :
    Shape.Statement (.rowMigrate cmd) := decodeTableWord_ne _
theorem Shape.tableDefine (cmd : Nat) :
    Shape.Statement (.tableDefine cmd) := decodeTableWord_ne _
theorem Shape.versionOpen (cmd : Nat) :
    Shape.Statement (.versionOpen cmd) := decodeTableWord_ne _
theorem Shape.tablePublish (cmd : Nat) :
    Shape.Statement (.tablePublish cmd) := decodeTableWord_ne _
theorem Shape.tableRetire (cmd : Nat) :
    Shape.Statement (.tableRetire cmd) := decodeTableWord_ne _
theorem Shape.tableLoad (cmd : Nat) :
    Shape.Statement (.tableLoad cmd) := decodeTableWord_ne _
theorem Shape.tableSave (cmd : Nat) :
    Shape.Statement (.tableSave cmd) := decodeTableWord_ne _
theorem Shape.streamArm (cmd : Nat) :
    Shape.Statement (.streamArm cmd) := decodeTableWord_ne _
theorem Shape.streamCancel (cmd : Nat) :
    Shape.Statement (.streamCancel cmd) := decodeTableWord_ne _
theorem Shape.copy (cmd : Nat) :
    Shape.Statement (.copy cmd) := decodeTableWord_ne _
theorem Shape.valveSet (cmd : Timed Nat) :
    Shape.Statement (.valveSet cmd) := decodeTableWord_ne _
theorem Shape.valveAdd (cmd : Timed Nat) :
    Shape.Statement (.valveAdd cmd) := decodeTableWord_ne _
theorem Shape.valveWaitGe (cmd : Nat) :
    Shape.Statement (.valveWaitGe cmd) := decodeTableWord_ne _
theorem Shape.valveWaitEq (cmd : Nat) :
    Shape.Statement (.valveWaitEq cmd) := decodeTableWord_ne _
theorem Shape.valveRead (cmd : Nat) :
    Shape.Statement (.valveRead cmd) := decodeTableWord_ne _
theorem Shape.contextOpen (cmd : Nat) :
    Shape.Statement (.contextOpen cmd) := decodeTableWord_ne _
theorem Shape.contextClose (cmd : Nat) :
    Shape.Statement (.contextClose cmd) := decodeTableWord_ne _
theorem Shape.rillHalt (desc : DescNo) :
    Shape.Statement (.rillHalt desc) := decodeTableWord_ne _
theorem Shape.rillLoop (desc : DescNo) :
    Shape.Statement (.rillLoop desc) := decodeTableWord_ne _
theorem Shape.rillNext (desc : DescNo) :
    Shape.Statement (.rillNext desc) := decodeTableWord_ne _
theorem Shape.rillMove (desc : DescNo) :
    Shape.Statement (.rillMove desc) := decodeTableWord_ne _
theorem Shape.rillPost (desc : Timed DescNo) :
    Shape.Statement (.rillPost desc) := decodeTableWord_ne _
theorem Shape.rillWait (desc : DescNo) :
    Shape.Statement (.rillWait desc) := decodeTableWord_ne _
theorem Shape.rillFence (desc : DescNo) :
    Shape.Statement (.rillFence desc) := decodeTableWord_ne _
theorem Shape.doorbell (q : QueueNo) (tail : BitVec 16) :
    Shape.Statement (.doorbell q tail) := decodeTableWord_ne _
theorem Shape.dbOverrunClear (q : QueueNo) :
    Shape.Statement (.dbOverrunClear q) := decodeTableWord_ne _
theorem Shape.enableSet (q : QueueNo) :
    Shape.Statement (.enableSet q) := decodeTableWord_ne _
theorem Shape.enableClear (q : QueueNo) :
    Shape.Statement (.enableClear q) := decodeTableWord_ne _
theorem Shape.replyReset (q : QueueNo) (enable : Bool) :
    Shape.Statement (.replyReset q enable) := decodeTableWord_ne _
theorem Shape.replyCiWrite (q : QueueNo) (ci : BitVec 16) :
    Shape.Statement (.replyCiWrite q ci) := decodeTableWord_ne _
theorem Shape.packetFetch (q : QueueNo) (starts : Bool) (words : List Word) :
    Shape.Statement (.packetFetch q starts words) := decodeTableWord_ne _
theorem Shape.arbiterGrant :
    Shape.Statement .arbiterGrant := decodeTableWord_ne _
theorem Shape.commandComplete (cmd : Timed Nat) :
    Shape.Statement (.commandComplete cmd) := decodeTableWord_ne _
theorem Shape.flushReadComplete (cmd : Nat) :
    Shape.Statement (.flushReadComplete cmd) := decodeTableWord_ne _
theorem Shape.valveWaitSatisfied (src : WaitSrc) :
    Shape.Statement (.valveWaitSatisfied src) := decodeTableWord_ne _
theorem Shape.fetchDataReturn (fetch : Nat) (upset : List Nat) (ecc : List EccFinding) :
    Shape.Statement (.fetchDataReturn fetch upset ecc) := decodeTableWord_ne _
theorem Shape.writebackComplete (slice : BitVec 5) (table : TableNo) (row : BitVec 40) :
    Shape.Statement (.writebackComplete slice table row) := decodeTableWord_ne _
theorem Shape.weirPoolRequest (fetch : Nat) (upset : List Nat) (ecc : List EccFinding) :
    Shape.Statement (.weirPoolRequest fetch upset ecc) := decodeTableWord_ne _
theorem Shape.partialArrival (part : Nat) :
    Shape.Statement (.partialArrival part) := decodeTableWord_ne _
theorem Shape.laneBlockIssue (slice : BitVec 4) (cmd : Nat) :
    Shape.Statement (.laneBlockIssue slice cmd) := decodeTableWord_ne _
theorem Shape.txbParityFail (slice : BitVec 5) :
    Shape.Statement (.txbParityFail slice) := decodeTableWord_ne _
theorem Shape.towerFrameSend (cmd : Nat) (n : Nat) (ready : Bool) :
    Shape.Statement (.towerFrameSend cmd n ready) := decodeTableWord_ne _
theorem Shape.towerAcceptResume (channel : BitVec 4) :
    Shape.Statement (.towerAcceptResume channel) := decodeTableWord_ne _
theorem Shape.gradientFrame (channel : BitVec 4) (bytes : List Byte) :
    Shape.Statement (.gradientFrame channel bytes) := decodeTableWord_ne _
theorem Shape.commitPoint (cmd : Nat) :
    Shape.Statement (.commitPoint cmd) := decodeTableWord_ne _
theorem Shape.publishTakesEffect (cmd : Nat) :
    Shape.Statement (.publishTakesEffect cmd) := decodeTableWord_ne _
theorem Shape.versionFree (table : TableNo) (version : Word) :
    Shape.Statement (.versionFree table version) := decodeTableWord_ne _
theorem Shape.fold (row : FoldRead) :
    Shape.Statement (.fold row) := decodeTableWord_ne _
theorem Shape.moveStart (table : TableNo) (row : BitVec 40) (met : ReadMet) :
    Shape.Statement (.moveStart table row met) := decodeTableWord_ne _
theorem Shape.migrationEpoch :
    Shape.Statement .migrationEpoch := decodeTableWord_ne _
theorem Shape.skimWindowEnd :
    Shape.Statement .skimWindowEnd := decodeTableWord_ne _
theorem Shape.lookupReq (msg : List Byte) :
    Shape.Statement (.lookupReq msg) := decodeTableWord_ne _
theorem Shape.partialRsp (msg : List Byte) :
    Shape.Statement (.partialRsp msg) := decodeTableWord_ne _
theorem Shape.lookupTimeout (reqId : Word) :
    Shape.Statement (.lookupTimeout reqId) := decodeTableWord_ne _
theorem Shape.gradPushData (msg : List Byte) :
    Shape.Statement (.gradPushData msg) := decodeTableWord_ne _
theorem Shape.gradPushCommit (msg : List Byte) :
    Shape.Statement (.gradPushCommit msg) := decodeTableWord_ne _
theorem Shape.gradPushDiscard (msg : List Byte) :
    Shape.Statement (.gradPushDiscard msg) := decodeTableWord_ne _
theorem Shape.bPartial (msg : List Byte) :
    Shape.Statement (.bPartial msg) := decodeTableWord_ne _
theorem Shape.bPartialTimeout (cmd : Nat) :
    Shape.Statement (.bPartialTimeout cmd) := decodeTableWord_ne _
theorem Shape.gradAck (msg : List Byte) :
    Shape.Statement (.gradAck msg) := decodeTableWord_ne _
theorem Shape.gradAckTimeout (cmd : Nat) :
    Shape.Statement (.gradAckTimeout cmd) := decodeTableWord_ne _
theorem Shape.migrateReq (msg : List Byte) :
    Shape.Statement (.migrateReq msg) := decodeTableWord_ne _
theorem Shape.migrateAck (msg : List Byte) :
    Shape.Statement (.migrateAck msg) := decodeTableWord_ne _
theorem Shape.migrateAckTimeout (cmd : Nat) :
    Shape.Statement (.migrateAckTimeout cmd) := decodeTableWord_ne _
theorem Shape.remoteBadMsg (msg : List Byte) :
    Shape.Statement (.remoteBadMsg msg) := decodeTableWord_ne _
theorem Shape.abortFrameRx (msg : List Byte) (heldOff : Bool) :
    Shape.Statement (.abortFrameRx msg heldOff) := decodeTableWord_ne _
theorem Shape.abortTxFail (peer : ChipNo) (reason : Byte) (ctx : CtxNo) :
    Shape.Statement (.abortTxFail peer reason ctx) := decodeTableWord_ne _
theorem Shape.fabricAbortSend (job : Word) :
    Shape.Statement (.fabricAbortSend job) := decodeTableWord_ne _
theorem Shape.nvmeCompletion (io : Nat) (status : BitVec 8) (dnr : Bool) (data : List Byte) :
    Shape.Statement (.nvmeCompletion io status dnr data) := decodeTableWord_ne _
theorem Shape.nvmfTimeout (io : Nat) :
    Shape.Statement (.nvmfTimeout io) := decodeTableWord_ne _
theorem Shape.nvmfConnectionLost (target : TargetNo) :
    Shape.Statement (.nvmfConnectionLost target) := decodeTableWord_ne _
theorem Shape.nvmfConnect (on : Bool) (answered : Bool) (capacity : Dword) :
    Shape.Statement (.nvmfConnect on answered capacity) := decodeTableWord_ne _
theorem Shape.keepAlive :
    Shape.Statement .keepAlive := decodeTableWord_ne _
theorem Shape.rimPeerConnect (on : Bool) :
    Shape.Statement (.rimPeerConnect on) := decodeTableWord_ne _
theorem Shape.qpReconnect (peer : ChipNo) (port : PortNo) :
    Shape.Statement (.qpReconnect peer port) := decodeTableWord_ne _
theorem Shape.cmMessage (peer : ChipNo) (port : PortNo) (kind : CmKind) :
    Shape.Statement (.cmMessage peer port kind) := decodeTableWord_ne _
theorem Shape.cnp (peer : ChipNo) (port : PortNo) (abortQp : Bool) :
    Shape.Statement (.cnp peer port abortQp) := decodeTableWord_ne _
theorem Shape.rateRecovery :
    Shape.Statement .rateRecovery := decodeTableWord_ne _
theorem Shape.rimLinkDown (port : PortNo) :
    Shape.Statement (.rimLinkDown port) := decodeTableWord_ne _
theorem Shape.translationFault (who : Mover) (addr : Dword) (write : Bool) (site : FaultSite) :
    Shape.Statement (.translationFault who addr write site) := decodeTableWord_ne _
theorem Shape.atsTranslationCompletion (entry : AtcEntry) :
    Shape.Statement (.atsTranslationCompletion entry) := decodeTableWord_ne _
theorem Shape.prgResponse (who : Mover) (code : PrgCode) :
    Shape.Statement (.prgResponse who code) := decodeTableWord_ne _
theorem Shape.priTimeout (who : Mover) :
    Shape.Statement (.priTimeout who) := decodeTableWord_ne _
theorem Shape.atsInvalidate (space : Nat) (page : Dword) (size : Nat) :
    Shape.Statement (.atsInvalidate space page size) := decodeTableWord_ne _
theorem Shape.pendingArmPromote (desc : DescNo) :
    Shape.Statement (.pendingArmPromote desc) := decodeTableWord_ne _
theorem Shape.memoryReadCompletion (ctx : CtxNo) (cmd : Nat) (addr : Dword) (data : List Byte) :
    Shape.Statement (.memoryReadCompletion ctx cmd addr data) := decodeTableWord_ne _
theorem Shape.linkDown :
    Shape.Statement .linkDown := decodeTableWord_ne _
theorem Shape.hostpathStall :
    Shape.Statement .hostpathStall := decodeTableWord_ne _
theorem Shape.hostReset :
    Shape.Statement .hostReset := decodeTableWord_ne _
theorem Shape.hostpathClose :
    Shape.Statement .hostpathClose := decodeTableWord_ne _
theorem Shape.hcLinkUp (link : HostLink) :
    Shape.Statement (.hcLinkUp link) := decodeTableWord_ne _
theorem Shape.hostpathReattach (epoch : BitVec 16) (unresolved : List Dword) :
    Shape.Statement (.hostpathReattach epoch unresolved) := decodeTableWord_ne _
theorem Shape.closeDrainDeadline (ctx : CtxNo) :
    Shape.Statement (.closeDrainDeadline ctx) := decodeTableWord_ne _
theorem Shape.quarantineEnd (ctx : CtxNo) :
    Shape.Statement (.quarantineEnd ctx) := decodeTableWord_ne _
theorem Shape.contextOpenWaitTimeout (cmd : Nat) :
    Shape.Statement (.contextOpenWaitTimeout cmd) := decodeTableWord_ne _
theorem Shape.contextReset (ctx : CtxNo) (jobAbort : Bool) :
    Shape.Statement (.contextReset ctx jobAbort) := decodeTableWord_ne _
theorem Shape.engineReset :
    Shape.Statement .engineReset := decodeTableWord_ne _
theorem Shape.partitionReset (part : BitVec 2) :
    Shape.Statement (.partitionReset part) := decodeTableWord_ne _
theorem Shape.chipReset (fwReload : Bool) :
    Shape.Statement (.chipReset fwReload) := decodeTableWord_ne _
theorem Shape.chipRstN (lowNs : Nat) :
    Shape.Statement (.chipRstN lowNs) := decodeTableWord_ne _
theorem Shape.rungTimeout :
    Shape.Statement .rungTimeout := decodeTableWord_ne _
theorem Shape.dumpTrigger :
    Shape.Statement .dumpTrigger := decodeTableWord_ne _
theorem Shape.dumpSkip (unit : UnitId) :
    Shape.Statement (.dumpSkip unit) := decodeTableWord_ne _
theorem Shape.dumpAck :
    Shape.Statement .dumpAck := decodeTableWord_ne _
theorem Shape.dumpDataRead :
    Shape.Statement .dumpDataRead := decodeTableWord_ne _
theorem Shape.hangSample :
    Shape.Statement .hangSample := decodeTableWord_ne _
theorem Shape.notResponding (unit : UnitId) (block : Byte) :
    Shape.Statement (.notResponding unit block) := decodeTableWord_ne _
theorem Shape.coreFault (core : BitVec 4) (check : BitVec 4) :
    Shape.Statement (.coreFault core check) := decodeTableWord_ne _
theorem Shape.coreWatchdogExpiry (core : BitVec 4) :
    Shape.Statement (.coreWatchdogExpiry core) := decodeTableWord_ne _
theorem Shape.coreImageCheck (bad : List Nat) :
    Shape.Statement (.coreImageCheck bad) := decodeTableWord_ne _
theorem Shape.sramUe (slice : BitVec 5) (code : BitVec 4) (addr : BitVec 24) :
    Shape.Statement (.sramUe slice code addr) := decodeTableWord_ne _
theorem Shape.laneGroupFault (slice : BitVec 5) (group : BitVec 5) :
    Shape.Statement (.laneGroupFault slice group) := decodeTableWord_ne _
theorem Shape.mappingEpoch :
    Shape.Statement .mappingEpoch := decodeTableWord_ne _
theorem Shape.unitOffline :
    Shape.Statement .unitOffline := decodeTableWord_ne _
theorem Shape.unitRestore :
    Shape.Statement .unitRestore := decodeTableWord_ne _
theorem Shape.unitPrefer :
    Shape.Statement .unitPrefer := decodeTableWord_ne _
theorem Shape.unitScrubDone (unit : UnitId) :
    Shape.Statement (.unitScrubDone unit) := decodeTableWord_ne _
theorem Shape.selftestDone (unit : UnitId) (pass : Bool) :
    Shape.Statement (.selftestDone unit pass) := decodeTableWord_ne _
theorem Shape.cisternScrub (vault : BitVec 9) (found : List DramFinding) :
    Shape.Statement (.cisternScrub vault found) := decodeTableWord_ne _
theorem Shape.vaultOut (vault : BitVec 9) (cause : BitVec 2) :
    Shape.Statement (.vaultOut vault cause) := decodeTableWord_ne _
theorem Shape.channelOut (channel : BitVec 8) :
    Shape.Statement (.channelOut channel) := decodeTableWord_ne _
theorem Shape.cisternRefresh (vault : BitVec 9) :
    Shape.Statement (.cisternRefresh vault) := decodeTableWord_ne _
theorem Shape.hbmRefresh (stack : BitVec 3) (rate : BitVec 3) :
    Shape.Statement (.hbmRefresh stack rate) := decodeTableWord_ne _
theorem Shape.exerStart :
    Shape.Statement .exerStart := decodeTableWord_ne _
theorem Shape.exerDone (kind : BitVec 1) (index : BitVec 9) (result : ExerResult) :
    Shape.Statement (.exerDone kind index result) := decodeTableWord_ne _
theorem Shape.basinApply :
    Shape.Statement .basinApply := decodeTableWord_ne _
theorem Shape.basinApplyDone :
    Shape.Statement .basinApplyDone := decodeTableWord_ne _
theorem Shape.basinFlush :
    Shape.Statement .basinFlush := decodeTableWord_ne _
theorem Shape.basinFlushDone :
    Shape.Statement .basinFlushDone := decodeTableWord_ne _
theorem Shape.placeRowLookup (table : TableNo) (row : BitVec 40) :
    Shape.Statement (.placeRowLookup table row) := decodeTableWord_ne _
theorem Shape.skimModeWrite (mode : BitVec 2) :
    Shape.Statement (.skimModeWrite mode) := decodeTableWord_ne _
theorem Shape.partLayoutWrite (layout : BitVec 4) :
    Shape.Statement (.partLayoutWrite layout) := decodeTableWord_ne _
theorem Shape.registerWrite (off : Offset) (size : Nat) (value : Dword) :
    Shape.Statement (.registerWrite off size value) := decodeTableWord_ne _
theorem Shape.rcRegisterRead (off : Offset) (size : Nat) :
    Shape.Statement (.rcRegisterRead off size) := decodeTableWord_ne _
theorem Shape.multiwordLowRead (off : Offset) :
    Shape.Statement (.multiwordLowRead off) := decodeTableWord_ne _
theorem Shape.fwLoad (image : List Byte) (nocError : Bool) :
    Shape.Statement (.fwLoad image nocError) := decodeTableWord_ne _
theorem Shape.commitSvn :
    Shape.Statement .commitSvn := decodeTableWord_ne _
theorem Shape.fwKeyRevoke (slot : BitVec 2) :
    Shape.Statement (.fwKeyRevoke slot) := decodeTableWord_ne _
theorem Shape.pwrGoodRise (railOk : Bool) :
    Shape.Statement (.pwrGoodRise railOk) := decodeTableWord_ne _
theorem Shape.memoryPhase (bad : List UnitId) :
    Shape.Statement (.memoryPhase bad) := decodeTableWord_ne _
theorem Shape.coresPhase (bad : List UnitId) :
    Shape.Statement (.coresPhase bad) := decodeTableWord_ne _
theorem Shape.ready :
    Shape.Statement .ready := decodeTableWord_ne _
theorem Shape.chipRestart (bad : List UnitId) :
    Shape.Statement (.chipRestart bad) := decodeTableWord_ne _
theorem Shape.pwrGoodFall :
    Shape.Statement .pwrGoodFall := decodeTableWord_ne _
theorem Shape.refclkFail (which : RefClk) :
    Shape.Statement (.refclkFail which) := decodeTableWord_ne _
theorem Shape.monitorSample (samples : List MonSample) :
    Shape.Statement (.monitorSample samples) := decodeTableWord_ne _
theorem Shape.droopEvent (slice : BitVec 5) :
    Shape.Statement (.droopEvent slice) := decodeTableWord_ne _
theorem Shape.droopStepRemove :
    Shape.Statement .droopStepRemove := decodeTableWord_ne _
theorem Shape.ageReplan :
    Shape.Statement .ageReplan := decodeTableWord_ne _
theorem Shape.rimEyeCheck (port : PortNo) (pair : BitVec 4) (margin : Nat) :
    Shape.Statement (.rimEyeCheck port pair margin) := decodeTableWord_ne _
theorem Shape.hbmTraining (channel : BitVec 8) :
    Shape.Statement (.hbmTraining channel) := decodeTableWord_ne _
theorem Shape.holdTest (dropUv : Nat) (chargedMv : Nat) :
    Shape.Statement (.holdTest dropUv chargedMv) := decodeTableWord_ne _
theorem Shape.domainGate (dom : Domain) :
    Shape.Statement (.domainGate dom) := decodeTableWord_ne _
theorem Shape.domainRestart (dom : Domain) :
    Shape.Statement (.domainRestart dom) := decodeTableWord_ne _
theorem Shape.slicePark (slice : BitVec 5) :
    Shape.Statement (.slicePark slice) := decodeTableWord_ne _
theorem Shape.u3Entry :
    Shape.Statement .u3Entry := decodeTableWord_ne _
theorem Shape.u3Wake :
    Shape.Statement .u3Wake := decodeTableWord_ne _
theorem Shape.sagConfirm (secondLow : Bool) :
    Shape.Statement (.sagConfirm secondLow) := decodeTableWord_ne _
theorem Shape.supRecDataRead :
    Shape.Statement .supRecDataRead := decodeTableWord_ne _
theorem Shape.getStatus :
    Shape.Statement .getStatus := decodeTableWord_ne _
theorem Shape.setTrayLimit (watts : BitVec 16) :
    Shape.Statement (.setTrayLimit watts) := decodeTableWord_ne _
theorem Shape.i3cChipReset (key : Byte) :
    Shape.Statement (.i3cChipReset key) := decodeTableWord_ne _
theorem Shape.powerCycle (key : Byte) :
    Shape.Statement (.powerCycle key) := decodeTableWord_ne _
theorem Shape.enterU3 :
    Shape.Statement .enterU3 := decodeTableWord_ne _
theorem Shape.wake :
    Shape.Statement .wake := decodeTableWord_ne _
theorem Shape.recOffset (offset : Word) :
    Shape.Statement (.recOffset offset) := decodeTableWord_ne _
theorem Shape.recRead :
    Shape.Statement .recRead := decodeTableWord_ne _
theorem Shape.monitor (kind : Byte) (index : Byte) :
    Shape.Statement (.monitor kind index) := decodeTableWord_ne _
theorem Shape.i3cCcc (code : I3cCode) :
    Shape.Statement (.i3cCcc code) := decodeTableWord_ne _
theorem Shape.rimLinkUp (port : PortNo) :
    Shape.Statement (.rimLinkUp port) := decodeTableWord_ne _
theorem Shape.queuePairError (peer : ChipNo) (port : PortNo) (abortQp : Bool) :
    Shape.Statement (.queuePairError peer port abortQp) := decodeTableWord_ne _
theorem Shape.nocWriteAcknowledgement (cmd : Nat) (bytes : Nat) :
    Shape.Statement (.nocWriteAcknowledgement cmd bytes) := decodeTableWord_ne _
theorem Shape.hostEnablesPri :
    Shape.Statement .hostEnablesPri := decodeTableWord_ne _
theorem Shape.vregWordUnacknowledged (rail : BitVec 4) :
    Shape.Statement (.vregWordUnacknowledged rail) := decodeTableWord_ne _
theorem Shape.retentionWriteDone (ok : Bool) :
    Shape.Statement (.retentionWriteDone ok) := decodeTableWord_ne _
theorem Shape.i3cUnknownCode (bytes : List Byte) :
    Shape.Statement (.i3cUnknownCode bytes) := decodeTableWord_ne _

end Sys2Proof.Laws
end

