-- ==== Sys2Proof/Tests/Slice0.lean ====
section
/-! SUPPORT. Small tests of single steps, a term that each check of well-formedness refuses, and for every statement with hypotheses
states and operands that meet them. -/

namespace Sys2Proof.Tests

open Sys2Proof Sys2Proof.Machine

set_option maxRecDepth 100000
set_option Elab.async false

/-! ### Small states -/

/-- A packet of 32 words, the listed ones not zero. -/
def pkt (ws : List (Nat × Nat)) : List Word := (List.range 32).map fun i => BitVec.ofNat 32 ((ws.lookup i).getD 0)

/-- A packet of 16 words. -/
def pkt16 (ws : List (Nat × Nat)) : List Word := (pkt ws).take 16

/-- An active queue of 64 slots for a context, its rings in chip memory. -/
def liveQueue (c : Nat) : Queue :=
  { base := 2 ^ 63 + c * 2 ^ 16, replyBase := 2 ^ 63 + 2 ^ 24 + c * 2 ^ 16,
    cfg := { depthLog2 := 6, ctx := c, limit := 8 }, st := .active, enable := true,
    p1 := { free := 8 }, p2 := { free := 8 } }

/-- The windows of a context: all of chip memory, read and written. -/
def allWins : List Win := [{ base := 2 ^ 63, pages := 2 ^ 31, r := true, w := true }]

/-- READY, with context 0, a training context 1 and a serving context 2, each with its queue. -/
def ready : State :=
  wr Reg.BOOT_STAT_PHASE 0 5 { State.reset with
    pins := { pwrGood := true }, host := { st := .opened, linkUp := true, fresh := false }, nextId := 8
    ctxs := [(0, { st := .opened, kind := 2, gen := 1 }),
      (1, { st := .opened, kind := 1, gen := 1, wins := allWins, valveBase := 16, valveCount := 16 }),
      (2, { st := .opened, kind := 2, gen := 1, wins := allWins, valveBase := 32, valveCount := 16 })]
    queues := [(0, liveQueue 0), (1, liveQueue 1), (2, liveQueue 2)] }

/-- A command of a context, on its queue. -/
def mk (id c : Nat) (ph : Phase) (ws : List Word) (w : Work := .none) : Cmd :=
  { id := id, queue := c, ctx := c, gen := 1, words := ws, phase := ph, training := c == 1, work := w }

/-- READY with commands. -/
def withCmds (cs : List Cmd) : State := { ready with cmds := cs }

/-- A table of 8 rows of 16 elements in the cistern of this chip that context 1 trains, its step 3 committed. -/
def trainTable : Table :=
  { desc := { trainEn := true, trainCtx := 1, rows := 8 }, shards := [⟨1, 0, 0, cisternBase⟩], vers := [{ num := 0, st := .working }],
    created := 1, step := 3 }

/-- A table of 8 rows whose version 0 is published, in the cistern above the other. -/
def serveTable : Table :=
  { desc := { rows := 8 }, shards := [⟨1, 0, 0, cisternBase + 65536⟩], vers := [{ num := 0, st := .published }], created := 1 }

/-- READY with table 0 in training, table 1 in service, and commands. -/
def tabled (cs : List Cmd) : State := { ready with tables := [(0, trainTable), (1, serveTable)], cmds := cs }

/-! ### Valves, replies and queues -/

/-- Command `id` of a state, whatever it is. -/
def cmdOf (s : State) (id : Nat) : Cmd := (cmd? s id).getD {}

/-- A VALVE_OP. -/
def valveOp (op v x : Nat) : List Word := pkt16 [(0, 0x20), (8, v + op * 2 ^ 16), (9, x)]

/-- A rill program: its header words, and its instruction slots. -/
def prog (hs : List (Nat × Nat)) (slots : List Nat) : List Word :=
  let h := (0, slots.length) :: hs ++ (slots.zipIdx.flatMap fun e => [(32 + 2 * e.2, e.1 % 2 ^ 32), (33 + 2 * e.2, e.1 / 2 ^ 32)])
  (List.range 64).map fun i => BitVec.ofNat 32 ((h.lookup i).getD 0)

/-- A generation that stands at instruction `pc` of its program. -/
def gen (id : Nat) (p : List Word) (pc : Nat) : SDesc := { st := .active, gen := 4, prog := p, cmd := some id, pc := pc }

/-- The STREAM_ARM of descriptor `k`, whose generation runs. -/
def armOf (id k : Nat) : Cmd := mk id 1 .running (pkt16 [(0, 0x18), (1, 1), (8, k), (12, 2 ^ 31)])

/-- Valves 5 and 6 hold 7 and the greatest count; valve commands of every operation, issued, and some that wait. -/
def valveState : State := { ready with
  valves := [(5, 7), (6, 0xFFFFFFFF)]
  descs := [(3, gen 11 (prog [] [5 + 5 * 2 ^ 16 + 7 * 2 ^ 32]) 0)]
  cmds := [mk 0 0 .issued (valveOp 0 5 9), mk 1 0 .issued (valveOp 1 5 2), mk 2 0 .issued (valveOp 1 6 1),
    mk 3 0 .issued (valveOp 2 5 7), mk 4 0 .issued (valveOp 3 5 8), mk 5 0 .issued (valveOp 4 5 0),
    mk 6 0 .running (valveOp 2 5 7), mk 7 0 .running (valveOp 3 5 8), mk 8 0 .running (valveOp 2 5 8),
    mk 9 0 .running (valveOp 3 5 7), mk 10 0 .admitted (pkt16 [(0, 0x2000), (3, 5)]), armOf 11 3] }

/-- The same, after an addition of queue 1 to valve 5 in the cycle that runs. -/
def cycleState : State := { valveState with mods := [{ valve := 5, source := 1, set := false, amount := 4, before := 3 }] }

theorem witness_valve_set_add_read :
    (Acts valveState 0 0x20 (cmdOf valveState 0) ∧ Pkt.destTier (cmdOf valveState 0).words = 0)
    ∧ (Acts valveState 1 0x20 (cmdOf valveState 1) ∧ Pkt.destTier (cmdOf valveState 1).words = 1
      ∧ valve valveState (Pkt.valve (cmdOf valveState 1).words) + Pkt.w9 (cmdOf valveState 1).words < 2 ^ 32)
    ∧ (Acts valveState 2 0x20 (cmdOf valveState 2) ∧ Pkt.destTier (cmdOf valveState 2).words = 1
      ∧ 2 ^ 32 ≤ valve valveState (Pkt.valve (cmdOf valveState 2).words) + Pkt.w9 (cmdOf valveState 2).words)
    ∧ (Acts valveState 5 0x20 (cmdOf valveState 5) ∧ Pkt.destTier (cmdOf valveState 5).words = 4)
    ∧ (∀ id ∈ [0, 1], Acts cycleState id 0x20 (cmdOf cycleState id)
      ∧ (∃ m, cycleState.mods = [m] ∧ m.valve = Pkt.valve (cmdOf cycleState id).words)
      ∧ valve cycleState 5 + Pkt.w9 (cmdOf cycleState id).words < 2 ^ 32) :=
  ⟨by decide +kernel, by decide +kernel, by decide +kernel, by decide +kernel, fun id h => ⟨by revert id; decide +kernel, ⟨_, rfl, by
    revert id; decide +kernel⟩, by revert id; decide +kernel⟩⟩

theorem witness_valve_waits :
    (Acts valveState 3 0x20 (cmdOf valveState 3) ∧ Pkt.destTier (cmdOf valveState 3).words = 2)
    ∧ (Acts valveState 4 0x20 (cmdOf valveState 4) ∧ Pkt.destTier (cmdOf valveState 4).words = 3)
    ∧ ((cmdOf valveState 6).phase = .running ∧ Pkt.destTier (cmdOf valveState 6).words = 2
      ∧ Pkt.w9 (cmdOf valveState 6).words ≤ valve valveState (Pkt.valve (cmdOf valveState 6).words))
    ∧ ((cmdOf valveState 9).phase = .running ∧ Pkt.destTier (cmdOf valveState 9).words = 3
      ∧ valve valveState (Pkt.valve (cmdOf valveState 9).words) = Pkt.w9 (cmdOf valveState 9).words)
    ∧ ((cmdOf valveState 8).phase = .running ∧ Pkt.destTier (cmdOf valveState 8).words = 2
      ∧ valve valveState (Pkt.valve (cmdOf valveState 8).words) < Pkt.w9 (cmdOf valveState 8).words)
    ∧ ((cmdOf valveState 7).phase = .running ∧ Pkt.destTier (cmdOf valveState 7).words = 3
      ∧ valve valveState (Pkt.valve (cmdOf valveState 7).words) ≠ Pkt.w9 (cmdOf valveState 7).words)
    ∧ (cmd? valveState 10 = some (cmdOf valveState 10) ∧ (cmdOf valveState 10).phase = .admitted
      ∧ Pkt.waitEn (cmdOf valveState 10).words = true
      ∧ 1 ≤ valve valveState (Pkt.waitValve (cmdOf valveState 10).words))
    ∧ (Rolls valveState 3 5 (desc valveState 3) ∧ (desc valveState 3).cmd = some 11
      ∧ cmd? valveState 11 = some (cmdOf valveState 11)
      ∧ insValue (slotAt (desc valveState 3).prog 0) ≤ valve valveState (insValve (slotAt (desc valveState 3).prog 0))) := by
  decide +kernel

/-- A reply that is held. -/
def heldOne : HeldReply :=
  { queue := 2, ctx := 2, slots := 1, credit := true, tag := 1, status := 0, opcode := 0, d0 := 0, d1 := 0, digest := 0 }

/-- Finished commands: of a queue whose replies go out, of one whose replies are held, of one that drains, and one that has
written host memory. -/
def doneState : State := { ready with
  queues := [(0, { liveQueue 0 with p1 := { free := 7 }, p2 := { free := 7 } }),
    (1, { liveQueue 1 with st := .draining, enable := false, p1 := { pi := 63, ci := 60, free := 7 },
                           p2 := { pi := 63, ci := 60, free := 7 } }),
    (2, { liveQueue 2 with replyBase := 4096, p1 := { free := 6 }, p2 := { free := 6 } })]
  host := { ready.host with ats := true, held := [heldOne] }
  cmds := [mk 0 0 .done (pkt16 [(0, 0x10000)]), mk 1 1 .done (pkt16 [(1, 1)]), mk 2 2 .done (pkt16 [(1, 2)]),
    { mk 3 0 .done (pkt16 [(0, 0x400)]) with use := { hostWritten := 5, lastHost := 0x2000, pages := [(2, 0x2000), (1, 0x1000)] } },
    { mk 4 0 .running (pkt16 []) with use := { reads := [{ addr := 0x2000, covers := 3 }, { addr := 0x3000, covers := 5 }], chipPending := 4 } },
    mk 6 1 .done (pkt16 [(0, 0x1000), (1, 1), (4, 64)])] }

/-- A command in flight, and one that waits for a page. -/
def xlateState : State := { ready with
  cmds := [mk 0 1 .issued (pkt16 [(0, 1), (1, 1)]),
    { mk 1 1 .running (pkt16 [(0, 1), (1, 1)]) with
      use := { fault := some { addr := 0x5123, write := true, site := .packet 11#5, retries := 0, sent := true } } }]
  host := { ready.host with ats := true, alloc := 8, atc := [{ space := 0, page := 4096#64, size := 4096, read := true, write := true }] } }

theorem witness_command_complete_posts_one_reply :
    (cmd? doneState 0 = some (cmdOf doneState 0) ∧ (cmdOf doneState 0).phase = .done ∧ awaitsEnd (cmdOf doneState 0) = false
      ∧ (cmdOf doneState 0).use.fault = none ∧ flagLacks doneState (cmdOf doneState 0) = []
      ∧ doneState.sup.halted = false ∧ (cmdOf doneState 0).use.chipPending = 0 ∧ (cmdOf doneState 0).use.reads = []
      ∧ (cmdOf doneState 0).use.hostWritten = 0 ∧ replyHeld doneState (cmdOf doneState 0).queue = false)
    ∧ (cmd? doneState 2 = some (cmdOf doneState 2) ∧ (cmdOf doneState 2).phase = .done ∧ awaitsEnd (cmdOf doneState 2) = false
      ∧ (cmdOf doneState 2).use.fault = none ∧ flagLacks doneState (cmdOf doneState 2) = []
      ∧ (cmdOf doneState 2).use.chipPending = 0 ∧ (cmdOf doneState 2).use.reads = []
      ∧ (cmdOf doneState 2).use.hostWritten = 0 ∧ replyHeld doneState (cmdOf doneState 2).queue = true)
    ∧ (cmd? doneState 3 = some (cmdOf doneState 3) ∧ (cmdOf doneState 3).phase = .done ∧ awaitsEnd (cmdOf doneState 3) = false
      ∧ (cmdOf doneState 3).use.fault = none ∧ (cmdOf doneState 3).use.flushed = false ∧ (cmdOf doneState 3).use.hostWritten ≠ 0
      ∧ doneState.host.st = .opened)
    ∧ (cmd? doneState 6 = some (cmdOf doneState 6) ∧ (cmdOf doneState 6).phase = .done ∧ awaitsEnd (cmdOf doneState 6) = false
      ∧ (cmdOf doneState 6).use = {} ∧ flagLacks doneState (cmdOf doneState 6) ≠ []) := by decide +kernel

theorem witness_reply_record_in_memory : ∀ id ∈ [0, 1],
    cmd? doneState id = some (cmdOf doneState id) ∧ (cmdOf doneState id).phase = .done ∧ (cmdOf doneState id).work = .none
    ∧ (cmdOf doneState id).op ≠ 0x18 ∧ (cmdOf doneState id).use.fault = none ∧ dropWaits id doneState = doneState
    ∧ (cmdOf doneState id).snaps = [] ∧ Pkt.cflagEn (cmdOf doneState id).words = false
    ∧ Pkt.postEn (cmdOf doneState id).words = false ∧ doneState.sup.halted = false
    ∧ (cmdOf doneState id).use.chipPending = 0 ∧ (cmdOf doneState id).use.reads = [] ∧ (cmdOf doneState id).use.hostWritten = 0
    ∧ (queue doneState (cmdOf doneState id).queue).p1 = (queue doneState (cmdOf doneState id).queue).p2
    ∧ replyHeld doneState (cmdOf doneState id).queue = false := by decide +kernel

/-- A NOP that was issued, and one at the head of its queue. -/
def nopState : State := withCmds [mk 0 0 .issued (pkt16 []), mk 1 1 .admitted (pkt16 [(1, 1)])]

theorem witness_arbiter_grant_issues :
    Acts nopState 0 0x00 (cmdOf nopState 0)
    ∧ (∃ q u, freeCore nopState = some 0 ∧ nextGrant nopState = some (q, u) ∧ q ≠ serveQueue ∧ headCmd u q = some (cmdOf nopState 1)
      ∧ cmd? u 1 = some (cmdOf nopState 1) ∧ flagOutside u (cmdOf nopState 1) = false ∧ u.host.st = .opened)
    ∧ nextLookup ready = none ∧ ∀ q, eligible ready q = false := by
  refine ⟨by decide +kernel, ⟨1, ((nextGrant nopState).getD (0, ready)).2, by decide +kernel⟩, rfl, fun q => ?_⟩
  simp only [eligible, show headCmd ready q = none from rfl, Bool.and_false]

theorem witness_traffic_acknowledged :
    (cmd? doneState 4 = some (cmdOf doneState 4) ∧ (cmdOf doneState 4).use.reads ≠ [] ∧ (cmdOf doneState 4).ctx = 0
      ∧ (cmdOf doneState 4).phase ≠ .reading)
    ∧ (cmd? doneState 5 = none ∧ 5 < doneState.nextId) ∧ doneState.host.invals = []
    ∧ (∀ c ∈ xlateState.cmds, ∀ f ∈ c.use.fault, f.sent = true) := by decide +kernel

/-- The queues: ACTIVE with 60 of its 64 slots covered, HELD, FENCED, DISABLED, OVERRUN and DRAINING. -/
def queueState : State := { ready with
  queues := [(0, { liveQueue 0 with tail := 60, w := 60, p1 := { pi := 3, free := 8 }, p2 := { pi := 3, free := 8 },
                                    unread := [1, 2, 1] }),
    (1, { liveQueue 1 with st := .held }), (2, { liveQueue 2 with st := .fenced }),
    (3, { liveQueue 1 with st := .disabled, enable := false }), (4, { liveQueue 1 with st := .overrun, flags := { dbOverrun := true } }),
    (5, { liveQueue 2 with st := .draining, enable := false }), (6, {}), (7, { liveQueue 1 with st := .held })]
  cmds := [{ mk 0 2 .running (pkt16 [(1, 2)]) with queue := 5 }, { mk 1 1 .running (pkt16 [(1, 1)]) with queue := 7 }] }

/-- Doorbells of an ACTIVE queue that fit to the last slot and that do not, of a HELD and a FENCED one, and of queues that take none. -/
theorem witness_doorbells :
    (Serves queueState (qCtl 0 0) ∧ phaseOf queueState = 5 ∧ (queue queueState 0).st = .active ∧ 63 < (queue queueState 0).depth
      ∧ (queue queueState 0).w + 3 ≤ (queue queueState 0).depth - 1 ∧ (queue queueState 0).depth ≤ 64
      ∧ (queue queueState 0).depth - 1 < (queue queueState 0).w + 4)
    ∧ (∀ q ∈ [1, 2], Serves queueState (qCtl q 0) ∧ ((queue queueState q).st = .held ∨ (queue queueState q).st = .fenced))
    ∧ (∀ q ∈ [3, 4, 5], Serves queueState (qCtl q 0)
      ∧ ((queue queueState q).st = .disabled ∨ (queue queueState q).st = .overrun ∨ (queue queueState q).st = .draining))
    ∧ Serves queueState (qCtl 4 0x10) ∧ queueState.host.st = .opened := by decide +kernel

theorem witness_enable_and_disable :
    (∀ q ∈ [0, 1, 2, 3, 4, 5, 6, 7], Serves queueState (qCtl q 0x14)) ∧ phaseOf queueState = 5 ∧ queueState.host.st = .opened
    ∧ ((queue queueState 3).st = .disabled ∧ cfgBad 3 (queue queueState 3).cfg = false
      ∧ (ctx queueState (queue queueState 3).cfg.ctx).st = .opened ∧ (queue queueState 3).cfg.limit ≤ poolFree queueState
      ∧ (queue queueState 3).p1 = (queue queueState 3).p2)
    ∧ (queue queueState 5).st = .draining ∧ (queue queueState 2).st = .fenced
    ∧ (cfgBad 6 { (queue queueState 3).cfg with depthLog2 := 5 } = true)
    ∧ (queue queueState 0).st = .active ∧ (queue queueState 1).st = .held ∧ (queue queueState 4).st = .overrun := by decide +kernel

theorem witness_ring_reset :
    (Serves queueState (qCtl 3 0x14) ∧ (queue queueState 3).st = .disabled)
    ∧ (Serves queueState (qCtl 0 0x14) ∧ (queue queueState 0).st ≠ .disabled) := by decide +kernel

theorem witness_reply_ci_write :
    Serves queueState (qCtl 0 4) ∧ (queue queueState 0).p1 = (queue queueState 0).p2
    ∧ (let v := queue queueState 0
      (3 < v.depth ∧ (3 + v.depth - v.p1.ci) % v.depth ≤ (v.p1.pi + v.depth - v.p1.ci) % v.depth)
      ∧ v.depth ≤ 64 ∧ (v.p1.pi + v.depth - v.p1.ci) % v.depth < (4 + v.depth - v.p1.ci) % v.depth) := by decide +kernel
/-! ### Packets, streams and the host path -/

/-- Queues with covered slots; queue 1 is FENCED in `fencedState`, and queue 2 has no credit in `fullState`. -/
def packetState : State := { tabled [] with
  queues := [(0, { liveQueue 0 with tail := 4, w := 4 }), (1, { liveQueue 1 with tail := 4, w := 4 }),
    (2, { liveQueue 2 with tail := 4, w := 4 })] }

def fencedState : State := setQueue 1 { (queue packetState 1) with st := .fenced } packetState

def fullState : State := setQueue 2 { (queue packetState 2) with p1 := { free := 0 }, p2 := { free := 0 } } packetState

/-- A MERGE_APPLY of step 4 on table 0. -/
def mergePacket : List Word := pkt16 [(0, 4), (1, 1), (2, 4)]

/-- A CASCADE of one feature for context 2. -/
def cascadePacket : List Word := pkt16 [(0, 2), (1, 2), (8, 1), (9, 1), (11, 4096), (12, 2 ^ 31)]

/-- Queue 0 has a header whose extension no doorbell covers, its fetch begun. -/
def extState : State := setQueue 0 { queue packetState 0 with tail := 1, w := 1, begun := 1 } packetState

theorem witness_packet_fetch_admits :
    (packetState.sup.halted = false ∧ fetchable packetState 1 mergePacket = true ∧ (queue packetState 1).st = .active
      ∧ packetState.host.st = .opened ∧ (queue packetState 1).p1 = (queue packetState 1).p2 ∧ (queue packetState 1).p1.free ≠ 0
      ∧ packetState.cmds = [] ∧ Pkt.op mergePacket ≠ 2
      ∧ (let u := setQueue 1 ((queue packetState 1).passed (slotsOf mergePacket)) packetState
        checks15 u 1 mergePacket = none ∧ checks67 u mergePacket = none))
    ∧ (fetchable packetState 2 cascadePacket = true ∧ (queue packetState 2).st = .active
      ∧ (queue packetState 2).p1 = (queue packetState 2).p2 ∧ (queue packetState 2).p1.free ≠ 0 ∧ Pkt.op cascadePacket = 2
      ∧ (let u := setQueue 2 ((queue packetState 2).passed (slotsOf cascadePacket)) packetState
        checks15 u 2 cascadePacket = none ∧ listAllowed u 2 cascadePacket = true))
    ∧ mayBegin packetState 1 = true ∧ mayBegin packetState 3 = false
    ∧ (fetchable extState 0 (pkt16 [(0, 0x100)]) = false ∧ lacksExtension extState 0 (pkt16 [(0, 0x100)]) = true
      ∧ (queue extState 0).st = .active) := by decide +kernel

theorem witness_packet_fetch_refuses :
    (packetState.sup.halted = false ∧ fetchable packetState 3 mergePacket = false ∧ lacksExtension packetState 3 mergePacket = false)
    ∧ (fetchable fencedState 1 mergePacket = true ∧ (queue fencedState 1).p1 = (queue fencedState 1).p2
      ∧ (queue fencedState 1).st = .fenced)
    ∧ (fetchable fullState 2 cascadePacket = true ∧ (queue fullState 2).p1 = (queue fullState 2).p2
      ∧ (queue fullState 2).st ≠ .fenced ∧ (queue fullState 2).p1.free = 0) := by decide +kernel

/-- The header of a program that moves 8 bytes an element from 2^63 + 4096 to 2^63 + 8192. -/
def moveHead : List (Nat × Nat) := [(1, 8), (2, 4096), (3, 2 ^ 31), (4, 8192), (5, 2 ^ 31), (6, 8), (12, 8)]

/-- A loop of 3 over a MOVE, a POST of valve 16, a WAIT on it, a FENCE and a HALT. -/
def loopProg : List Word :=
  prog moveHead [1 + 3 * 2 ^ 16, 3, 2, 4 + 16 * 2 ^ 16, 5 + 16 * 2 ^ 16 + 2 ^ 32, 6, 0]

/-- A MOVE of 8 bytes whose source lies in host memory. -/
def hostProg : List Word := prog [(1, 8), (2, 4096), (4, 8192), (5, 2 ^ 31), (6, 8), (12, 8)] [3, 0]

/-- Generations of descriptors 0 to 8 at every instruction of that program; the loop at its last index in descriptor 8, the wait
unsatisfied, a MOVE of a context without windows in descriptor 9, one of an untranslated page in descriptor 10, and a POST whose host
writes are not flushed in descriptor 11. -/
def rillState : State :=
  let own := fun (s : State) (k : Nat) => wr Reg.STREAM_DESC_CFG_CTX k 1 s
  let t : State := { ready with
    host := { ready.host with ats := true }
    mem := writeKeys [] (2 ^ 63 + 4096) [1#8, 2#8, 3#8, 4#8, 5#8, 6#8, 7#8, 8#8]
    descs := (List.range 7).map (fun k => (k, gen k loopProg k))
      ++ [(7, { gen 7 loopProg 4 with waitOk := true }), (8, { gen 8 loopProg 2 with idx := [2, 0, 0, 0, 0, 0] }), (9, gen 9 loopProg 1),
        (10, gen 10 hostProg 0), (11, gen 11 loopProg 3)]
    cmds := (List.range 11).map (fun k => armOf k k) ++ [{ armOf 11 11 with use := { hostWritten := 8 } }] }
  wr Reg.STREAM_DESC_CFG_CTX 9 3 ((List.range 9).foldl own t)

theorem witness_rill_loops :
    (∀ p ∈ [(6, 0), (0, 1), (2, 2), (8, 2), (5, 6)], Rolls rillState p.1 p.2 (desc rillState p.1)
      ∧ (desc rillState p.1).cmd = some p.1 ∧ cmd? rillState p.1 = some (cmdOf rillState p.1))
    ∧ (desc rillState 2).idx.getD 0 0 + 1 < insCount (slotAt loopProg 0)
    ∧ insCount (slotAt loopProg 0) ≤ (desc rillState 8).idx.getD 0 0 + 1 := by decide +kernel

/-- Where the transfers of the next element of a generation stop. -/
def stops (k : Nat) : List (Option XStop) :=
  let d := desc rillState k
  let x := rd Reg.STREAM_DESC_CFG_CTX k rillState
  (transfersOf (elemAddr d 2 6) (elemAddr d 4 12) d.byteOff (elemOf d.prog)).map fun y =>
    transferStop rillState x (elemAddr d 2 6 + y.1) (elemAddr d 4 12 + y.1) y.2

theorem witness_rill_moves :
    (∀ k ∈ [1, 9, 10], Rolls rillState k 3 (desc rillState k) ∧ (desc rillState k).cmd = some k
      ∧ cmd? rillState k = some (cmdOf rillState k) ∧ (desc rillState k).dsts = [] ∧ elemAddr (desc rillState k) 2 6 + 8 ≤ 2 ^ 64
      ∧ overlaps (elemAddr (desc rillState k) 4 12) 8 [(elemAddr (desc rillState k) 2 6, 8)] = [])
    ∧ stops 1 = [none] ∧ stops 9 = [some .window] ∧ stops 10 = [some (.lacking [4096])]
    ∧ (Rolls rillState 3 4 (desc rillState 3) ∧ flushed (cmdOf rillState 3).use = true ∧ valve rillState 16 + 1 < 2 ^ 32)
    ∧ (Rolls rillState 11 4 (desc rillState 11) ∧ flushed (cmdOf rillState 11).use = false)
    ∧ (Rolls rillState 7 5 (desc rillState 7) ∧ (desc rillState 7).waitOk = true)
    ∧ (Rolls rillState 4 5 (desc rillState 4) ∧ (desc rillState 4).waitOk = false
      ∧ valve rillState (insValve (slotAt loopProg 4)) < insValue (slotAt loopProg 4)) := by decide +kernel

/-- A STREAM_ARM of an IDLE descriptor and one of an ACTIVE one, a descriptor whose pending arm is due, and a STREAM_CANCEL. -/
def armState : State :=
  let arm := fun (id k : Nat) => mk id 1 .issued (pkt16 [(0, 0x18), (1, 1), (8, k), (11, 64), (12, 2 ^ 31)])
  let p := prog moveHead [1 + 3 * 2 ^ 16, 3, 2]
  (List.range 5).foldl (fun s k => wr Reg.STREAM_DESC_CFG_CTX k 1 s) { ready with
    mem := writeKeys [] (2 ^ 63 + 64) (bytesOf p)
    descs := [(1, gen 3 p 1), (2, { gen := 1, promote := true, pend := some (4, p) }), (3, gen 5 p 0)]
    cmds := [arm 0 0, arm 1 1, mk 2 1 .issued (pkt16 [(0, 0x19), (1, 1), (8, 3)]), armOf 3 1, armOf 4 2, armOf 5 3] }

theorem witness_streams_arm_and_cancel :
    (∀ id ∈ [0, 1], Acts armState id 0x18 (cmdOf armState id) ∧ descNo (cmdOf armState id) = id
      ∧ rd Reg.STREAM_DESC_CFG_CTX id armState = (cmdOf armState id).ctx ∧ (desc armState id).pend = none
      ∧ Pkt.addrA (cmdOf armState id).words % 64 = 0
      ∧ windowAllows armState 1 (Pkt.addrA (cmdOf armState id).words) 256 false = true
      ∧ programCheck armState 1 (readWords armState 0 (Pkt.addrA (cmdOf armState id).words) 64) = none
      ∧ programHost (cmdOf armState id) (readWords armState 0 (Pkt.addrA (cmdOf armState id).words) 64) = false)
    ∧ ((desc armState 0).st = .idle ∧ (desc armState 0).promote = false ∧ (desc armState 0).cmd = none)
    ∧ ((desc armState 1).st = .active ∧ (desc armState 1).cmd ≠ some 1)
    ∧ ((desc armState 2).promote = true ∧ (∃ p, (desc armState 2).pend = some (4, p)) ∧ descNo (cmdOf armState 4) = 2
      ∧ cmd? armState 4 = some (cmdOf armState 4))
    ∧ (Acts armState 2 0x19 (cmdOf armState 2) ∧ descNo (cmdOf armState 2) = 3 ∧ rd Reg.STREAM_DESC_CFG_CTX 3 armState = 1
      ∧ (desc armState 3).pend = none ∧ (desc armState 3).cmd = some 5 ∧ cmd? armState 5 = some (cmdOf armState 5)
      ∧ 2 ∉ (desc armState 3).cancel ∧ (cmdOf armState 5).phase ≠ .done) := by
  refine ⟨by decide +kernel, by decide +kernel, by decide +kernel, ⟨rfl, ⟨_, rfl⟩, by decide +kernel⟩, by decide +kernel⟩

/-- A COPY of 5 bytes by context 0. -/
def copyState : State := { ready with
  mem := writeKeys [] 100 [9#8, 8#8, 7#8, 6#8, 5#8]
  cmds := [mk 0 0 .issued (pkt16 [(0, 0x1A), (9, 5), (11, 100), (13, 4094)]) (.copy 0 none)] }

/-- The same behind 64 generations, which hold every rill engine. -/
def busyState : State := { copyState with
  descs := (List.range 64).map fun k => (k, { gen 9 (prog [] [0]) 0 with order := k })
  host := { copyState.host with order := 64 } }

theorem witness_copy_moves_bytes :
    (∀ s ∈ [copyState, busyState], Acts s 0 0x1A (cmdOf s 0) ∧ (cmdOf s 0).work = .copy 0 none)
    ∧ Pkt.addrA (cmdOf copyState 0).words + Pkt.w9 (cmdOf copyState 0).words ≤ Pkt.addrB (cmdOf copyState 0).words
    ∧ Pkt.addrB (cmdOf copyState 0).words + Pkt.w9 (cmdOf copyState 0).words ≤ 2 ^ 64
    ∧ (∀ y ∈ transfersOf 100 4094 0 5, transferStop copyState 0 (100 + y.1) (4094 + y.1) y.2 = none)
    ∧ holdsEngine copyState copyState.host.order = true ∧ holdsEngine busyState busyState.host.order = false := by decide +kernel

theorem witness_translation_faults :
    (cmd? xlateState 0 = some (cmdOf xlateState 0) ∧ (cmdOf xlateState 0).op ≠ 0x18 ∧ (cmdOf xlateState 0).op ≠ 0x1A
      ∧ (cmdOf xlateState 0).use.fault = none ∧ (cmdOf xlateState 0).phase = .issued ∧ rd Reg.PRI_STAT_STOPPED 0 xlateState ≠ 1 ∧ xlateState.host.ats = true
      ∧ translated xlateState (spaceOf xlateState 1) 0x9000 1 true = false ∧ prgRoom xlateState = true
      ∧ prgRoom { xlateState with host := { xlateState.host with alloc := 1 } } = false ∧ ready.host.ats = false)
    ∧ (cmd? xlateState 1 = some (cmdOf xlateState 1)
      ∧ (cmdOf xlateState 1).use.fault = some { addr := 0x5123, write := true, site := .packet 11#5, retries := 0, sent := true }
      ∧ (cmdOf xlateState 1).op ≠ 0x18 ∧ (cmdOf xlateState 1).op ≠ 0x1A ∧ (cmdOf xlateState 1).phase ≠ .reading
      ∧ 0 < rd Reg.PRI_CFG_RETRY 0 xlateState ∧ rd Reg.PRI_CFG_RETRY 0 (wr Reg.PRI_CFG_RETRY 0 0 xlateState) = 0)
    ∧ xlateState.host.invals = [] ∧ (∀ c ∈ xlateState.cmds, readsIn c 0 4096 = 0)
    ∧ (∃ c ∈ doneState.cmds, spaceOf doneState c.ctx = 0 ∧ readsIn c 0x2000 4096 ≠ 0) := by decide +kernel

/-- The sluice OPEN over a command that reads host memory and one that does not, with a ring in host memory; and CLOSED, the link
down, for the first time or after a closure. -/
def openState : State := { ready with
  queues := [(0, liveQueue 0), (1, { liveQueue 1 with base := 4096, replyBase := 8192 })]
  cmds := [mk 0 1 .running (pkt16 [(0, 6), (1, 1), (9, 1), (11, 64)]), mk 1 0 .issued (pkt16 [])] }

def freshState : State := { openState with host := { st := .closed, fresh := true } }

def shutState : State := { openState with
  host := { st := .closed, fresh := false, epoch := 65535, linkUp := true }
  queues := [(0, liveQueue 0), (1, { liveQueue 1 with base := 4096, replyBase := 8192, st := .held })]
  cmds := [{ mk 1 0 .running (pkt16 [(0, 1)]) with use := { fault := some { addr := 64, write := false, site := .program, retries := 1, sent := true } } }] }

theorem witness_sluice_closes :
    (openState.sup.halted = false ∧ openState.host.st = .opened ∧ served openState Reg.HOSTPATH_CTRL_CLOSE.off = true)
    ∧ (freshState.sup.halted = false ∧ freshState.host.st ≠ .opened) := by decide +kernel

theorem witness_sluice_opens :
    (freshState.sup.halted = false ∧ freshState.pins.pwrGood = true ∧ freshState.host.fresh = true ∧ freshState.host.st = .closed)
    ∧ openState.host.st ≠ .closed
    ∧ (served shutState Reg.HOSTPATH_REATTACH_EPOCH.off = true ∧ shutState.host.st = .closed ∧ shutState.host.fresh = false
      ∧ shutState.host.linkUp = true ∧ shutState.host.epoch = (65535#16).toNat)
    ∧ shutState.host.epoch ≠ (0#16).toNat := by decide +kernel

/-! ### Contexts -/

/-- A context record: partition 0, PASID 7, valves 64 to 79, a window of 16 pages at 2^63. -/
def ctxRecord : List Word := (List.range 32).map fun i => BitVec.ofNat 32
  ((([(1, 2 ^ 31 + 7), (2, 64), (3, 16)] : List (Nat × Nat)).lookup i).getD 0)

/-- CONTEXT_OPENs of a FREE, a QUARANTINED, an OPEN, a CLOSING and a RESETTING context, and the CONTEXT_CLOSE of each. -/
def ctxState : State :=
  let op := fun (id code k : Nat) (ph : Phase) => mk id 0 ph (pkt16 [(0, code), (8, k + 2 ^ 8), (11, 4096)])
  let cl := fun (id k : Nat) => mk id 0 .issued (pkt16 [(0, 0x29), (8, k)])
  { ready with
    mem := writeKeys [] 4096 (bytesOf ctxRecord)
    valves := [(64, 3), (80, 4)]
    ctxs := ready.ctxs ++ [(4, { st := .quarantined, gen := 2 }), (5, { st := .closing, gen := 2 }), (6, { st := .resetting })]
    queues := ready.queues ++ [(9, { liveQueue 1 with cfg := { depthLog2 := 6, ctx := 5, limit := 8 }, st := .fenced })]
    cmds := [op 0 0x28 3 .issued, op 1 0x28 4 .running, op 2 0x28 2 .issued, op 3 0x28 5 .issued, op 4 0x28 6 .issued, cl 5 1, cl 6 3,
      { mk 7 5 .running (pkt16 [(1, 5)]) with queue := 9 }] }

theorem witness_context_open :
    (∀ id ∈ [0, 1, 2, 3, 4], Acts ctxState id 0x28 (cmdOf ctxState id))
    ∧ (Pkt.target (cmdOf ctxState 0).words = 3 ∧ (ctx ctxState 3).st = .free
      ∧ ctxFault ctxState (readWords ctxState (spaceOf ctxState 0) (Pkt.addrA (cmdOf ctxState 0).words) 32) = none)
    ∧ (Pkt.target (cmdOf ctxState 1).words = 4 ∧ (ctx ctxState 4).st = .quarantined ∧ (cmdOf ctxState 1).phase = .running)
    ∧ (Pkt.target (cmdOf ctxState 2).words = 2 ∧ (ctx ctxState 2).st = .opened)
    ∧ (Pkt.target (cmdOf ctxState 3).words = 5 ∧ (ctx ctxState 5).st = .closing)
    ∧ (Pkt.target (cmdOf ctxState 4).words = 6 ∧ (ctx ctxState 6).st = .resetting) := by decide +kernel

theorem witness_context_close :
    (Acts ctxState 5 0x29 (cmdOf ctxState 5) ∧ Pkt.target (cmdOf ctxState 5).words = 1 ∧ (ctx ctxState 1).st = .opened
      ∧ (cmdOf ctxState 5).phase = .issued ∧ (∀ d ∈ ctxState.cmds, d.ctx ≠ 1) ∧ Sparse.wf {} ctxState.queues = true)
    ∧ (Acts ctxState 6 0x29 (cmdOf ctxState 6) ∧ (ctx ctxState (Pkt.target (cmdOf ctxState 6).words)).st = .free)
    ∧ ((ctx ctxState (5#8).toNat).st = .closing ∧ Sparse.wf {} ctxState.queues = true)
    ∧ (ctx ctxState (4#8).toNat).st = .quarantined := by decide +kernel

theorem witness_context_reset :
    (Serves valveState 0x428 ∧ (1#8).toNat ≠ 0 ∧ (ctx valveState 1).st = .opened ∧ Sparse.wf {} valveState.queues = true)
    ∧ Serves ctxState 0x428 ∧ (ctx ctxState 3).st ≠ .opened := by decide +kernel

/-- An abort frame of JOB 5 that reaches context 1, whose JOB is 5. -/
def abortState : State := wr Reg.FABRIC_CFG_ABORT_ACT 0 1 (wr Reg.CTX_JOB_JOB_ID 1 5 valveState)

def abortFrame (job : Nat) : List Byte := abortBytes abortState 6 job 0xFF 0 0xFFFFFFFF

theorem witness_abort_frames :
    (abortState.sup.halted = false ∧ phaseOf abortState = 5 ∧ abortOk [] = false)
    ∧ (abortOk (abortFrame 9) = true ∧ abortTargets abortState (msgWord (abortFrame 9) 2) false = [])
    ∧ (abortOk (abortFrame 5) = true ∧ abortTargets abortState (msgWord (abortFrame 5) 2) false = [1]
      ∧ rd Reg.FABRIC_CFG_ABORT_ACT 0 abortState = 1 ∧ overCap abortState 1 = false ∧ Sparse.wf {} abortState.ctxs = true)
    ∧ served abortState 0x2074 = true := by decide +kernel

/-- READY with context 0 alone. -/
def freshCtx : State := { ready with ctxs := ready.ctxs.take 1 }

theorem witness_partition_layout :
    Serves ready 0x430 ∧ (4#4).toNat ≤ 4 ∧ (∀ e ∈ freshCtx.ctxs, e.1 = 0 ∨ e.2.st = .free)
    ∧ Serves freshCtx 0x430 ∧ 4 < (5#4).toNat ∧ (∃ e ∈ ready.ctxs, e.1 ≠ 0 ∧ e.2.st ≠ .free) := by decide +kernel
/-! ### Tables -/

/-- A stored row whose 16 elements are `x`. -/
def rowOf (d : Desc) (row : Nat) (x : Word) : List Byte :=
  let body := bytesOf (List.replicate 16 x)
  body ++ checkTiles d row body

/-- Stores a row at its home. -/
def putRow (t row : Nat) (x : Word) (s : State) : State := writeTier (homeNow s t row) (rowOf (table s t).desc row x) s

/-- A packet of context `c`. -/
def pkc (op c : Nat) (ws : List (Nat × Nat)) : List Word := pkt ((0, op) :: (1, c) :: ws)

/-- A table descriptor: words 0 and 1, 8 rows, its shard map at 8192; of an adapter table, B at 12288. -/
def descBytes (w0 w1 : Nat) : List Byte := bytesOf ((List.range 32).map fun i =>
  BitVec.ofNat 32 ((([(0, w0), (1, w1 + 16 + 10 * 2 ^ 16), (2, 8), (6, 8192), (11, 256)]
    ++ (if bit w0 4 then [(8, 4), (9, 65536), (10, 64)] else []) ++ if bit w0 5 then [(12, 4), (13, 12288)] else []).lookup i).getD 0))

/-- Tables to define (a serving one, a trained one, a versioned one and one with an adapter), versions to open, publish, retire and free. -/
def tableState : State :=
  let d : Desc := { trainEn := true, trainCtx := 1, versioned := true, rows := 8, deltaTier := 1, deltaRows := 4 }
  let tb := fun (vs : List Version) => { desc := d, shards := [⟨1, 0, 0, cisternBase⟩], vers := vs, created := 2 : Table }
  { ready with
    geom := [(0, { granules := 383, ways := 8, slotLog2 := 10, filter := true })]
    mem := writeKeys (writeKeys [] 4096 (descBytes 0 0 ++ descBytes (2 ^ 20) (2 ^ 24)
      ++ descBytes (2 ^ 20 + 16 + 2 ^ 21) (2 ^ 24) ++ descBytes (32 + 5) 0)) 8192 (bytesOf [1#32, 0#32, 0#32, 64#32])
    tables := [(2, tb [{ num := 0, st := .published }]), (3, { serveTable with vers := [{ num := 0, st := .loading }] }),
      (4, tb [{ num := 0, st := .published }, { num := 1, st := .working }]),
      (8, tb [{ num := 0, st := .superseded }, { num := 1, st := .published }]),
      (9, tb [{ num := 0, st := .retiring, retires := [8] }]),
      (10, tb [{ num := 0, st := .retiring }, { num := 1, st := .published }])]
    cmds := [mk 0 0 .issued (pkc 0x10 0 [(8, 5), (11, 4096)]), mk 1 0 .issued (pkc 0x10 0 [(8, 6), (11, 4224)]),
      mk 2 0 .issued (pkc 0x10 0 [(8, 7), (11, 4352)]), mk 3 1 .issued (pkc 0x11 1 [(8, 2)]), mk 4 0 .issued (pkc 0x12 0 [(8, 3)]),
      mk 5 0 .running (pkc 0x12 0 [(8, 3)]), mk 6 1 .running (pkc 0x12 1 [(8, 4), (9, 1)]), mk 7 0 .issued (pkc 0x13 0 [(8, 8)]),
      mk 8 0 .running (pkc 0x13 0 [(8, 9)]), mk 9 0 .issued (pkc 0x10 0 [(8, 11), (11, 4480)])] }

/-- The same with no granule of the side area left. -/
def tightState : State := { tableState with place := { tableState.place with granules := 1 } }

theorem witness_tables_and_versions :
    (∀ id ∈ [0, 1, 2, 9], let c := cmdOf tableState id
      let ws := wordsOf 32 (readMem tableState (spaceOf tableState c.ctx) (Pkt.addrA c.words) 128)
      let es := (List.range (descOf ws).shards).map fun k => wordsOf 4
        ((readMem tableState (spaceOf tableState c.ctx) (addr64 ws 6) (16 * (descOf ws).shards)).drop (16 * k))
      Acts tableState id 0x10 c ∧ (table tableState (Pkt.table c.words)).vers = [] ∧ CanRead tableState c (Pkt.addrA c.words) 128
      ∧ descOffence tableState ws = none ∧ CanRead tableState c (addr64 ws 6) (16 * (descOf ws).shards)
      ∧ mapCheck tableState (descOf ws) es = none ∧ (descOf ws).adapter = decide (id = 9)
      ∧ CanRead tableState c (descOf ws).bAddr (descOf ws).bBytes ∧ (descOf ws).granules ≤ freeGranules tableState
      ∧ (id = 9 → freeGranules tightState < (descOf ws).granules)
      ∧ ((descOf ws).trainEn && (descOf ws).versioned) = decide (id = 2))
    ∧ (Acts tableState 3 0x11 (cmdOf tableState 3) ∧ openRefusal tableState 1 2 = none
      ∧ (table tableState 2).published = some { num := 0, st := .published })
    ∧ (Acts tableState 4 0x12 (cmdOf tableState 4) ∧ publishWaits (table tableState 3) 0 = true)
    ∧ (∀ p ∈ [(5, 3, 0, VState.loading), (6, 4, 1, VState.working)], let c := cmdOf tableState p.1
      Acts tableState p.1 0x12 c ∧ c.phase = .running ∧ publishHeld tableState c = false ∧ Pkt.table c.words = p.2.1
      ∧ Pkt.w9 c.words = p.2.2.1 ∧ publishRefusal (table tableState p.2.1) p.2.2.1 = none
      ∧ (table tableState p.2.1).version? p.2.2.1 = some { num := p.2.2.1, st := p.2.2.2 })
    ∧ (table tableState 4).version? 2 = none
    ∧ (Acts tableState 7 0x13 (cmdOf tableState 7) ∧ retireOk (table tableState 8) 0 = true
      ∧ ∀ x ∈ (table tableState 8).vers, 7 ∉ x.retires)
    ∧ ((table tableState (9#12).toNat).version? 0 = some { num := 0, st := .retiring, retires := [8] }
      ∧ (table tableState (9#12).toNat).vers.length ≤ 1)
    ∧ ((table tableState (10#12).toNat).version? 0 = some { num := 0, st := .retiring }
      ∧ 1 < (table tableState (10#12).toNat).vers.length) := by
  refine ⟨?_, ?_, ?_, ?_, ?_, ?_, ?_, ?_⟩ <;> decide +kernel

/-- LOADING tables 3 and 7 (whose row 1 moves), rows in memory, a version whose base reached the deltas of rows 1 (twice) and 2 (which
moves in table 6), a pinned row and one that a TABLE_SAVE has read. -/
def rowState : State :=
  let d := serveTable.desc
  let v : Table := { desc := { d with versioned := true, trainEn := true, trainCtx := 1, deltaTier := 1, deltaRows := 4,
                                      deltaPool := cisternBase + 2 ^ 20 }
                     shards := [⟨1, 0, 0, cisternBase + 2 ^ 18⟩], vers := [{ num := 2, st := .published }], created := 3 }
  let loading := { serveTable with vers := [{ num := 0, st := .loading }] }
  let moves : PEntry := { table := 6, row := 2, moving := true, src := false, curTier := 0, cur := ⟨0, 0, 0⟩, newTier := 2,
                          new := ⟨2, 0, hbmBase⟩, epoch := 0, waiting := false, cmds := [] }
  let s : State := { ready with
    mem := writeKeys (writeKeys [] 4096 (rowOf d 1 0x3F800000#32 ++ rowOf d 2 0x40000000#32)) (2 ^ 63) (List.replicate 128 7#8)
    tables := [(1, serveTable), (3, loading), (4, { v with delta := [⟨1, 1, 0⟩, ⟨2, 1, 1⟩] }), (5, { v with delta := [⟨2, 2, 2⟩] }),
      (6, { v with delta := [⟨2, 2, 2⟩] }), (7, loading)]
    place := { ready.place with entries := [moves, { moves with table := 7, row := 1 }] }
    slices := [(4, { punty := [{ copy := { table := 1, row := 4, bytes := rowOf d 4 0x3F800000#32 }, train := false, dirty := false,
                                 owners := [2] }] })]
    cmds := [mk 0 0 .issued (pkc 0x114 0 [(8, 3), (10, 2), (11, 4096), (16, 1)]),
      mk 1 0 .issued (pkc 0x114 0 [(8, 3), (11, 4096), (16, 0xFFFFFFFF), (17, 0xFFFFFFFF)]),
      { mk 2 0 .issued (pkc 0x115 0 [(8, 1), (10, 1), (11, 65536), (16, 2)]) with snaps := [⟨1, 0⟩] },
      { mk 3 0 .issued (pkc 0x115 0 [(8, 1), (11, 65536), (16, 0xFFFFFFFF), (17, 0xFFFFFFFF)]) with snaps := [⟨1, 0⟩] },
      mk 4 0 .issued (pkc 0x114 0 [(8, 7), (10, 1), (11, 4096), (16, 1)]),
      { mk 5 0 .issued (pkc 0x115 0 [(8, 1), (10, 1), (11, 65536), (16, 4)]) with snaps := [⟨1, 0⟩] },
      { mk 6 0 .running (pkc 0x115 0 [(8, 1), (10, 1), (11, 65536), (16, 2)]) (.rows { intake := true, rows := [2] }) with
        snaps := [⟨1, 0⟩], asked := [2], got := [⟨2, some (rowOf d 2 0x40000000#32)⟩] }] }
  [5, 6].foldl (fun u t => writeTier ((table u t).slotPlace 2) (rowOf v.desc 2 0x40400000#32) u) (putRow 1 2 0x40000000#32 s)

theorem witness_table_load :
    (∀ id ∈ [0, 1, 4], Acts rowState id 0x14 (cmdOf rowState id) ∧ loadHeld rowState (cmdOf rowState id) = false
      ∧ (table rowState (Pkt.table (cmdOf rowState id).words)).stateCode 0 = 1 ∧ movesB (cmdOf rowState id) = decide (id = 1)
      ∧ (rowsOf (cmdOf rowState id)).intake = false)
    ∧ (∀ i, i < 2 → localRow (table rowState 3) (1 + i) = true ∧ isMoving rowState 3 (1 + i) = false
      ∧ windowAllows rowState 0 (4096 + i * (table rowState 3).desc.stride) (table rowState 3).desc.stride false = true
      ∧ reach rowState (homeNow rowState 3 (1 + i)) (table rowState 3).desc.stride = .ok ∧ (homeNow rowState 3 (1 + i)).tier = 1
      ∧ rowWrites (slice rowState (cmdSlice rowState (cmdOf rowState 0) (1 + i))) 3 (1 + i) = false)
    ∧ windowAllows rowState 0 4096 (table rowState 3).desc.bBytes false = true
    ∧ (localRow (table rowState 7) 1 = true ∧ isMoving rowState 7 1 = true) := by
  refine ⟨?_, ?_, ?_, ?_⟩ <;> decide +kernel

theorem witness_table_save :
    (∀ id ∈ [2, 3, 5, 6], Acts rowState id 0x15 (cmdOf rowState id) ∧ (cmdOf rowState id).snaps ≠ []
      ∧ movesB (cmdOf rowState id) = decide (id = 3) ∧ (rowsOf (cmdOf rowState id)).intake = decide (id = 6))
    ∧ windowAllows rowState 0 65536 128 true = true
    ∧ (∀ p ∈ [(2, 2), (5, 4)], localRow (table rowState 1) p.2 = true ∧ p.2 ∉ (cmdOf rowState p.1).asked
      ∧ gotOf (cmdOf rowState p.1) p.2 = none)
    ∧ (findSpot rowState (slice rowState (cmdSlice rowState (cmdOf rowState 2) 2)) 1 2 0 = none
      ∧ joinable rowState (cmdSlice rowState (cmdOf rowState 2) 2) 1 2 0 = none ∧ reach rowState (rowPlace rowState 1 0 2) 128 = .ok)
    ∧ (findSpot rowState (slice rowState (cmdSlice rowState (cmdOf rowState 5) 4)) 1 4 0 = some (.punty 0)
      ∧ ∀ cp ∈ copyAt (slice rowState (cmdSlice rowState (cmdOf rowState 5) 4)) (.punty 0), cp.fails rowState everyTile = false)
    ∧ ((rowsOf (cmdOf rowState 6)).rows = [2] ∧ gotOf (cmdOf rowState 6) 2 = some ⟨2, some (rowOf serveTable.desc 2 0x40000000#32)⟩)
    ∧ windowAllows rowState 0 65536 (bMatBytes serveTable.desc {}).length true = true := by
  refine ⟨?_, ?_, ?_, ?_, ?_, ?_, ?_⟩ <;> decide +kernel

theorem witness_fold :
    ((table rowState 4).toFold = ⟨1, 1, 0⟩ :: [⟨2, 1, 1⟩] ∧ (table rowState 4).overtaken ⟨1, 1, 0⟩ = true)
    ∧ (∀ t ∈ [5, 6], (table rowState t).toFold = ⟨2, 2, 2⟩ :: [] ∧ (table rowState t).overtaken ⟨2, 2, 2⟩ = false
      ∧ foldSent rowState t ⟨2, 2, 2⟩ = false
      ∧ (foldContent t ⟨2, 2, 2⟩ [] (checkFold t ⟨2, 2, 2⟩ rowState)).2 = some (rowOf serveTable.desc 2 0x40400000#32)
      ∧ overSlices rowState (foldEntry t ⟨2, 2, 2⟩ [] rowState).1 = [])
    ∧ (let z := (foldContent 5 ⟨2, 2, 2⟩ [] (checkFold 5 ⟨2, 2, 2⟩ rowState)).1
      isMoving z 5 2 = false ∧ (homeNow z 5 2).tier = 1 ∧ foldWaits z 5 2 = false ∧ reach z (homeNow z 5 2) 128 = .ok)
    ∧ isMoving (foldContent 6 ⟨2, 2, 2⟩ [] (checkFold 6 ⟨2, 2, 2⟩ rowState)).1 6 2 = true := by
  refine ⟨?_, ?_, ?_, ?_⟩ <;> decide +kernel
/-! ### Row batches, the basin, placement -/

/-- Memory with lists of identifiers, the k-th at 4096 + 64 k. -/
def idLists (ls : List (List Nat)) : Sparse Byte :=
  ls.zipIdx.foldl (fun m e => writeKeys m (4096 + 64 * e.2) (e.1.flatMap (toLE 8))) []

/-- A command of context `c` on the k-th list of identifiers. -/
def batch (id op c t k n : Nat) (extra : Nat := 0) (w : RowsWork := {}) : Cmd :=
  { mk id c .issued (pkc op c [(8, t + extra), (9, n), (11, 4096 + 64 * k)]) (.rows w) with snaps := [⟨t, 0⟩] }

/-- Table 2 is of a class without granules, so the basin does not hold it. -/
def batchState : State :=
  let own := fun (t row c : Nat) (x : Word) =>
    ({ copy := { table := t, row := row, bytes := rowOf serveTable.desc row x }, train := false, dirty := false, owners := [c] } : Punty)
  let s := tabled [batch 0 5 1 0 0 2, batch 1 6 2 1 1 1, batch 2 6 2 1 2 2, batch 3 7 2 1 3 1, batch 4 7 2 1 4 1,
    batch 5 7 2 1 5 1 65536, batch 6 7 2 2 6 1 65536, batch 7 7 2 1 7 1,
    { batch 8 7 2 1 8 1 (w := { intake := true, rows := [8] }) with
      asked := [8], got := [⟨8, some (rowOf serveTable.desc 8 0x40400000#32)⟩] }, batch 9 6 2 2 6 1]
  putRow 1 3 0x40000000#32 { s with
    mem := idLists [[1, 1], [2], [100, 2 ^ 64 - 1], [3], [4], [5], [6], [7], [8]]
    tables := s.tables ++ [(2, { serveTable with desc := { serveTable.desc with cls := 1 } })]
    slices := [(4, { punty := [own 1 4 1 0x3F800000#32] }), (6, { punty := [own 2 6 2 0x3F800000#32] }),
      (7, { gob := [{ table := 1, row := 7, bytes := rowOf serveTable.desc 7 0x40A00000#32 }] })] }

theorem witness_row_batches :
    (∀ p ∈ [(0, 5), (1, 6), (2, 6), (3, 7), (4, 7), (5, 7), (6, 7), (7, 7), (8, 7), (9, 6)],
      Acts batchState p.1 p.2 (cmdOf batchState p.1)
      ∧ (rowsOf (cmdOf batchState p.1)).intake = decide (p.1 = 8) ∧ ((cmdOf batchState p.1).asked = [] ↔ p.1 ≠ 8)
      ∧ ((cmdOf batchState p.1).got = [] ↔ p.1 ≠ 8))
    ∧ (readIds batchState (cmdOf batchState 0)).toOption.isSome
    ∧ (readIds batchState (cmdOf batchState 2)).toOption.map hereRows = some []
    ∧ ((readIds batchState (cmdOf batchState 1)).toOption.map hereRows = some [2] ∧ bypasses batchState 1 = false
      ∧ findSpot batchState (slice batchState (homeSlice batchState 2 (homeOf 2))) 1 2 0 = none
      ∧ joinable batchState (homeSlice batchState 2 (homeOf 2)) 1 2 0 = none
      ∧ reach batchState (rowPlace batchState 1 0 2) 128 = .ok)
    ∧ ((readIds batchState (cmdOf batchState 3)).toOption.map hereRows = some [3] ∧ Pkt.unpin (cmdOf batchState 3).words = false
      ∧ pinIdx (slice batchState (homeSlice batchState 2 (homeOf 3))) false 1 3 = none
      ∧ findSpot batchState (slice batchState (homeSlice batchState 2 (homeOf 3))) 1 3 0 = none
      ∧ joinable batchState (homeSlice batchState 2 (homeOf 3)) 1 3 0 = none
      ∧ reach batchState (rowPlace batchState 1 0 3) (table batchState 1).desc.stride = .ok
      ∧ maxOf (pinShort (cmdOf batchState 3) false [3] batchState) = 0)
    ∧ ((readIds batchState (cmdOf batchState 4)).toOption.map hereRows = some [4] ∧ Pkt.unpin (cmdOf batchState 4).words = false
      ∧ pinIdx (slice batchState (homeSlice batchState 2 (homeOf 4))) false 1 4 = some 0)
    ∧ ((readIds batchState (cmdOf batchState 5)).toOption.map hereRows = some [5] ∧ Pkt.unpin (cmdOf batchState 5).words = true
      ∧ pinIdx (slice batchState (homeSlice batchState 2 (homeOf 5))) false 1 5 = none)
    ∧ ((readIds batchState (cmdOf batchState 6)).toOption.map hereRows = some [6] ∧ Pkt.unpin (cmdOf batchState 6).words = true
      ∧ pinIdx (slice batchState (homeSlice batchState 2 (homeOf 6))) false 2 6 = some 0 ∧ bypasses batchState 2 = true
      ∧ ∀ p ∈ (slice batchState (homeSlice batchState 2 (homeOf 6))).punty, p.pend = [] ∧ p.dirty = false) := by
  refine ⟨?_, ?_, ?_, ?_, ?_, ?_, ?_, ?_⟩ <;> decide +kernel

/-- A pin of a row that the gob buffer holds, one of a row that has come, and a PREFETCH of a table the basin does not hold. -/
theorem witness_row_pins :
    ((readIds batchState (cmdOf batchState 7)).toOption.map hereRows = some [7] ∧ Pkt.unpin (cmdOf batchState 7).words = false
      ∧ findSpot batchState (slice batchState (homeSlice batchState 2 (homeOf 7))) 1 7 0 = some (.gob 0)
      ∧ (∀ cp ∈ copyAt (slice batchState (homeSlice batchState 2 (homeOf 7))) (.gob 0), cp.fails batchState everyTile = false)
      ∧ (copyAt (slice batchState (homeSlice batchState 2 (homeOf 7))) (.gob 0)).isSome
      ∧ pinIdx (slice batchState (homeSlice batchState 2 (homeOf 7))) false 1 7 = none
      ∧ maxOf (pinShort (cmdOf batchState 7) false [7] batchState) = 0)
    ∧ ((rowsOf (cmdOf batchState 8)).rows = [8] ∧ Pkt.unpin (cmdOf batchState 8).words = false
      ∧ (readIds batchState (cmdOf batchState 8)).toOption.isSome
      ∧ gotOf (cmdOf batchState 8) 8 = some ⟨8, some (rowOf serveTable.desc 8 0x40400000#32)⟩ ∧ 8 ∈ (cmdOf batchState 8).asked
      ∧ pinIdx (slice batchState (homeSlice batchState 2 (homeOf 8))) false 1 8 = none
      ∧ findSpot batchState (slice batchState (homeSlice batchState 2 (homeOf 8))) 1 8 0 = none
      ∧ maxOf (pinShort (cmdOf batchState 8) false [8] batchState) = 0)
    ∧ ((readIds batchState (cmdOf batchState 9)).toOption.map hereRows = some [6] ∧ bypasses batchState 2 = true) := by
  refine ⟨?_, ?_, ?_⟩ <;> decide +kernel

/-- An APPLY under way with class 1 changed; a FLUSH of which nothing is left; one cullet entry on its way. -/
def basinState : State :=
  wr Reg.BASIN_STAT_APPLY_BUSY 0 1 (wr Reg.BASIN_STAT_FLUSH_BUSY 0 1 (wr Reg.BASIN_CLASS_CFG_GRANULES 0 300
    (wr Reg.BASIN_CLASS_CFG_GRANULES 1 84 { tabled [] with
      slices := [(3, { cullet := [{ copy := { table := 1, row := 3, bytes := rowOf serveTable.desc 3 0x3F800000#32 },
                                     place := ⟨1, 0, cisternBase + 65536 + 384⟩, snooped := false, issued := true }] })] })))

/-- The same entry on its way home for a fold, and one whose content is void. -/
def homeState : State :=
  let put := fun (sl : Nat) (e : Cull) => ({ tabled [] with slices := [(sl, { cullet := [e] })] } : State)
  put 3 { copy := { table := 1, row := 3, lo := 1, bytes := rowOf serveTable.desc 3 0x3F800000#32 }, home := true,
          place := ⟨1, 0, cisternBase + 65536 + 384⟩, snooped := false, issued := true }

theorem witness_basin_control :
    (Serves (wr Reg.BASIN_CLASS_CFG_GRANULES 1 1 ready) Reg.BASIN_CTRL_APPLY.off
      ∧ 384 < applySum (wr Reg.BASIN_CLASS_CFG_GRANULES 1 1 ready))
    ∧ (served ready Reg.BASIN_CTRL_APPLY.off = true ∧ applySum ready ≤ 384)
    ∧ (rd Reg.BASIN_STAT_APPLY_BUSY 0 basinState = 1
      ∧ (changedClasses (clearChanged basinState)).all (classClear (clearChanged basinState)) = true)
    ∧ served ready Reg.BASIN_CTRL_FLUSH.off = true
    ∧ (rd Reg.BASIN_STAT_FLUSH_BUSY 0 basinState = 1 ∧ basinState.flushing = [])
    ∧ rd Reg.BASIN_STAT_FLUSH_BUSY 0 ready ≠ 1
    ∧ (∀ s ∈ [basinState, homeState], doneCull (slice s (3#5).toNat).cullet (1#12).toNat (3#40).toNat = some 0
      ∧ (slice s 3).cullet.length = 1 ∧ (∀ e ∈ (slice s 3).cullet, reach s e.place e.copy.bytes.length = .ok)
      ∧ s.refills = [] ∧ (slice s 3).hold = [] ∧ (slice s 3).kept = [] ∧ ∀ k ∈ Sparse.keys s.slices, k = 3) := by
  refine ⟨?_, ?_, ?_, ?_, ?_, ?_, ?_⟩ <;> decide +kernel

/-- Where the classes are as configured, no class changes. -/
theorem witness_basin_unchanged : changedClasses (wr Reg.BASIN_CLASS_CFG_GRANULES 1 0 { ready with
    geom := (List.range 16).map fun k => (k, cfgGeom ready k) }) = [] := by decide +kernel

/-- A ROW_MIGRATE of row 1 of table 1 to HBM4 and one of row 2 to tier 0, with a pool; row 3 reserved to move, row 4 copied. -/
def moveState : State :=
  let e : PEntry := { table := 1, row := 3, moving := true, src := false, curTier := 0, cur := ⟨0, 0, 0⟩, newTier := 2,
                      new := ⟨2, 0, hbmBase + 2 ^ 20⟩, epoch := 0, waiting := true }
  let s := tabled [batch 0 8 0 1 0 1 (2 * 65536), batch 1 8 0 1 1 1, batch 2 8 0 1 1 1 (1 * 65536)]
  wr Reg.PLACE_POOL_BASE_BASE 2 (hbmBase + 2 ^ 20) (wr Reg.PLACE_POOL_LEN_LEN 2 (2 ^ 20) (putRow 1 3 0x40000000#32 { s with
    mem := idLists [[1], [2]]
    place := { s.place with
      entries := [e, { e with row := 4, new := ⟨2, 0, hbmBase + 2 ^ 20 + 4096⟩, waiting := false, copied := true }]
      sketch := [(5, 9)], load := [(1, 4)] } }))

/-- The move of row 3 with a write to its home outstanding. -/
def holdMove : State := { moveState with slices := [(3, { cullet := [
  { copy := { table := 1, row := 3, bytes := rowOf serveTable.desc 3 0#32 }, place := homeNow moveState 1 3, issued := true }] })] }

/-- The move back to the shard-map home of a row that stands in a pool, complete. -/
def againMove : State := { moveState with place := { moveState.place with
  entries := moveState.place.entries.map fun e => if e.row = 4 then { e with newTier := 0, curTier := 2, cur := e.new } else e } }

/-- A move of row 3 of table 5, whose home is a connected NVMe target. -/
def flashMove : State := wr Reg.NVMF_TGT_STAT_CONNECTED 0 1 { moveState with
  tables := moveState.tables ++ [(5, { serveTable with shards := [⟨4, 0, 0, 0⟩] })]
  place := { moveState.place with entries := moveState.place.entries.map fun e => { e with table := 5 } } }

theorem witness_placement_and_skimmer :
    (∀ p ∈ [(0, 1), (1, 2), (2, 2)], Acts moveState p.1 0x08 (cmdOf moveState p.1) ∧ (rowsOf (cmdOf moveState p.1)).intake = false
      ∧ (rowsOf (cmdOf moveState p.1)).reserved = false ∧ (cmdOf moveState p.1).status = .ok
      ∧ (readIds moveState (cmdOf moveState p.1)).toOption.map hereRows = some [p.2]
      ∧ (readIds moveState (cmdOf moveState p.1)).toOption.map remoteRows = some []
      ∧ (readIds moveState (cmdOf moveState p.1)).toOption.map dropReasons = some [] ∧ pentry? moveState 1 p.2 = none)
    ∧ (Pkt.destTier (cmdOf moveState 0).words = 2 ∧ (moveDest moveState 1 1 2).isSome
      ∧ rptCount moveState.place.entries (rptSet 1 1) < 8)
    ∧ (Pkt.destTier (cmdOf moveState 1).words = 0 ∧ moveWaits moveState 1 = false ∧ ∀ m ∈ moveState.remote.migs, m.cmd ≠ 1)
    ∧ (Pkt.destTier (cmdOf moveState 2).words = 1 ∧ moveDest moveState 1 2 1 = none ∧ rptCount moveState.place.entries (rptSet 1 2) < 8)
    ∧ (∀ s ∈ [moveState, againMove, holdMove], (pentry? s 1 3).isSome
      ∧ ∀ e ∈ pentry? s 1 3, moveRuns s e = true ∧ moveIoOut s 1 3 = false ∧ e.read = none ∧ e.retried = false ∧ (moveTo s e).tier ≠ 4)
    ∧ ((pentry? flashMove 5 3).isSome ∧ ∀ e ∈ pentry? flashMove 5 3, moveRuns flashMove e = true ∧ moveIoOut flashMove 5 3 = false
      ∧ e.read = none ∧ homeWriteOut flashMove 5 3 = false ∧ (homeNow flashMove 5 3).tier = 4)
    ∧ (let bs := readTier moveState (homeNow moveState 1 3) 128
      homeWriteOut moveState 1 3 = false ∧ (homeNow moveState 1 3).tier ≠ 4
      ∧ serveTable.desc.spoilt [] ++ failingTiles moveState serveTable.desc 3 (homeNow moveState 1 3) bs = []
      ∧ serveTable.desc.spoilt [0] ≠ [])
    ∧ homeWriteOut holdMove 1 3 = true
    ∧ ((moveState.place.entries.filter fun x => x.moving && x.copied).length = 1
      ∧ ∀ e ∈ moveState.place.entries.filter fun x => x.moving && x.copied, pentry? moveState e.table e.row = some e ∧ e.next = [])
    ∧ (Sparse.wf 0 moveState.place.sketch = true ∧ rd Reg.SKIM_CFG_MODE 0 moveState ≠ 2)
    ∧ served moveState Reg.SKIM_CFG_MODE.off = true ∧ served moveState Reg.PLACE_ROW_SEL_ROW.off = true := by
  refine ⟨?_, ?_, ?_, ?_, ?_, ?_, ?_, ?_, ?_, ?_, ?_, ?_⟩ <;> decide +kernel
/-! ### Gathers, lanes and frames -/

/-- One bag of one use of row 2 of a table, whose elements are 1.0. -/
def oneBag (t : Nat) (trained : Bool) : Feat :=
  { table := t, version := 0, pool := 0, rowLen := 16, trained := trained, offs := [0, 1],
    uses := [{ reason := none, row := 2, slice := 2, uniq := 0 }] }

def readyRow (t : Nat) : RowVal :=
  { table := t, row := 2, via := .lane, elems := some (List.replicate 16 0x3F800000#32), asked := true, done := true }

/-- Forward work whose rows are at hand. -/
def atHand (t : Nat) (trained : Bool := false) : Fwd := { feats := [oneBag t trained], rows := [readyRow t], intake := true }

/-- The forward work of command `id`. -/
def fwdIn (s : State) (id : Nat) : Fwd := match (cmdOf s id).work with | .fwd f => f | _ => {}

def frame0 : TFrame := { kind := 0, feature := 0, index := 3, payload := [1#8, 2#8] }

/-- A pooled bag of the first feature. -/
def oneVec (b : Nat) : BagVec :=
  { feature := 0, bag := b, y := List.replicate 16 0x3F800000#32, argmax := [], mean := 0#32, rstd := 0#32 }

/-- Forward commands: without bags, of a step that may not read yet, ready for the tower, for memory and for the interaction, pooled
with samples left (two, and one), one whose partial has arrived, and one that
normalises. -/
def bagState : State :=
  let s := tabled []
  { s with
    cmds := [mk 0 2 .issued (pkc 1 2 [(8, 1)]) (.fwd {}),
      mk 1 1 .issued (pkc 1 1 [(2, 9), (9, 1)]) (.fwd (atHand 0 true)),
      mk 2 2 .issued (pkc 1 2 [(8, 1), (9, 1)]) (.fwd (atHand 1)),
      mk 3 2 .issued (pkc 0x101 2 [(8, 1 + 2 ^ 20), (9, 1), (18, 4096), (19, 2 ^ 31)]) (.fwd (atHand 1)),
      mk 4 2 .issued (pkc 2 2 [(8, 1 + 2 ^ 8), (9, 1), (11, 4096)]) (.fwd (atHand 1)),
      mk 5 2 .running (pkc 2 2 [(8, 1 + 2 ^ 8), (9, 17), (11, 4096)]) (.fwd { atHand 1 with
        reading := true, vecs := (List.range 17).map oneVec, todo := [0, 16, 1] }),
      mk 6 2 .running (pkc 2 2 [(8, 1 + 2 ^ 8), (9, 1), (11, 4096)]) (.fwd { atHand 1 with
        reading := true, vecs := [oneVec 0], todo := [0] }),
      mk 7 2 .running (pkc 1 2 [(8, 1), (9, 1)]) (.fwd { atHand 1 with rows := [{ readyRow 1 with via := .weir, done := false }] }),
      mk 8 2 .issued (pkc 2 2 [(8, 1 + 2 ^ 6), (9, 1), (11, 4096)]) (.fwd (atHand 1))]
    partials := [{ id := 0, cmd := 7, feature := 0, bag := 0, slice := 2, vault := none, terms := .sum [], closed := true, form := 0 }] }

theorem witness_bags_pooled :
    (∀ id ∈ [0, 1, 2, 3], Acts bagState id 1 (cmdOf bagState id)) ∧ (∀ id ∈ [4, 8], Acts bagState id 2 (cmdOf bagState id))
    ∧ ((cmdOf bagState 0).work = .fwd {} ∧ Pkt.bags (cmdOf bagState 0).words = 0)
    ∧ ((cmdOf bagState 1).work = .fwd (atHand 0 true) ∧ mayRead bagState (cmdOf bagState 1) (atHand 0 true) = false)
    ∧ (∀ id ∈ [2, 3, 4, 8], (cmdOf bagState id).work = .fwd (atHand 1) ∧ mayRead bagState (cmdOf bagState id) (atHand 1) = true
      ∧ Pkt.bags (cmdOf bagState id).words = 1 ∧ bagReady bagState id (atHand 1) 0 0 = true
      ∧ (normOf (cmdOf bagState id) ≠ 0 ↔ id = 8) ∧ hasRecord bagState id = false)
    ∧ ((atHand 1).feats.length = 1 ∧ (atHand 1).vecs = [] ∧ (atHand 1).z = [] ∧ (atHand 1).rows.all (·.asked) = true
      ∧ bagState.slices = [])
    ∧ (interacts (cmdOf bagState 2) = false ∧ usesTower (cmdOf bagState 2) = true ∧ interacts (cmdOf bagState 4) = true
      ∧ interacts (cmdOf bagState 8) = false ∧ toMemory (cmdOf bagState 8) = false)
    ∧ (toMemory (cmdOf bagState 3) = true ∧ outLacks bagState (cmdOf bagState 3) (atHand 1) = []
      ∧ (writeOut (cmdOf bagState 3) [(poolVec bagState (cmdOf bagState 3) (atHand 1) 0 0).y]
        (Pkt.outAddr (cmdOf bagState 3).words) bagState).2 = true)
    ∧ (∀ id ∈ [5, 6], cmd? bagState id = some (cmdOf bagState id) ∧ (cmdOf bagState id).phase = .running
      ∧ interacts (cmdOf bagState id) = true)
    ∧ (∀ id ∈ [5, 6], (cmdOf bagState id).work = .fwd (fwdIn bagState id) ∧ (cmdOf bagState id).use.fault = none)
    ∧ (blockOf bagState (cmdOf bagState 5) (fwdIn bagState 5) 0 = [0, 16]
      ∧ resultDone (cmdOf bagState 5) ([0, 16].foldl (addSample bagState (cmdOf bagState 5)) (fwdIn bagState 5)) = false
      ∧ blockOf bagState (cmdOf bagState 6) (fwdIn bagState 6) 0 = [0]
      ∧ resultDone (cmdOf bagState 6) (addSample bagState (cmdOf bagState 6) (fwdIn bagState 6) 0) = true)
    ∧ (cmd? bagState 7 = some (cmdOf bagState 7) ∧ bagState.partials.any (fun p => p.id == 0 && p.closed && p.cmd == 7) = true) := by
  refine ⟨?_, ?_, ?_, ?_, ?_, ?_, ?_, ?_, ?_, ?_, ?_, ?_⟩ <;> decide +kernel

/-- The command that normalises, with the side memory of its slice full. -/
def sideState : State := { bagState with slices := [(0, { side := List.replicate sideSize ⟨99, 0, 0, 0#32, 0#32⟩ })] }

theorem witness_side_memory_full :
    (Acts sideState 8 2 (cmdOf sideState 8) ∧ (cmdOf sideState 8).work = .fwd (atHand 1)
      ∧ mayRead sideState (cmdOf sideState 8) (atHand 1) = true ∧ Pkt.bags (cmdOf sideState 8).words = 1
      ∧ bagReady sideState 8 (atHand 1) 0 0 = true ∧ Sparse.wf {} sideState.slices = true)
    ∧ physSlice sideState (asmSlice sideState (cmdOf sideState 8).ctx 0) = 0
    ∧ sideSize ≤ ((slice sideState 0).side.filter fun e => e.cmd != 8).length := by
  refine ⟨by decide +kernel, by decide +kernel, ?_⟩
  exact Nat.le_of_eq (by rw [show (slice sideState 0).side = List.replicate sideSize ⟨99, 0, 0, 0#32, 0#32⟩ from rfl,
    List.filter_replicate_of_pos (by decide), List.length_replicate])

/-- Fetches of row 2 of table 1: for a prefetch (whose last row it is, or not) into the gob buffer or a way, for a gather that waits
for more, and for a weir. -/
def fetchState : State :=
  let f := fun (id cmd : Nat) (dest : FillTo) (weir : Bool) =>
    ({ id := id, table := 1, row := 2, version := 0, lo := 0, hi := none, slice := 2, place := ⟨1, 0, cisternBase + 65536 + 256⟩,
       dest := dest, weir := weir, waiters := [cmd], gen := 1, ctx := 2 } : Fetch)
  let waits := fun (via : Via) (t : Nat) => ({ table := t, row := 2, via := via, asked := true } : RowVal)
  let s := tabled []
  putRow 1 2 0x40000000#32 { s with
    slices := [(2, { sets := [(5, { ways := [{ st := .filling, owner := 1 }] })] })]
    cmds := [mk 0 2 .running (pkc 6 2 [(8, 1), (9, 1)]) (.rows { rows := [2], intake := true }),
      mk 1 2 .running (pkc 6 2 [(8, 1), (9, 2)]) (.rows { rows := [2, 3], intake := true }),
      mk 2 2 .running (pkc 1 2 [(8, 1), (9, 1)]) (.fwd { feats := [oneBag 1 false], rows := [waits .lane 1, waits .lane 3] }),
      mk 3 2 .running (pkc 1 2 [(8, 1 + 2 ^ 12), (9, 1)]) (.fwd { feats := [oneBag 1 false], rows := [waits .weir 1, waits .weir 3] })]
    fetches := [f 0 0 .gob false, f 1 1 (.way 0 5 0) false, f 2 2 .none false, f 3 3 .none true]
    nextFetch := 4 }

/-- A table whose rows have a state tile, and a fetch of its row 2 for a gather that waits for another row. -/
def earlyState : State :=
  let d : Desc := { trainEn := true, trainCtx := 1, rows := 8, opt := 1 }
  let body := bytesOf (List.replicate 16 0x40000000#32 ++ List.replicate 16 0#32)
  let s : State := { fetchState with
    tables := [(2, { serveTable with desc := d })]
    cmds := [mk 2 2 .running (pkc 1 2 [(8, 2), (9, 1)]) (.fwd
      { feats := [oneBag 2 false], rows := [{ table := 2, row := 2, via := .lane, asked := true },
          { table := 3, row := 2, via := .lane, asked := true }] })]
    fetches := [{ id := 2, table := 2, row := 2, version := 0, lo := 0, hi := none, slice := 2, place := ⟨1, 0, cisternBase⟩,
                  dest := .none, weir := false, waiters := [2], gen := 1, ctx := 2 }] }
  writeTier (homeNow s 2 2) (body ++ checkTiles d 2 body) s

theorem witness_row_data_early :
    ((fetch? earlyState 2).isSome ∧ ∀ f ∈ fetch? earlyState 2, f.weir = false ∧ ioOut earlyState 2 = false ∧ f.waiters = [2] ∧ f.fails = 0 ∧ f.table = 2
      ∧ f.version = 0 ∧ f.row = 2)
    ∧ ((rowTiles earlyState 2 0 2).toOption.map (·.2) = some [] ∧ ∀ f ∈ fetch? earlyState 2, f.now earlyState = 0)
    ∧ (let d := (table earlyState 2).desc
      d.spoilt [1] = [1] ∧ [1].any d.pools = false ∧ d.spoilt [0] = [0] ∧ d.spoilt [2] = [0, 1]
        ∧ [0].any (tilesUsed earlyState d 2) = true)
    ∧ (cmd? earlyState 2 = some (cmdOf earlyState 2) ∧ (cmdOf earlyState 2).op = 1
      ∧ (cmdOf earlyState 2).work = .fwd (fwdIn earlyState 2)
      ∧ ∃ x ∈ (fwdIn earlyState 2).rows, x.done = false ∧ ¬ (x.table = 2 ∧ x.row = 2)) := by
  refine ⟨?_, ?_, ?_, ?_⟩ <;> decide +kernel

theorem witness_row_data_returns :
    (rowTiles fetchState 1 0 2).toOption = some (rowOf serveTable.desc 2 0x40000000#32, [])
    ∧ (∀ id ∈ [0, 1, 2, 3], (fetch? fetchState id).isSome ∧ ioOut fetchState id = false
      ∧ cmd? fetchState id = some (cmdOf fetchState id)
      ∧ ∀ f ∈ fetch? fetchState id, f.id = id ∧ f.weir = decide (id = 3) ∧ f.waiters = [id] ∧ f.fails = 0 ∧ f.table = 1
        ∧ f.now fetchState = 0 ∧ f.row = 2)
    ∧ ((table fetchState 1).desc.spoilt [0] = [0] ∧ (table fetchState 1).desc.spoilt [2] = []
      ∧ findSpot fetchState (slice fetchState 2) 1 2 0 = none ∧ bypasses fetchState 1 = false)
    ∧ ((cmdOf fetchState 0).op = 6 ∧ rowsOf (cmdOf fetchState 0) = { rows := [2], intake := true })
    ∧ ((cmdOf fetchState 1).op = 6 ∧ (rowsOf (cmdOf fetchState 1)).rows.filter (· != 2) ≠ []
      ∧ ((setOf fetchState (slice fetchState 2) (setKey 0 5)).ways.getD 0 {}).owner = 1)
    ∧ ((cmdOf fetchState 2).work = .fwd (fwdIn fetchState 2) ∧ (cmdOf fetchState 2).op = 1
      ∧ ∃ x ∈ (fwdIn fetchState 2).rows, x.done = false ∧ ¬ (x.table = 1 ∧ x.row = 2))
    ∧ ((cmdOf fetchState 3).work = .fwd (fwdIn fetchState 3) ∧ (fwdIn fetchState 3).feats = [oneBag 1 false]
      ∧ fetchState.partials = [] ∧ ∀ x ∈ fetchState.fetches, x.weir = true → x.id ≠ 3 → 3 ∉ x.waiters) := by refine ⟨?_, ?_, ?_, ?_, ?_, ?_, ?_⟩ <;> decide +kernel

/-- A tower command with a frame to send, one that has finished and owes only its END frame; a lane group with a spare. -/
def laneState : State :=
  let s := tabled [mk 0 2 .running (pkc 1 2 [(8, 1), (9, 1), (15, 3)]) (.fwd { frames := [frame0] }),
    { mk 1 2 .done (pkc 1 2 [(8, 1), (9, 1), (15, 3)]) (.fwd { frames := [{ frame0 with sent := true }] }) with status := .ok }]
  setUnit (unitId 3 16) { st := .standby } { s with tower := { held := [9], ends := [(9, [1#8])] } }

theorem witness_lanes_and_frames :
    (cmd? laneState 0 = some (cmdOf laneState 0) ∧ usesTower (cmdOf laneState 0) = true ∧ (cmdOf laneState 0).phase = .running
      ∧ (ctx laneState (cmdOf laneState 0).ctx).st ≠ .resetting ∧ (cmdOf laneState 0).work = .fwd { frames := [frame0] } ∧ frame0.sent = false
      ∧ frameChannel laneState (cmdOf laneState 0) frame0 ∉ laneState.tower.held)
    ∧ (cmd? laneState 1 = some (cmdOf laneState 1) ∧ usesTower (cmdOf laneState 1) = true ∧ (cmdOf laneState 1).phase = .done
      ∧ (cmdOf laneState 1).work = .fwd { frames := [{ frame0 with sent := true }] }
      ∧ endChannel (cmdOf laneState 1) ∉ laneState.tower.held)
    ∧ (rdb Reg.LANE_CTRL_TXB_EN 0 laneState = true ∧ (slice laneState (16#5).toNat).txbFail = false ∧ (16#5).toNat < 17)
    ∧ (servedBy laneState (unitId 3 (17 * (0#5).toNat + (3#5).toNat)) = some 3
      ∧ (unit laneState (unitId 3 3)).st = .active ∧ spares laneState 3 3 ≠ []) := by
  refine ⟨?_, ?_, ?_, ?_⟩ <;> decide +kernel
/-! ### Gradients and commits -/

/-- The record of a forward command of context 1, step 4, with one bag of table 0. -/
def gradRec (cmd tag slot : Nat) (inter : Bool) : LehrRec :=
  { cmd := cmd, ctx := 1, tag := tag, step := 4, slot := slot, params := [if inter then 0x101#32 else 0#32, 1#32], cascade := inter,
    complete := true, inter := inter, feats := [oneBag 0 true]
    bags := [{ y := [List.replicate 16 0x3F800000#32], dense := List.replicate 16 0x3F800000, z := [0x41800000#32] }] }

/-- A SCATTER_GRAD of step 4 on table 0 that names a forward command by its tag. -/
def scatter (id tag feature bags : Nat) (ph : Phase) (g : Scatter) : Cmd :=
  mk id 1 ph (pkc 3 1 [(2, 4), (9, bags), (10, tag + feature * 65536)]) (.scatter { g with feature := feature })

def noScatter : Scatter := { feature := 0, e := 0 }

def half16 : List Byte := (List.replicate 16 [0#8, 0#8, 0#8, 0x3F#8]).flatten

/-- SCATTER_GRADs whose forward command runs still, or has left no record; two whose gradients have come in frames, one that reads
them from memory, one of an interacting CASCADE whose g records are there; one that takes frames. -/
def gradState : State :=
  let s := tabled []
  { s with
    cmds := [scatter 0 9 0 1 .issued noScatter, scatter 1 5 0 1 .issued noScatter,
      scatter 2 7 0 1 .running { noScatter with fwd := some 20, slot := 3, bags := 1, started := true, taken := [(0, 0#8, half16)] },
      scatter 3 8 63 1 .running { noScatter with fwd := some 21, slot := 4, bags := 1, started := true,
                                                 taken := [(0, 0#8, [0#8, 0#8, 0x80#8, 0x3F#8])] },
      scatter 4 9 63 1 .issued noScatter, scatter 5 5 63 1 .issued noScatter,
      { scatter 7 6 0 1 .running { noScatter with fwd := some 22, slot := 5, bags := 1, started := true } with
        words := pkc 3 1 [(2, 4), (8, 4096), (9, 1), (10, 6), (11, 4096)] },
      scatter 8 4 0 1 .running { noScatter with fwd := some 23, slot := 6, bags := 1, started := true },
      scatter 6 6 0 2 .running { noScatter with fwd := some 22, slot := 5, bags := 2, started := true },
      mk 10 1 .running (pkc (1 + 9 * 65536) 1 [(2, 4), (9, 1)])]
    lehr := [gradRec 20 7 3 false, gradRec 21 8 4 true, gradRec 22 6 5 false,
      { gradRec 23 4 6 true with bags := [{ g := [some (List.replicate 16 0x3F000000#32)] }] }]
    mem := writeKeys [] 4096 half16
    drains := [{ slot := 1, tag := 1, feature := 0, fwd := 7, left := [0, 1] }]
    slices := [(2, { slots := [{ table := 0, row := 2, step := 4, owner := .chip 2, prov := true, fmt := 0, exp := 0, use := 0,
                                 codes := [] }] })] }

/-- A gradient frame of one bag of 16 elements. -/
def gradFrame (slot tag index len : Nat) : List Byte := frameBytes slot 0 0 0 index len tag 0 half16

theorem witness_gradients_taken :
    (∀ id ∈ [0, 1, 4, 5], Acts gradState id 3 (cmdOf gradState id) ∧ (scatterOf (cmdOf gradState id)).started = false
      ∧ Pkt.feature (cmdOf gradState id).words = if id < 4 then 0 else 63)
    ∧ (∀ id ∈ [0, 4], fwdInFlight gradState (cmdOf gradState id) = true)
    ∧ (∀ id ∈ [1, 5], fwdInFlight gradState (cmdOf gradState id) = false ∧ (fwdRecord gradState (cmdOf gradState id)).isNone)
    ∧ (∀ id ∈ [2, 3, 7, 8], let c := cmdOf gradState id
      Acts gradState id 3 c ∧ Pkt.gradSel c.words = decide (id = 7) ∧ c.work = .scatter (scatterOf c)
      ∧ (scatterOf c).feature = Pkt.feature c.words ∧ (scatterOf c).started = true ∧ (scatterOf c).written = false
      ∧ (scatterOf c).pushes = [] ∧ allTaken (scatterOf c) = decide (id ≤ 3) ∧ againDone gradState c = true
      ∧ (scatterOf c).again.rows.all (·.asked) = true
      ∧ (gradState.lehr.find? fun x => (scatterOf c).fwd == some x.cmd).isSome
      ∧ ∀ r ∈ gradState.lehr.find? (fun x => (scatterOf c).fwd == some x.cmd),
        r.interacts = decide (id = 3 ∨ id = 8) ∧ r.feats = [oneBag 0 true] ∧ (r.bags.map (·.recompute)) = [false])
    ∧ (memoryGrads gradState (cmdOf gradState 7) (scatterOf (cmdOf gradState 7)) 16).toOption = some half16
    ∧ (∀ r ∈ gradState.lehr.find? (fun x => x.cmd == 23), (recordGrads r 0).isSome)
    ∧ (windowAllows gradState 1 (Pkt.addrA (cmdOf gradState 3).words) 64 true = true
      ∧ gradLen gradState (cmdOf gradState 3) (gradRec 21 8 4 true) = 1)
    ∧ (Sparse.wf {} gradState.slices = true ∧ remoteChips gradState (oneBag 0 true) = [])
    ∧ framesOff State.reset = true
    ∧ (framesOff gradState = false ∧ 16 ≤ (gradFrame 1 1 0 64).length
      ∧ (gradState.drains.any fun d => decide ((d.slot, d.tag, d.feature) = frameKey (gradFrame 1 1 0 64))) = true)
    ∧ (gradState.cmds.find? (claims gradState (frameKey (gradFrame 9 1 0 64)))).isNone
    ∧ (gradState.cmds.find? (claims gradState (frameKey (gradFrame 5 6 1 64))) = some (cmdOf gradState 6)
      ∧ (fwdRecord gradState (cmdOf gradState 6)).isSome
      ∧ frameFault (gradFrame 5 6 1 64) 0 0 64 0#8 2 [] = none ∧ (frameFault (gradFrame 5 6 1 60) 0 0 64 0#8 2 []).isSome) := by
  refine ⟨?_, ?_, ?_, ?_, ?_, ?_, ?_, ?_, ?_, ?_, ?_, ?_⟩ <;> decide +kernel

/-- MERGE_APPLYs of step 4: on a table without a working version, of a step too early, behind another, behind a SCATTER_GRAD of its
step, of no slots, of one row to fetch (5, 9), of one that has come with a pin (10), without (11, 12) and with a failed tile (13), and
merged ones of no row and of one pinned row. -/
def mergeState : State :=
  let tb := { trainTable with desc := { trainTable.desc with cls := 1 } }
  let mg := fun (id t st : Nat) (ph : Phase) (m : Merge) => mk id 1 ph (pkc 4 1 [(2, st), (8, t), (9, 0x3DCCCCCD)]) (.merge { m with table := t })
  let m0 : Merge := { table := 0 }
  let d := tb.desc
  let has := fun (id : Nat) (b : Bool) => { mg id id 4 .issued { m0 with begun := true } with
    asked := [2], got := [⟨2, if b then some (rowOf d 2 0x40000000#32) else none⟩] }
  let slot := fun (t : Nat) => (⟨t, 2, 4, .chip 90, false, 0, 0, 0, List.replicate 16 0x3F800000⟩ : Slot)
  let pin := fun (t row : Nat) =>
    ({ copy := { table := t, row := row, bytes := rowOf d row 0x3F800000#32 }, train := true, dirty := false, owners := [1] } : Punty)
  let s := tabled [mg 0 1 4 .issued m0, mg 1 2 3 .issued m0, mg 2 3 4 .issued m0, mg 3 4 4 .issued m0, mg 4 2 4 .issued m0,
    mg 5 5 4 .issued m0, mg 6 6 4 .running { m0 with begun := true, merged := true },
    mg 7 7 4 .running { m0 with begun := true, merged := true, rows := [⟨3, [], []⟩] },
    mk 8 1 .admitted (pkc 3 1 [(2, 4), (8, 4)]), mg 9 9 4 .issued m0, has 10 true, has 11 true, has 12 true, has 13 false]
  putRow 5 2 0x40000000#32 { s with
    tables := [(1, serveTable), (2, tb), (3, { tb with merging := some 99 }), (4, tb), (5, tb), (6, { tb with merging := some 6 }),
      (7, { tb with merging := some 7 }), (9, trainTable), (10, { tb with merging := some 10 }), (11, { tb with merging := some 11 }),
      (12, { trainTable with merging := some 12 }), (13, { tb with merging := some 13 })]
    slices := [(2, { slots := [5, 9, 10, 11, 12, 13].map slot, punty := [pin 10 2] }),
      (3, { punty := [{ pin 7 3 with pend := [(7, rowOf d 3 0x40000000#32)] }] })] }

/-- The merge of command `id`. -/
def mergeIn (s : State) (id : Nat) : Merge := match (cmdOf s id).work with | .merge m => m | _ => { table := 0 }

theorem witness_merge_and_commit :
    (∀ id ∈ [0, 1, 2, 3, 4, 5, 9, 10, 11, 12, 13], Acts mergeState id 4 (cmdOf mergeState id)
      ∧ (cmdOf mergeState id).work = .merge (mergeIn mergeState id) ∧ (mergeIn mergeState id).merged = false)
    ∧ (table mergeState 1).working = none
    ∧ (∀ t ∈ [2, 3, 4, 5, 6, 7, 9, 10, 11, 12, 13], (table mergeState t).working = some { num := 0, st := .working } ∧ (table mergeState t).step = 3
      ∧ (table mergeState t).desc.adapter = false)
    ∧ (Pkt.step (cmdOf mergeState 1).words = 3 ∧ Pkt.step (cmdOf mergeState 2).words = 4)
    ∧ ((table mergeState 3).merging = some 99 ∧ (∀ t ∈ [2, 4, 5, 9], (table mergeState t).merging = none)
      ∧ ∀ t ∈ [10, 11, 12, 13], (table mergeState t).merging = some t)
    ∧ ((mergeState.cmds.any fun x => x.op == 3 && Pkt.table x.words == 4 && Pkt.step x.words == 4) = true
      ∧ ∀ t ∈ [2, 5, 9, 10, 11, 12, 13],
        (mergeState.cmds.any fun x => x.op == 3 && Pkt.table x.words == t && Pkt.step x.words == 4) = false)
    ∧ (mergeLeft (mergeIn mergeState 4) (slotRows (stepSlots mergeState 2 4)) = []
      ∧ ∀ t ∈ [5, 9, 10, 11, 12, 13], mergeLeft (mergeIn mergeState t) (slotRows (stepSlots mergeState t 4)) = [2])
    ∧ (∀ t ∈ [5, 9], (cmdOf mergeState t).asked = [] ∧ (cmdOf mergeState t).got = []
      ∧ findSpot mergeState (slice mergeState (cmdSlice mergeState (cmdOf mergeState t) 2)) t 2 0 = none
      ∧ joinable mergeState (cmdSlice mergeState (cmdOf mergeState t) 2) t 2 0 = none
      ∧ reach mergeState (rowPlace mergeState t 0 2) (table mergeState t).desc.stride = .ok ∧ bypasses mergeState t = decide (t = 5))
    ∧ (∀ t ∈ [10, 11, 12, 13], 2 ∈ (cmdOf mergeState t).asked ∧ bypasses mergeState t = decide (t ≠ 12)
      ∧ gotOf (cmdOf mergeState t) 2 = some ⟨2, if t = 13 then none else some (rowOf trainTable.desc 2 0x40000000#32)⟩
      ∧ commitPin mergeState (slice mergeState (cmdSlice mergeState (cmdOf mergeState t) 2)) t 2 = if t = 10 then some 0 else none)
    ∧ (∀ id ∈ [6, 7], cmd? mergeState id = some (cmdOf mergeState id) ∧ (cmdOf mergeState id).op = 4
      ∧ (cmdOf mergeState id).phase = .running ∧ mayCommit mergeState (cmdOf mergeState id) = true
      ∧ (table mergeState id).zero = [] ∧ (mergeIn mergeState id).corrupt = []
      ∧ (∀ x ∈ mergeState.cmds, rereads x id 0 = false)
      ∧ mergeState.remote.heldPushes = [] ∧ Sparse.wf {} mergeState.slices = true)
    ∧ ((mergeIn mergeState 6).rows = [] ∧ (mergeIn mergeState 7).rows.map (·.row) = [3] ∧ (table mergeState 7).desc.versioned = false
      ∧ (newContent mergeState (cmdOf mergeState 7) (cmdSlice mergeState (cmdOf mergeState 7) 3) 7 3).isSome
      ∧ pinIdx (slice mergeState (homeSlice mergeState 1 (homeOf 3))) true 7 3 = some 0
      ∧ pendingWay (slice mergeState (homeSlice mergeState 1 (homeOf 3))) 7 7 3 = none
      ∧ ∀ p ∈ (slice mergeState (homeSlice mergeState 1 (homeOf 3))).punty, p.copy.hi = none)
    ∧ (∀ x ∈ mergeState.cmds, (match x.work with | .fwd _ => true | _ => false) = false) := by
  refine ⟨?_, ?_, ?_, ?_, ?_, ?_, ?_, ?_, ?_, ?_, ?_, ?_⟩ <;> decide +kernel

/-- The commit of table 6 with a gather of step 5 that the step holds. -/
def heldGather : State := { mergeState with
  cmds := mergeState.cmds ++ [mk 14 1 .running (pkc 1 1 [(2, 5), (8, 6), (9, 1)]) (.fwd { atHand 6 true with reading := false })] }

theorem witness_gather_released :
    (cmd? heldGather 14 = some (cmdOf heldGather 14) ∧ (cmdOf heldGather 14).phase = .running
      ∧ (cmdOf heldGather 14).work = .fwd (atHand 6 true) ∧ (atHand 6 true).intake = true ∧ (atHand 6 true).reading = false
      ∧ Pkt.step (cmdOf heldGather 14).words = 5 ∧ ∀ f ∈ (atHand 6 true).feats, f.table = 6)
    ∧ (mayCommit heldGather (cmdOf heldGather 6) = true ∧ Pkt.step (cmdOf heldGather 6).words = 4
      ∧ ∀ x ∈ heldGather.cmds, rereads x 6 0 = false) := by refine ⟨?_, ?_⟩ <;> decide +kernel
/-! ### The other chips -/

/-- A message of eight header words and its entries. -/
def msgOf (ws : List Nat) (rest : List Byte) : List Byte :=
  ((List.range 8).flatMap fun i => toLE 4 (ws.getD i 0)) ++ rest

/-- A LOOKUP_REQ of chip 5 for row 2 of a table. -/
def lookup (train t ver step : Nat) : List Byte :=
  msgOf [1 + train * 2 ^ 12, 5, 77, t + 2 ^ 12, ver, step] (toLE 5 2 ++ toLE 1 0 ++ toLE 2 0 ++ toLE 4 0 ++ toLE 4 0x3F800000)

/-- A PARTIAL_RSP without partials. -/
def partialMsg (req st last : Nat) : List Byte := msgOf [2 + st * 256 + last * 65536, 5, req] []

/-- Lookups, a migration and pushes of this chip, in flight, with port 1 up. -/
def remoteState : State :=
  let look := fun (req cmd : Nat) => ({ req := req, cmd := cmd, table := 1, pool := 0, chip := 5, port := 1, slice := 2, rows := [2] } : Lookup)
  let push := fun (chip req : Nat) (ws : List Nat) (com : Bool) =>
    ({ chip := chip, port := 1, req := req, waiting := ws, committed := com, acked := false } : Push)
  let far := fun (r : Nat) => ({ table := 1, row := r, via := .remote, asked := true } : RowVal)
  let ad := { trainTable with desc := { trainTable.desc with adapter := true, format := 5, rank := 1 }, shards := [⟨5, 6, 0, 0⟩] }
  let s := tabled [mk 0 2 .running (pkc 1 2 [(8, 1), (9, 1)]) (.fwd { feats := [oneBag 1 false], rows := [far 2, far 3] }),
    scatter 1 7 0 1 .running noScatter,
    mk 2 1 .running (pkc 8 1 [(8, 1 + 2 * 65536), (9, 1)]) (.rows { intake := true }),
    scatter 3 7 0 1 .running { noScatter with started := true, pushes := [push 5 9 [0, 1] false, push 6 10 [0] false] },
    scatter 4 7 0 1 .running { noScatter with started := true, written := true, pushes := [push 7 11 [] true] },
    mk 5 1 .running (pkc 4 1 [(2, 4), (8, 3)]) (.merge { table := 3, begun := true, merged := true })]
  wr Reg.RIM_PORT_STAT_UP 1 1 (wr Reg.PLACE_POOL_BASE_BASE 2 (hbmBase + 2 ^ 20) (wr Reg.PLACE_POOL_LEN_LEN 2 (2 ^ 20)
    (putRow 1 2 0x40000000#32 { s with
      tables := s.tables ++ [(2, { trainTable with merging := some 5 }), (3, ad)]
      remote := { s.remote with
        lookups := [look (2 * 2 ^ 24 + 1) 0, look (2 ^ 24 + 2) 1], migs := [{ req := 2 ^ 24 + 3, cmd := 2, chip := 5, port := 1 }]
        heldPushes := [{ msg := msgOf [3, 5, 12, 0, 5] [] }], partsB := [(3, 4, 5, 0, [])] }
      slices := [(2, { slots := [{ table := 0, row := 2, step := 4, owner := .peer 5 0 0 12, prov := true, fmt := 0, exp := 0,
                                   use := 0, codes := [] }] })] })))

/-- The same chip with one lookup in its serve queue: of a version that is not there, of a row that a pin holds, of a row to fetch. -/
def serveState (t ver : Nat) : State := { remoteState with
  tables := (4, { serveTable with desc := { serveTable.desc with cls := 1 } }) :: remoteState.tables
  slices := (2, { punty := [{ copy := { table := 1, row := 2, bytes := rowOf serveTable.desc 2 0x40000000#32 },
                              train := false, dirty := false, owners := [2] }] }) :: remoteState.slices
  remote := { remoteState.remote with
    served := [{ id := lookupBase, msg := lookup 0 t ver 0, chip := 5, table := t, version := ver, held := decide (ver = 0), step := none }]
    nextServed := 1 } }

theorem witness_lookups_served :
    (∀ s ∈ [serveState 1 7, serveState 1 0, serveState 4 0], ((nextGrant s).map (·.1) = some serveQueue)
      ∧ (nextGrant s).any (fun e => decide (nextLookup e.2 = s.remote.served.head?)) = true
      ∧ ∀ w ∈ s.remote.served, w.begun = false ∧ w.got = [] ∧ served? s w.id = some w)
    ∧ (nextGrant (serveState 1 7)).any (fun e => (lookupCheck e.2 (lookup 0 1 7 0)).isSome) = true
    ∧ (∀ t ∈ [1, 4], (nextGrant (serveState t 0)).any (fun e => (lookupCheck e.2 (lookup 0 t 0 0)).isNone) = true
      ∧ (table (serveState t 0) t).refill = false ∧ (lookupUses (lookup 0 t 0 0)).map (·.row) = [2]
      ∧ homeSlice (serveState t 0) serveTable.desc.trainCtx (homeOf 2) = 2)
    ∧ (findSpot (serveState 1 0) (slice (serveState 1 0) 2) 1 2 0 = some (.punty 0)
      ∧ (copyAt (slice (serveState 1 0) 2) (.punty 0)).any (fun cp => !cp.fails (serveState 1 0) serveTable.desc.pools) = true)
    ∧ (findSpot (serveState 4 0) (slice (serveState 4 0) 2) 4 2 0 = none ∧ joinable (serveState 4 0) 2 4 2 0 = none
      ∧ reach (serveState 4 0) (rowPlace (serveState 4 0) 4 0 2) serveTable.desc.stride = .ok ∧ bypasses (serveState 4 0) 4 = true
      ∧ (serveState 4 0).fetches = []) := by
  refine ⟨?_, ?_, ?_, ?_, ?_⟩ <;> decide +kernel

/-- The serve queue with no place left. -/
def crowded : State := { remoteState with remote := { remoteState.remote with
  served := List.replicate 4096 ⟨lookupBase, [], 5, 1, 0, false, none, false, []⟩ } }

theorem witness_serve_queue_full : 4096 ≤ crowded.remote.served.length ∧ fencedTable crowded 1 = false ∧ isReady crowded = true :=
  ⟨Nat.le_of_eq (by rw [show crowded.remote.served = List.replicate 4096 _ from rfl, List.length_replicate]), by decide +kernel, by decide +kernel⟩

/-- A MIGRATE_REQ of one row of table 1 to tier 2. -/
def migrateMsg (row : Nat) : List Byte := msgOf [5, 5, 78, 1 + 2 ^ 12, 2] (toLE 8 row)

theorem witness_remote_lookups :
    (isReady remoteState = true ∧ ∀ m ∈ [lookup 0 1 7 0, lookup 1 0 0 5, lookup 0 1 0 0], isMsg 1 m = true)
    ∧ (fencedTable remoteState 1 = false ∧ remoteState.remote.served.length < 4096
      ∧ fencedTable { remoteState with rung := some ⟨2, [], 0, 1, false, 0, false, 0⟩ } 1 = true)
    ∧ (isMsg 2 (partialMsg 99 0 1) = true ∧ (remoteState.remote.lookups.find? fun l => l.req == 99).isNone)
    ∧ (∀ m ∈ [partialMsg (2 * 2 ^ 24 + 1) 0 0, partialMsg (2 * 2 ^ 24 + 1) 0 1, partialMsg (2 * 2 ^ 24 + 1) 5 1], isMsg 2 m = true
      ∧ (remoteState.remote.lookups.find? fun l => l.req == msgReq m).map (·.cmd) = some 0)
    ∧ (cmd? remoteState 0 = some (cmdOf remoteState 0) ∧ (cmdOf remoteState 0).phase ≠ .done ∧ (cmdOf remoteState 0).op = 1
      ∧ (cmdOf remoteState 0).work = .fwd (fwdIn remoteState 0)
      ∧ ∃ x ∈ (fwdIn remoteState 0).rows, x.done = false ∧ ¬ (x.table = 1 ∧ x.row ∈ [2]))
    ∧ ((remoteState.remote.lookups.find? fun l => l.req == (BitVec.ofNat 32 (2 ^ 24 + 2)).toNat).map (·.cmd) = some 1
      ∧ cmd? remoteState 1 = some (cmdOf remoteState 1) ∧ (cmdOf remoteState 1).op = 3 ∧ (cmdOf remoteState 1).phase ≠ .done)
    ∧ (isMsg 5 (migrateMsg 2000) = true ∧ ∃ r ∈ migrateRows (migrateMsg 2000), localRow (table remoteState 1) r = false)
    ∧ (isMsg 5 (migrateMsg 1) = true ∧ migrateRows (migrateMsg 1) = [1] ∧ localRow (table remoteState 1) 1 = true
      ∧ pentry? remoteState 1 1 = none ∧ (moveDest remoteState 1 1 2).isSome ∧ remoteState.remote.migServed = []
      ∧ rptCount remoteState.place.entries (rptSet 1 1) < 8)
    ∧ (∀ st ∈ [0, 4], isMsg 6 (msgOf [6 + st * 256, 5, 2 ^ 24 + 3] []) = true
      ∧ (remoteState.remote.migs.find? fun m => m.req == msgReq (msgOf [6 + st * 256, 5, 2 ^ 24 + 3] [])).map (·.cmd) = some 2)
    ∧ (cmd? remoteState 2 = some (cmdOf remoteState 2) ∧ (cmdOf remoteState 2).op = 8 ∧ (cmdOf remoteState 2).phase = .running
      ∧ (rowsOf (cmdOf remoteState 2)).intake = true ∧ moveWaits remoteState 2 = false
      ∧ ∀ x ∈ remoteState.remote.migs, x.req ≠ 2 ^ 24 + 3 → x.cmd ≠ 2)
    ∧ 6 < msgKind (msgOf [9] []) := by
  refine ⟨?_, ?_, ?_, ?_, ?_, ?_, ?_, ?_, ?_, ?_, ?_⟩ <;> decide +kernel

/-- A GRAD_PUSH of chip 5, request 12: phase, table, step, and an entry for row 2 where it has one. -/
def pushMsg (phase t step n : Nat) : List Byte :=
  msgOf [3 + phase * 256, 5, 12, t + n * 2 ^ 12, step] (if n = 0 then [] else toLE 8 2 ++ half16)

/-- The slot of that entry. -/
def pushSlot : Slot :=
  { table := 0, row := 2, step := 4, owner := pushOwner (pushMsg 0 0 4 1), prov := true, fmt := 0, exp := 0, use := 0,
    codes := List.replicate 16 0x3F000000 }

/-- A GRAD_ACK of a chip for a request. -/
def ackMsg (chip req st seq : Nat) : List Byte := msgOf [4 + st * 256, chip, req, seq] []

theorem witness_gradient_pushes :
    (isReady remoteState = true ∧ Sparse.wf {} remoteState.slices = true ∧ trainOpen remoteState 0 = true
      ∧ ∀ m ∈ [pushMsg 0 0 4 1, pushMsg 0 1 4 1, pushMsg 0 0 5 1, pushMsg 0 0 3 1, pushMsg 0 2 4 1],
        isMsg 3 m = true ∧ pushPhase m = 0 ∧ fencedTable remoteState (msgTable m) = false
        ∧ ∀ e ∈ pushEntries m 16, localRow (table remoteState (msgTable m)) e.1 = true)
    ∧ fencedTable { remoteState with rung := some ⟨2, [], 0, 1, false, 0, false, 0⟩ } 0 = true
    ∧ ((table remoteState 1).working = none ∧ (table remoteState 0).working ≠ none ∧ (table remoteState 2).merging = some 5
      ∧ (table remoteState 0).step = 3)
    ∧ ((table remoteState 0).merging = none ∧ (pushEntries (pushMsg 0 0 4 1) 16).map (·.1) = [2]
      ∧ (table remoteState 0).pooled = false
      ∧ slotShort (addSlot 2 pushSlot remoteState) [2] = [])
    ∧ (∀ p ∈ [1, 2, 3], isMsg 3 (pushMsg p 0 4 0) = true ∧ pushPhase (pushMsg p 0 4 0) = p)
    ∧ (pushHeld (pushMsg 1 0 4 0) remoteState = true ∧ pushHeld (msgOf [3 + 256, 5, 13, 0, 4] []) remoteState = false
      ∧ (ctx remoteState (table remoteState 0).desc.trainCtx).st ≠ .resetting ∧ isMsg 3 (msgOf [3 + 256, 5, 13, 0, 4] []) = true ∧ pushPhase (msgOf [3 + 256, 5, 13, 0, 4] []) = 1)
    ∧ (∀ m ∈ [ackMsg 5 9 0 1, ackMsg 5 9 6 0, ackMsg 5 9 2 0], isMsg 4 m = true
      ∧ pushCmd remoteState (msgChip m) (msgReq m) = some (cmdOf remoteState 3))
    ∧ ((scatterOf (cmdOf remoteState 3)).pushes.any (fun p => p.chip == 5 && p.req == 9) = true
      ∧ (cmdOf remoteState 3).phase ≠ .done ∧ (cmdOf remoteState 3).op = 3
      ∧ (∃ x ∈ (scatterOf (cmdOf remoteState 3)).pushes, ¬ (x.chip = 5 ∧ x.req = 9) ∧ x.waiting ≠ [])
      ∧ ((scatterOf (cmdOf remoteState 3)).pushes.find? fun p => !p.acked).isSome)
    ∧ (isMsg 4 (ackMsg 7 11 0 0xFFFFFFFF) = true ∧ pushCmd remoteState 7 11 = some (cmdOf remoteState 4)
      ∧ (scatterOf (cmdOf remoteState 4)).written = true
      ∧ (∀ x ∈ (scatterOf (cmdOf remoteState 4)).pushes, x.committed = true ∧ x.chip = 7 ∧ x.req = 11))
    ∧ (cmd? remoteState 5 = some (cmdOf remoteState 5) ∧ (cmdOf remoteState 5).op = 4 ∧ (cmdOf remoteState 5).phase ≠ .done
      ∧ (mergeIn remoteState 5).merged = true ∧ (table remoteState 3).desc.adapter = true ∧ missingB remoteState 3 4 ≠ []) := by
  refine ⟨?_, ?_, ?_, ?_, ?_, ?_, ?_, ?_, ?_, ?_⟩ <;> decide +kernel

/-! ### Flash targets and the rim ports -/

/-- A row fetch of flash target 3 and the moves of rows 4 to 6 of table 1 to it: row 4 is being read, rows 5 and 6 have been, and
row 6's blocks are being read to merge it into them; targets 3 and 9 are connected, target 3 over port 1. -/
def flashState : State :=
  let at4 : Place := ⟨4, 3, 8192⟩
  let f := fun (id cmd : Nat) =>
    ({ id := id, table := 1, row := 2, version := 0, lo := 0, hi := none, slice := 2, place := at4, dest := .none, weir := false,
       waiters := [cmd], gen := 1, ctx := 2 } : Fetch)
  let io := fun (id tries : Nat) (w : Bool) (ft : Option Nat) (mv : Option (Nat × Nat)) =>
    ({ id := id, target := 3, lba := 2, blocks := 1, write := w, fetch := ft, back := none, move := mv, tries := tries } : NvmeIo)
  let waits : RowVal := { table := 1, row := 2, via := .lane, asked := true }
  let entry := fun (r : Nat) (bs : Option (List Byte)) => ({
    table := 1, row := r, moving := true, src := false, curTier := 1, cur := ⟨1, 0, cisternBase⟩, newTier := 4, new := at4, epoch := 0,
    read := bs } : PEntry)
  let bytes := rowOf serveTable.desc 5 0x3F800000#32
  let s := tabled [mk 0 2 .running (pkc 1 2 [(8, 1), (9, 1)]) (.fwd { feats := [oneBag 1 false], rows := [waits] })]
  wr Reg.NVMF_TGT_CFG_RIM_PORTS 3 2 (wr Reg.NVMF_TGT_STAT_CONNECTED 3 1 (wr Reg.NVMF_TGT_STAT_CONNECTED 9 1
    (wr Reg.RIM_PORT_STAT_UP 1 1 { s with
      fetches := [f 0 0], nextFetch := 1
      place := { s.place with entries := [entry 4 none, entry 5 (some bytes), entry 6 (some bytes)] }
      remote.ios := [io 0 0 false (some 0) none, io 1 3 false none (some (1, 4)), io 2 1 true none (some (1, 5)),
        io 3 3 false none (some (1, 6))] })))

/-- The same with a command that waits for its target's next free place. -/
def queuedState : State := { flashState with remote := { flashState.remote with
  ios := flashState.remote.ios.filter (fun x => decide (x.id ≤ 1)) ++
    [⟨4, 3, 7, 1, false, none, none, some (1, 6), [], false, 0⟩] } }

/-- The same chip with target `k` chosen in UM_NVMF_TGT_SEL. -/
def chosen (k : Nat) : State := wr Reg.NVMF_TGT_SEL_TARGET 0 k flashState

theorem witness_flash_targets :
    (flashState.sup.halted = false
      ∧ (∃ io ∈ io? flashState 0, io.fetch = some 0 ∧ io.write = false ∧ io.tries < 3)
      ∧ (∃ g ∈ fetch? flashState 0, g.waiters = [0] ∧ g.dest = .none ∧ (cmd? flashState 0).any (fun c => c.phase != .done) = true
        ∧ (ctx flashState g.ctx).st ≠ .quarantined)
      ∧ ∀ x ∈ flashState.remote.ios, x.sent = true)
    ∧ (∀ k ∈ [1, 2, 3], ∃ io ∈ io? flashState k, io.fetch = none ∧ io.back = none ∧ io.move = some (1, k + 3)
      ∧ io.write = decide (k = 2) ∧ (k ≠ 2 → 3 ≤ io.tries)
      ∧ ∃ e ∈ pentry? flashState 1 (k + 3), (e.read = none ↔ k = 1))
    ∧ (let gone := queuedState.remote.ios.filter fun x => x.id != 0
      (io? queuedState 0).any (fun x => x.fetch == some 0) = true ∧ (fetch? queuedState 0).any (fun g => !g.waiters.isEmpty) = true
      ∧ (gone.filter fun x => x.target == 3 && !x.sent).map (·.id) = [4] ∧ rdb Reg.NVMF_TGT_STAT_CONNECTED 3 queuedState = true
      ∧ (gone.filter fun x => x.target == 3 && x.sent).length < ioLimit queuedState 3)
    ∧ (rdb Reg.NVMF_TGT_STAT_CONNECTED 9 flashState = true ∧ ∀ io ∈ flashState.remote.ios, io.target ≠ 9)
    ∧ (Serves (chosen 9) 0x1830 ∧ rd Reg.NVMF_TGT_SEL_TARGET 0 (chosen 9).accessed = 9
      ∧ ∀ io ∈ (chosen 9).remote.ios, io.target ≠ 9)
    ∧ (let b := wr Reg.NVMF_TGT_STAT_CONNECTED 3 0 (chosen 3)
      Serves b 0x1830 ∧ isReady b.accessed = true ∧ targetPort b.accessed 3 = true ∧ rdb Reg.NVMF_TGT_STAT_CONNECTED 3 b.accessed = false
        ∧ b.slices = []) := by
  refine ⟨?_, ?_, ?_, ?_, ?_, ?_⟩ <;> decide +kernel

/-- Chip 4, its ports 0 and 1 up, with CONNECT written for a few peers, their queue pairs in several states, and peer `p` on port 1
chosen in UM_RIM_PEER_SEL. -/
def rimState (p : Nat) : State :=
  let on := fun (i : Nat) (s : State) => wr Reg.RIM_PEER_CTRL_CONNECT i 1 s
  let s := on 21 (on 9 (on 25 (on 26 (wr Reg.CHIP_ID_CHIP 0 4 (wr Reg.RIM_PORT_STAT_UP 0 1 (wr Reg.RIM_PORT_STAT_UP 1 1 ready))))))
  wr Reg.RIM_PEER_SEL_PEER 0 p (wr Reg.RIM_PEER_SEL_PORT 0 1 { s with remote := { s.remote with
    qps := [(5, { data := { st := .connected, num := 5, halvings := 3 }, abort := { st := .connected, num := 19 } }),
      (9, { data := { st := .connecting }, abort := { st := .connecting } }),
      (21, { data := { st := .connecting }, abort := { st := .connected } }),
      (25, { data := { st := .error }, abort := { st := .connected } })] } })

theorem witness_rim_queue_pairs :
    (∀ p ∈ [1, 6], (rimState p).sup.halted = false ∧ Serves (rimState p) 0x18C4 ∧ rd Reg.RIM_PEER_SEL_PEER 0 (rimState p).accessed = p
      ∧ rd Reg.RIM_PEER_SEL_PORT 0 (rimState p).accessed = 1)
    ∧ (let a := (rimState 6).accessed
      rdb Reg.RIM_PORT_STAT_UP 1 a = true ∧ (peerQps a 6 1).data.st = .error ∧ leads a 6 = true)
    ∧ (let s := rimState 6
      (∀ p ∈ [5, 6], mayConnect s p 1 = true ∧ leads s p = true) ∧ (mayConnect s 2 1 = true ∧ leads s 2 = false)
      ∧ (peerQps s 6 1).data.st = .error ∧ (peerQps s 5 1).data.st = .connecting ∧ (peerQps s 2 1).data.st = .connecting
      ∧ mayConnect s 6 2 = false ∧ mayConnect s 7 1 = false ∧ (peerQps s 1 1).data.st = .connected
      ∧ (peerQps s 1 1).abort.st = .connected ∧ Sparse.wf {} s.remote.qps = true ∧ Sparse.get {} s.remote.qps (1 * 4 + 1) ≠ {})
    ∧ (let s := rimState 6
      ∀ k < 4, phaseOf s ≠ 0 ∧ phaseOf s ≠ 7 ∧ k ∉ s.sup.tripped ∧ asleep s = false
        ∧ (if k < 2 then s.pins.rim0Fail else s.pins.rim1Fail) = false ∧ (∀ i ∈ portPositions k, vacant s 8 i = false)) := by
  refine ⟨?_, ?_, ?_, ?_⟩ <;> decide +kernel

/-! ### Resets, the dump and the hang detector -/

/-- READY, and the same where the cap ends at rung 1, where rung 2 stands at step 4, and both. -/
def capped : State := wr Reg.ESC_CFG_MAX_RUNG 0 1 ready
def atRung (s : State) : State := { s with rung := some ⟨2, [0], 0, 4, false, 0, false, 0⟩ }

theorem witness_resets_begin :
    (∀ s ∈ [ready, capped, atRung ready, atRung capped], s.sup.halted = false ∧ Sparse.wf {} s.queues = true
      ∧ (∀ c ∈ s.cmds, c.phase ≠ .reading) ∧ s.remote.served = [] ∧ s.host.invals = []
      ∧ s.dump.collect = none ∧ s.dump.unread = false)
    ∧ (ready.rung = none ∧ Serves ready 0x2060 ∧ isReady ready.accessed = true ∧ 0 < (layoutOf ready.accessed).length
      ∧ phaseOf ready.accessed = 5)
    ∧ (isReady ready = true ∧ phaseOf ready = 5 ∧ overCap ready 2 = false ∧ overCap capped 2 = true ∧ isReady capped = true
      ∧ capped.rung = none)
    ∧ (isReady (atRung ready) = true ∧ overCap (atRung ready) 3 = false ∧ isReady (atRung capped) = true
      ∧ overCap (atRung capped) 3 = true) := by
  refine ⟨?_, ?_, ?_, ?_⟩ <;> decide +kernel

/-- READY with a stored dump of `len` bytes, unread, and the offset at byte 4. -/
def dumped (len : Nat) : State :=
  wr Reg.DUMP_OFFSET_OFFSET 0 4 { ready with dump := { ready.dump with len := len, bytes := toLE 8 0x1122334455667788, unread := true } }

/-- READY with a dump being collected, core 1 at a command of context 1, core 2 idle, and a cycle recorded. -/
def collecting : State :=
  { withCmds [{ mk 0 1 .running (pkc 6 1 [(8, 1)]) with core := some 1, progress := 3 }] with
    dump := { ready.dump with collect := some ⟨5, 0, [], 0, 0, 0⟩ }
    hang := { ready.hang with cycles := [[(0, 3)], [(0, 2)]] } }

theorem witness_dumps_cores_hangs :
    (Serves ready 0x2084 ∧ ready.accessed.dump.collect = none ∧ ready.accessed.dump.unread = false)
    ∧ (Serves (dumped 8) 0x2084 ∧ (dumped 8).accessed.dump.collect = none ∧ (dumped 8).accessed.dump.unread = true
      ∧ rdb Reg.DUMP_CFG_OVERWRITE 0 (dumped 8).accessed = false)
    ∧ (Serves (dumped 8) 0x20A4 ∧ rd Reg.DUMP_OFFSET_OFFSET 0 (dumped 8).accessed < (dumped 8).accessed.dump.len
      ∧ Serves (dumped 4) 0x20A4 ∧ (dumped 4).accessed.dump.len ≤ rd Reg.DUMP_OFFSET_OFFSET 0 (dumped 4).accessed)
    ∧ (collecting.dump.collect ≠ none ∧ collecting.dump.silent = [] ∧ ∀ u ∈ [0x1000, 0x1010, 0x2000, 0x2008], isUnit u = true
      ∧ (u / 4096 = 1 ∨ u / 4096 = 2))
    ∧ (∀ p ∈ [1, 2], (unit collecting (unitId 2 p)).st = .active ∧ servedBy collecting (unitId 2 p) = some p
      ∧ ∃ q ∈ List.range 9, q < 9 ∧ q ≠ p ∧ ((unit collecting (unitId 2 q)).st = .active ∨ (unit collecting (unitId 2 q)).st = .standby))
    ∧ (heldBy collecting 2 = [] ∧ heldBy collecting 1 = collecting.cmds ∧ collecting.cmds.length = 1
      ∧ ∀ c ∈ collecting.cmds, cmd? collecting c.id = some c)
    ∧ (isReady collecting = true ∧ newCycles collecting = [] ∧ newFrozen collecting = [])
    ∧ isReady State.reset = false := by
  refine ⟨?_, ?_, ?_, ?_, ?_, ?_, ?_, ?_⟩ <;> decide +kernel

/-! ### Units and memory -/

/-- READY with a unit in a state. -/
def unitAt (u : Nat) (x : UState) (s : State) : State := setUnit u { unit s u with st := x } s

/-- The same with a unit chosen in UM_UNIT_SEL. -/
def pick (u : Nat) (s : State) : State := wr Reg.UNIT_SEL_KIND 0 (u / 4096) (wr Reg.UNIT_SEL_INDEX 0 (u % 4096) s)

/-- READY, slice 16 and core 8 standing by, and the same with core 1 OFFLINE. -/
def spared : State := unitAt 0x2008 .standby (unitAt 0x1010 .standby ready)
def gapState : State := unitAt 0x2001 .offline spared

/-- READY where a slice, a lane pair, a transmit buffer, a vault and a channel are in a state. -/
def testing (x : UState) : State :=
  unitAt 0x1003 x (unitAt 0x3005 x (unitAt 0x4002 x (unitAt 0x6007 x (unitAt 0x7004 x
    (wr Reg.UNIT_CFG_MAX_TRIES 0 1 { ready with
      slices := [(3, { txbFail := true })], mems := [(0x6007, { ues := 2 })],
      tiers := { ready.tiers with dram := [(vaultKey 7 64, 1#8), (vaultKey 8 64, 2#8)], poison := [(vaultKey 7 64, vaultKey 7 128)] } })))))

theorem witness_units_and_epochs :
    (spared.sup.halted = false ∧ openPositions spared = [])
    ∧ (openPositions gapState = [(2, 1)] ∧ vacant gapState 2 1 = true ∧ spares gapState 2 1 = [8])
    ∧ (∀ u ∈ [0x2001, 0x1003, 0x5002, 0x1010, 0x7001], Serves (pick u spared) 0x20C8 ∧ selUnit (pick u spared).accessed = u
      ∧ isUnit u = true)
    ∧ (∀ u ∈ [0x2001, 0x1003], let a := (pick u spared).accessed
      (unit a u).st = .active ∧ ∃ i ∈ servedBy a u, spares a (u / 4096) i ≠ [])
    ∧ ((unit (pick 0x5002 spared).accessed 0x5002).st = .active ∧ (unit (pick 0x1010 spared).accessed 0x1010).st = .standby
      ∧ spares (pick 0x7001 spared).accessed 7 1 = [])
    ∧ (Serves (pick 0x2001 gapState) 0x20C8 ∧ (unit (pick 0x2001 gapState).accessed 0x2001).st = .offline)
    ∧ (∀ u ∈ [0x1003, 0x3005, 0x4002, 0x6007, 0x7004], (unit (testing .scrub) u).st = .scrub
      ∧ (unit (testing .selftest) u).st = .selftest) := by
  refine ⟨?_, ?_, ?_, ?_, ?_, ?_, ?_⟩ <;> decide +kernel

/-- READY with some found errors, a vault past its limit, one with a queued row and no spare, and an exerciser run on vault 7. -/
def memState : State :=
  let s := wr Reg.CIST_SCRUB_EN 0 1 ready
  let e : List (Nat × Nat × Nat) := (List.range 16).map fun i => (9, 0, i)
  let r := { s.repair with remaps := e, queued := [(9, 0, 100)] }
  wr Reg.EXER_CFG_DATA 0x6007 1 (wr Reg.EXER_SEED_SEED 0x6007 5 { s with
    repair := r
    mems := [(0x6001, { found := [(rowKey 1 2, 1)], ues := 1 }), (0x6005, { ues := 17 }), (0x6007, { exer := some (256, 512) }),
      (0x7003, { found := [(rowKey 0 1, 1)] })] })

/-- READY before any command, with a memory unit chosen in UM_EXER_SEL. -/
def pickExer (k i data : Nat) (s : State) : State :=
  wr Reg.EXER_SEL_KIND 0 k (wr Reg.EXER_SEL_INDEX 0 i (wr Reg.EXER_CFG_DATA (unitId (6 + k) i) data s))

theorem witness_memory_health :
    (memState.sup.halted = false ∧ rdb Reg.CIST_SCRUB_EN 0 memState = true ∧ Sparse.wf {} memState.mems = true
      ∧ unitServes memState 0x6000 = true ∧ unitServes memState 0x6001 = true)
    ∧ (∃ f ∈ [(⟨1#5, 2#15, 3, false⟩ : DramFinding)], f.uncorrected = false
      ∧ Sparse.get 0 (memUnit memState 0x6001).found (rowKey f.bank.toNat f.row.toNat) + f.corrected < rd Reg.CIST_SCRUB_THRESH 0 memState)
    ∧ (unitServes memState 0x6005 = true ∧ rd Reg.CIST_SCRUB_VAULT_UE_LIMIT 0 memState < (memUnit memState 0x6005).ues
      ∧ unitServes memState 0x6009 = true ∧ queuedShort memState 9 = true)
    ∧ (unitServes memState 0x7003 = true ∧ waitingIn memState 0x7003 = [] ∧ memState.fetches = [])
    ∧ (let s := pickExer 1 255 0 ready
      Serves s 0x104C ∧ selExer s.accessed = 0x70FF ∧ isUnit 0x70FF = true ∧ exerAllowed s.accessed 0x70FF = true
        ∧ (memUnit s.accessed 0x70FF).exer = none ∧ exerBadCfg s.accessed 0x70FF = false)
    ∧ (let s := pickExer 0 7 1 memState
      Serves s 0x104C ∧ selExer s.accessed = 0x6007 ∧ (memUnit s.accessed 0x6007).exer ≠ none)
    ∧ ((memUnit memState (unitId (6 + (0#1).toNat) (7#9).toNat)).exer = some (256, 512)
      ∧ rd Reg.EXER_CFG_DATA 0x6007 memState ≤ 5 ∧ rd Reg.EXER_CFG_ORDER 0x6007 memState = 0
      ∧ rd Reg.EXER_CFG_OPS 0x6007 memState = 0
      ∧ (∀ a ∈ [256, 764], 1#32 ≠ BitVec.ofNat 32 (exerWord 1 5 a 0)) ∧ (∀ a ∈ [252, 768], ¬ (256 ≤ a ∧ a < 768))) := by
  refine ⟨?_, ?_, ?_, ?_, ?_, ?_, ?_⟩ <;> decide +kernel

/-! ### The aperture, firmware and start-up -/

theorem witness_queue_setup_locked :
    (queue ready 1).st ≠ .disabled ∧ Serves ready 0x4010 ∧ accessOk 0x4010 8 = true ∧ (0x4000 + 16 * 1 ≤ 0x4010 ∧ 0x4010 < 0x4010 + 16 * 1)
      ∧ Serves ready 0x8038 ∧ accessOk 0x8038 4 = true ∧ (0x8018 + 32 * 1 ≤ 0x8038 ∧ 0x8038 < 0x801C + 32 * 1) := by decide +kernel

theorem witness_empty_offsets :
    (∀ o ∈ [0x3FF8, 0x0408], Serves ready o ∧ accessOk o 4 = true ∧ o < 0x4000 ∧ fieldsOf o = [] ∧ ¬ (0x0300 ≤ o ∧ o < 0x03C0)
      ∧ ¬ (0x1C14 ≤ o ∧ o < 0x1C2C) ∧ ¬ (0x2020 ≤ o ∧ o < 0x2040))
    ∧ (accessOk 0x3FF8 8 = true ∧ fieldsOf 0x3FFC = []) := by decide +kernel

/-- READY, the chip in U3. -/
def sleeping : State := { ready with sup := { ready.sup with pstate := 3 } }

theorem witness_aperture_accesses :
    (accessOk 2 4 = false ∧ accessOk 4 8 = false ∧ accessOk 8 5 = false)
    ∧ (∀ o ∈ [0x0010, 0x0014, 0x0400, 0x2010, 0x2400], Serves ready o ∧ o % 4 = 0 ∧ (fieldsOf o).length = 1
      ∧ ∀ f ∈ fieldsOf o, f.off = o ∧ f.lsb = 0 ∧ f.width ≤ 32 ∧ selObj ready.accessed f.sel = some 0)
    ∧ (∀ f ∈ fieldsOf 0x0014, f.acc = .rw ∧ taken ready.accessed f 0 (5 % 2 ^ f.width) = .yes
      ∧ taken ready.accessed f 0 (0 % 2 ^ f.width) = .no)
    ∧ (∀ f ∈ fieldsOf 0x0400, f.acc = .ro) ∧ (∀ f ∈ fieldsOf 0x2400, f.acc = .w1c ∧ f.width = 1)
    ∧ (∀ f ∈ fieldsOf 0x2010, f.acc = .rc ∧ shown ready.accessed f 0 = none ∧ highWords 0x2010 = [])
    ∧ ((∀ u n, wordAction 0x0014 n u = u) ∧ (∀ u n, wordAction 0x0400 n u = u) ∧ (∀ u n, wordAction 0x2010 n u = u)
      ∧ ∀ u n, wordAction 0x2400 n u = u)
    ∧ (Serves ready 0x0040 ∧ isHigh 0x0040 = false ∧ highWords 0x0040 ≠ [] ∧ Serves ready 0x0044 ∧ isHigh 0x0044 = true)
    ∧ (sleeping.sup.halted = false ∧ accessOk 0x1000 4 = true ∧ served sleeping 0x1000 = false ∧ rung4Runs sleeping = false
      ∧ asleep sleeping = true) := by
  refine ⟨?_, ?_, ?_, ?_, ?_, ?_, ⟨fun _ _ => rfl, fun _ _ => rfl, fun _ _ => rfl, fun _ _ => rfl⟩, ?_, ?_⟩ <;> decide +kernel

/-- A signed image: key 0, SVN 3, BUILD 7, a body of 64 zero bytes. Key, hashes and signature were computed outside the model. -/
def imageHead : List Byte :=
  toLE 4 0x4F4E5944 ++ toLE 2 1 ++ toLE 2 0 ++ toLE 4 3 ++ toLE 4 64 ++ toLE 8 7
  ++ Sha384.toBE 48 0xc516aa8d3b457c636c6826937099c0d23a13f2c3701a388b3c8fe4bc2073281b0c4462610369884c4ababa8e97b6debe
  ++ 4#8 :: Sha384.toBE 48 0x18ed92e6eee2f2534badd2a48de44520e0105f5b18e38165435964aa6754bc711ab86da361f24aa0884a4c7043a3fdc4
  ++ Sha384.toBE 48 0xac9344cfb525870f2c52dbc4b571085903556a3b64829a6026f257ae60fb3105673640b44203eb2734722b9c44129581 ++ toLE 7 0
def imageSig : List Byte :=
  Sha384.toBE 48 0xeb1abaefa5cf0c888eb0a97977ac41dbc0b754381101e7fb61d3ed8924d632d4eaac759ae4d9e45551fed31c28b0c3d8
  ++ Sha384.toBE 48 0xb2acb11af8d0b4a2d2b0fa7f1f8c8eaacaf56b4c3d04485051c1c619617635ebee4e426ea0fb86e290bd769fd3adcb36
def goodImage : List Byte := imageHead ++ imageSig ++ List.replicate 304 0#8
/-- The same with another BUILD, which its signature does not cover. -/
def badImage : List Byte := goodImage.take 16 ++ toLE 8 8 ++ goodImage.drop 24

/-- FW_WAIT with the hash of that key in slot 0. -/
def fwWait : State :=
  wr Reg.BOOT_STAT_PHASE 0 2 { ready with fw := { ready.fw with keys := [Sha384.toBE 48
    0xba4079e8b50ae7495f68e5da12d753ff32d0aaac669614fd02c5a0c28d3449dfe4800e58791ae0ebf48d24e2e1dbbc9f] } }

/-- READY with an image of key 1 and SVN 4, and writes of the retention store. -/
def imaged (w : List Nat) : State :=
  { ready with fw := { ready.fw with image := some ⟨[], 1, 4, 7, 0⟩ }, ret := { ready.ret with writing := w } }

theorem witness_image_good : checkImage fwWait.accessed goodImage false = 1 := by decide +kernel

theorem witness_firmware_and_retention :
    (Serves ready 0x28 ∧ phaseOf ready.accessed ≠ 2)
    ∧ (Serves fwWait 0x28 ∧ phaseOf fwWait.accessed = 2 ∧ checkImage fwWait.accessed (goodImage.take 511) false ≠ 1)
    ∧ (Serves (imaged []) 0x28 ∧ (imaged []).accessed.fw.image = some ⟨[], 1, 4, 7, 0⟩ ∧ retBusy (imaged []).accessed = false
      ∧ retBusy (imaged [2]).accessed = true ∧ ready.accessed.fw.image = none)
    ∧ (Serves (imaged []) 0x34 ∧ revokeOk (imaged []).accessed 0 = true ∧ revokeOk (imaged []).accessed 1 = false)
    ∧ (∀ r ∈ [0, 1, 2, 3], (imaged [r, 3]).sup.halted = false ∧ (imaged [r, 3]).ret.writing = [r, 3])
    ∧ (imaged []).ret.writing = [] := by
  refine ⟨?_, ?_, ?_, ?_, ?_, ?_⟩ <;> decide +kernel

/-- READY in another phase, without a context 0 where `fresh`, and in step 7 of a chip reset where `rst`. -/
def phased (p : Nat) (fresh rst : Bool) (img : Option Image) : State :=
  wr Reg.BOOT_STAT_PHASE 0 p { ready with
    ctxs := if fresh then [] else ready.ctxs
    rung := if rst then some ⟨4, [0], 0, 7, false, 0, false, 0⟩ else none
    fw := { ready.fw with image := img } }

/-- An image whose CRC-32C is right. -/
def keptImage : Image := ⟨[], 0, 0, 0, crc32c []⟩

/-- From `s` to `t` every unit still answers, and the start-up's inputs are as they were. -/
def Passing (s t : State) : Prop :=
  (∀ u, (unit t u).st = .active ∨ (unit t u).st = .standby) ∧ t.repair = s.repair ∧ t.regs = s.regs ∧ t.fw = s.fw ∧ t.ctxs = s.ctxs

theorem foldl_passing {α : Type} {s : State} {f : State → α → State} (h : ∀ t x, Passing s t → Passing s (f t x)) :
    ∀ (l : List α) (t : State), Passing s t → Passing s (l.foldl f t)
  | [], _, ht => ht
  | x :: l, t, ht => foldl_passing h l (f t x) (h t x ht)

theorem setUnit_passing {s t : State} (u : Nat) (v : UnitRec) (hv : v.st = .active ∨ v.st = .standby) (h : Passing s t) :
    Passing s (setUnit u v t) := by
  obtain ⟨h1, h2, h3, h4, h5⟩ := h
  refine ⟨fun w => ?_, h2, h3, h4, h5⟩
  simp only [unit, setUnit, Sparse.get_set]
  split
  · exact hv
  · exact h1 w

theorem testUnit_passing {s t : State} (hf : s.repair.failed = []) (hm : 0 < rd Reg.UNIT_CFG_MAX_TRIES 0 s) (u : Nat) (h : Passing s t) :
    Passing s (testUnit [] t u) := by
  have e : rd Reg.UNIT_CFG_MAX_TRIES 0 t = rd Reg.UNIT_CFG_MAX_TRIES 0 s := by simp only [rd, h.2.2.1]
  have n : ¬ 0 ≥ rd Reg.UNIT_CFG_MAX_TRIES 0 s := by omega
  simp only [testUnit, h.2.1, hf, e, List.find?_nil, Option.map_none, Option.getD_none, if_neg n, List.any_nil]
  exact setUnit_passing _ _ (.inr rfl) h

theorem serveBy_passing {s t : State} (k i p : Nat) (h : Passing s t) : Passing s (serveBy k i p t) := by
  have g := setUnit_passing (unitId k p) { unit t (unitId k p) with st := .active } (.inl rfl) h
  unfold serveBy
  simp only
  split
  · exact g
  · exact g

theorem fillGroup_passing {s t : State} (k : Nat) (m pos : List Nat) (h : Passing s t) : Passing s (fillGroup k m pos t) :=
  foldl_passing (f := fun t i => leaveVacant k t i) (fun _ _ h => h) _ _
    (foldl_passing (fun _ _ h => serveBy_passing _ _ _ h) _ _ (foldl_passing (fun _ _ h => serveBy_passing _ _ _ h) _ _ h))

theorem addRepair_rest (f : Repair → Repair) (s : State) :
    (addRepair f s).units = s.units ∧ (addRepair f s).fw = s.fw ∧ (addRepair f s).ctxs = s.ctxs := by
  simp only [addRepair]
  split
  · exact ⟨rfl, rfl, rfl⟩
  · exact ⟨rfl, rfl, rfl⟩

theorem keepVaultMap_rest {s t : State} (ht : Passing s t) :
    (keepVaultMap t).units = t.units ∧ (keepVaultMap t).fw = s.fw ∧ (keepVaultMap t).ctxs = s.ctxs := by
  simp only [keepVaultMap]
  split
  · exact ⟨rfl, ht.2.2.2.1, ht.2.2.2.2⟩
  · obtain ⟨x, y, z⟩ := addRepair_rest (fun q => { q with vaults := (List.range 256).filterMap fun i => match physOf t 6 i with
      | some p => if p = i then none else some (i, p)
      | none => none }) t
    exact ⟨x, y.trans ht.2.2.2.1, z.trans ht.2.2.2.2⟩

theorem runMemory_shape (s : State) (h : Passing s s) (hr : s.repair = {}) (hm : 0 < rd Reg.UNIT_CFG_MAX_TRIES 0 s) :
    ∃ t, Passing s t ∧ runMemory [] false s = wr Reg.MAP_EPOCH_EPOCH 0 0 (keepVaultMap t) := by
  refine ⟨_, ?_, by simp only [runMemory, hr, List.foldl_nil, Bool.false_eq_true, if_false, selectUnits]; rfl⟩
  exact foldl_passing (f := fun x u => poisonUnit u x) (fun t u h => by unfold poisonUnit; split <;> exact h) _ _
    (foldl_passing (fun _ _ h => fillGroup_passing _ _ _ h) _ _
      (foldl_passing (fun _ _ h => testUnit_passing (by rw [hr]) hm _ h) _ _ h))

/-- A restart without an image waits for one. -/
theorem restart_waits (s : State) (r : Rung) (h : Passing s s) (hr : s.repair = {}) (hm : 0 < rd Reg.UNIT_CFG_MAX_TRIES 0 s)
    (hi : s.fw.image = none) : phaseOf (afterMemory (reuseImage r (runMemory [] false s))) ≠ 4 := by
  obtain ⟨t, ht, e⟩ := runMemory_shape s h hr hm
  have p : (runMemory [] false s).fw.image = none := by
    rw [e]; exact (congrArg Fw.image (keepVaultMap_rest ht).2.1).trans hi
  have k : reuseImage r (runMemory [] false s) = runMemory [] false s := by simp only [reuseImage, p]
  rw [k]
  unfold afterMemory
  split
  · simp only [bootFault, setPhase, phaseOf]
    rw [rd_wr_other _ _ _ _ _ _ (by decide), rd_wr_other _ _ _ _ _ _ (by decide), rd_wr_same]; decide
  · simp only [p, Option.isSome_none, Bool.false_eq_true, if_false, setPhase, phaseOf, rd_wr_same]; decide

/-- A restart in which every unit passes and an image is kept reaches CORES. -/
theorem restart_reaches_cores (s : State) (r : Rung) (m : Image) (h : Passing s s) (hr : s.repair = {})
    (hm : 0 < rd Reg.UNIT_CFG_MAX_TRIES 0 s) (hi : s.fw.image = some m) (hc : r.reload = false) (hk : crc32c m.body = m.crc) :
    phaseOf (afterMemory (reuseImage r (runMemory [] false s))) = 4
      ∧ (afterMemory (reuseImage r (runMemory [] false s))).ctxs = s.ctxs := by
  obtain ⟨t, ht, e⟩ := runMemory_shape s h hr hm
  obtain ⟨u1, u2, u3⟩ := keepVaultMap_rest ht
  have k : reuseImage r (runMemory [] false s) = runMemory [] false s := by
    have : (runMemory [] false s).fw.image = some m := by rw [e]; exact (congrArg Fw.image u2).trans hi
    simp only [reuseImage, this, hc, hk, bne_self_eq_false, Bool.or_false, Bool.false_eq_true, if_false]
  have g : goodSlices (runMemory [] false s) = 17 := by
    rw [e]
    have : ∀ i, ((unit (wr Reg.MAP_EPOCH_EPOCH 0 0 (keepVaultMap t)) (unitId 1 i)).st == .active
        || (unit (wr Reg.MAP_EPOCH_EPOCH 0 0 (keepVaultMap t)) (unitId 1 i)).st == .standby) = true := by
      intro i
      have w : unit (wr Reg.MAP_EPOCH_EPOCH 0 0 (keepVaultMap t)) (unitId 1 i) = unit t (unitId 1 i) := by
        simp only [unit]; exact congrArg (fun v : Units => Sparse.get {} v.st (unitId 1 i)) u1
      rw [w]; rcases ht.1 (unitId 1 i) with q | q <;> simp [q]
    simp only [goodSlices, this]; rfl
  have p : (runMemory [] false s).fw.image = some m := by rw [e]; exact (congrArg Fw.image u2).trans hi
  rw [k]
  simp only [afterMemory, g, p, Option.isSome_some, if_true, Nat.reduceLT, if_false, setPhase]
  refine ⟨?_, by rw [e]; exact u3⟩
  simp only [phaseOf, rd_wr_same]; rfl

theorem ready_passing (p : Nat) (img : Option Image) : Passing (phased p false true img) (phased p false true img) :=
  ⟨fun _ => .inl rfl, rfl, rfl, rfl, rfl⟩

theorem fillPos_ctxs (i : Nat) (s : State) : (fillPos s (2, i)).ctxs = s.ctxs := by
  unfold fillPos
  split
  · split <;> rfl
  · rfl

theorem runCores_opens (s : State) (h : (ctx s 0).st = .opened) : (ctx (runCores [] s) 0).st = .opened := by
  have k : ∀ (l : List Nat) (t : State), (l.foldl (fun x i => fillPos x (2, i)) t).ctxs = t.ctxs := by
    intro l
    induction l with
    | nil => intro t; rfl
    | cons i l ih => intro t; exact (ih _).trans (fillPos_ctxs i t)
  have f : ((List.range 9).map (unitId 2)).filter (fun u => (([] : List UnitId).any fun b => b.toNat == u)
      && ((unit s u).st == .active || (unit s u).st == .standby)) = [] := by
    simp only [List.any_nil, Bool.false_and]; rfl
  simp only [runCores, f, List.foldl_nil]
  split
  · simp [openRoot, ctx, setCtx]
  · have e := k (List.range 8) s
    have e2 : ∀ t : State, (bootFault 3 0 t).ctxs = t.ctxs := fun _ => rfl
    simp only [ctx, e2, e]
    exact h

/-- The hypotheses of the restart, in a state whose context 0 was left open. -/
theorem witness_restart :
    let r : Rung := ⟨4, [0], 0, 7, false, 0, false, 0⟩
    let s := phased 1 false true (some keptImage)
    let m := afterMemory (reuseImage r (runMemory [] false s))
    s.sup.halted = false ∧ s.rung = some r ∧ phaseOf s = 1 ∧ phaseOf m = 4 ∧ (ctx (runCores [] m) 0).st = .opened := by
  intro r s m
  have k := restart_reaches_cores s r keptImage (ready_passing 1 _) rfl (by decide +kernel) rfl rfl rfl
  refine ⟨rfl, rfl, by decide +kernel, k.1, runCores_opens m ?_⟩
  show (Sparse.get {} m.ctxs 0).st = .opened
  rw [k.2]; rfl

theorem witness_startup_phases :
    (ready.pins.pwrGood = true ∧ State.reset.pins.pwrGood = false ∧ State.reset.pins.supFail = false
      ∧ ({ State.reset with pins := { State.reset.pins with supFail := true } } : State).pins.supFail = true
      ∧ ({ State.reset with ret := { State.reset.ret with cfgValid := false } } : State).ret.cfgValid = false
      ∧ State.reset.ret.cfgValid = true)
    ∧ (∀ img ∈ [none, some keptImage], phaseOf (phased 1 false false img) = 1 ∧ (phased 1 false false img).rung = none)
    ∧ (phaseOf (phased 4 true false none) = 4 ∧ (ctx (phased 4 true false none) 0).st ≠ .opened
      ∧ (unit (phased 4 true false none) (unitId 2 0)).st = .active)
    ∧ (phaseOf (phased 4 false false none) = 4 ∧ (ctx (phased 4 false false none) 0).st = .opened
      ∧ (phased 4 false false none).rung = none ∧ (phased 4 false false none).sup.halted = false) := by
  refine ⟨?_, ?_, ?_, ?_⟩ <;> decide +kernel

theorem witness_restart_waits :
    let r : Rung := ⟨4, [0], 0, 7, false, 0, false, 0⟩
    let s := phased 1 false true none
    s.sup.halted = false ∧ s.rung = some r ∧ phaseOf s = 1 ∧ phaseOf (afterMemory (reuseImage r (runMemory [] false s))) ≠ 4 :=
  ⟨rfl, rfl, by decide +kernel, restart_waits _ _ (ready_passing 1 _) rfl (by decide +kernel) rfl⟩

/-! ### The supervisor, the power states and the tray controller -/

/-- READY with slice 1 hot, stack 2 below its limit, a failing droop detector, a rail monitor twice without a sample, a rail word sent
three times, and pair 3 of port 1 retrained three times. -/
def supState : State :=
  wr Reg.RIM_PORT_STAT_UP 1 1 { ready with
    sup := { ready.sup with
      mons := [(1, { samples := [560, 560, 560] }), (2 * 512 + 2, { samples := [300] }), (4 * 512 + 3, { failed := true }),
        (5 * 512 + 1, { bad := 2 }), (6 * 512 + 7, { samples := [12] })]
      retrains := [(12, 0), (12, 0), (12, 0)], droop := 2 }
    pins := { ready.pins with vregTries := [(0, 1), (1, 3)] } }

theorem witness_supervisor_loops :
    (supState.sup.halted = false ∧ supState.pins.pwrGood = true ∧ supState.sup.stretched = [] ∧ asleep supState = false)
    ∧ (∀ e ∈ [(1, 5, 440), (3, 2, 430)], e.2.1 < monCount e.1 ∧ inRange e.1 e.2.2 = true ∧ (mon supState e.1 e.2.1).throttled = false
      ∧ (let v := filtered (setMon e.1 e.2.1 ((mon supState e.1 e.2.1).valid e.1 e.2.2) supState) e.1 e.2.1
        (e.1 < 3 → v < tripLimit e.1) ∧ throttleLimit supState e.1 < v))
    ∧ (1 < monCount 5 ∧ (mon supState 5 1).bad = 2 ∧ (mon supState 5 1).failed = false)
    ∧ (1 < monCount 0 ∧ inRange 0 520 = true
      ∧ tripLimit 0 ≤ filtered (setMon 0 1 ((mon supState 0 1).valid 0 520) supState) 0 1)
    ∧ (∀ i < 17, filtered supState 4 i ≤ (rd Reg.SUP_DROOP_CFG_RATE 0 supState : Int))
    ∧ (rdb Reg.RIM_PORT_STAT_UP 1 supState = true ∧ servedBy supState (unitId 8 12) = some 12
      ∧ (supState.sup.retrains.filter fun e => decide (e.2 + hourCycles > supState.cycle)).length = 3
      ∧ servedBy supState (unitId 8 9) = some 9 ∧ 3 < rd Reg.SUP_EQ_CFG_RIM_MIN 0 supState ∧ rd Reg.SUP_EQ_CFG_RIM_MIN 0 supState ≤ 20)
    ∧ (Sparse.get 0 supState.pins.vregTries 0 < 3 ∧ 3 ≤ Sparse.get 0 supState.pins.vregTries 1) := by
  refine ⟨?_, ?_, ?_, ?_, ?_, ?_, ?_⟩ <;> decide +kernel

/-- READY in a power state, with some clocks stopped, and with queues where `busy`. -/
def clocked (p : Nat) (busy : Bool) : State :=
  { ready with
    queues := if busy then ready.queues else []
    sup := { ready.sup with pstate := p, stopped := [513, 6 * 512 + 3], parked := [1] } }

theorem witness_power_states :
    ((clocked 0 true).sup.halted = false ∧ isReady (clocked 0 true) = true ∧ domainKey (.vault 3) ∈ (clocked 0 true).sup.stopped
      ∧ domainKey (.slice 1) ∈ (clocked 0 true).sup.stopped ∧ domainKey (.core 1) ∉ (clocked 0 true).sup.stopped)
    ∧ (asleep (clocked 0 true) = false ∧ rd Reg.SUP_IDLE_CFG_PARK_US 0 (clocked 0 true) ≠ 0 ∧ holdsRecords (clocked 0 true) 2 = false
      ∧ 2 ∉ (clocked 0 true).sup.parked)
    ∧ (∀ b ∈ [false, true], Serves (clocked 0 b) 0x2434 ∧ isReady (clocked 0 b).accessed = true ∧ (clocked 0 b).accessed.rung = none
      ∧ (clocked 0 b).accessed.sup.pstate ≠ 3 ∧ (u3Reason (clocked 0 b).accessed ≠ 0 ↔ b = true))
    ∧ (Serves (clocked 3 false) 0x2434 ∧ (clocked 3 false).accessed.sup.pstate = 3)
    ∧ (ready.pins.pwrGood = true ∧ ready.ret.recs.length = 2) := by
  refine ⟨?_, ?_, ?_, ?_, ?_⟩ <;> decide +kernel

theorem witness_tray_controller :
    (State.reset.pins.pwrGood = false ∧ ({ ready with sup := { ready.sup with halted := true } } : State).pins.pwrGood = true)
    ∧ (∀ b ∈ [false, true], let s := wakeUp (clocked 0 b)
      s.pins.pwrGood = true ∧ s.sup.halted = false ∧ isReady s = true ∧ s.rung = none ∧ s.sup.pstate ≠ 3 ∧ (u3Reason s ≠ 0 ↔ b = true)
        ∧ phaseOf s = 5 ∧ s.dump.collect = none ∧ s.dump.unread = false ∧ s.remote.served = [] ∧ ∀ c ∈ s.cmds, c.phase ≠ .reading)
    ∧ (wakeUp (clocked 3 false)).sup.pstate = 3
    ∧ (rd Reg.SUP_TRAY_LIMIT_W 0 ready ≠ 100 ∧ 7 < monCount 2 ∧ monCount 2 ≤ 8 ∧ i3cValid [1#8] = true ∧ i3cValid [0#8] = false)
    ∧ Serves ready 0x2484 := by
  refine ⟨?_, ?_, ?_, ?_, ?_⟩ <;> decide +kernel

/-! ### The step and its invariants -/

theorem witness_step_idles :
    ready.pending = [] ∧ ready.pins.pwrGood = true ∧ ready.sup.halted = false ∧ ready.dump.collect = none ∧ ready.rung = none
      ∧ State.reset.pending = [] ∧ State.reset.pins.pwrGood = false := by decide +kernel

/-- The hypotheses of the three invariants, in a state with memory, commands in flight, an image and a revoked key. -/
def provenState : State :=
  { withCmds [mk 2 1 .running [], mk 5 2 .admitted []] with
    mem := [(7, 1#8), (9, 2#8)]
    fw := { ready.fw with image := some ⟨[], 1, 4, 7, 0⟩, sec := { minSvn := 3, revoked := [0] } }
    ret := { ready.ret with sec := { minSvn := 2 } } }

theorem witness_invariants : provenState.memoryWf = true ∧ provenState.CmdsOrdered ∧ provenState.Trusted ∧ ∃ t, step provenState = .next t :=
  ⟨by decide +kernel, ⟨by decide +kernel, by decide +kernel⟩,
    ⟨by decide +kernel, by decide +kernel, ⟨1, by decide, by decide +kernel⟩, by decide +kernel, by decide +kernel⟩, _, rfl⟩

/-! ### Worked cases of the manual, each against the value it states -/

/-- R53, 03: the stride of 128 BF16 elements with Adam, with SGD, and of the INT4 adapter table of rank 2. -/
theorem test_stride :
    ({ format := 1, opt := 3, stateFmt := 1, rowLen := 128 } : Desc).stride = 640
    ∧ ({ format := 1, opt := 0, rowLen := 128 } : Desc).stride = 320
    ∧ ({ format := 6, adapter := true, opt := 1, stateFmt := 1, rowLen := 64, rank := 2, aFmt := 1 } : Desc).stride = 320 := by decide +kernel

/-- R56, R60, 03: identifiers of a table of 3,000,000 rows, and home slices. -/
theorem test_identifiers :
    let d : Desc := { rows := 3000000, xlate := 1, shardLog2 := 20 }
    let t : Table := { desc := d, shards := [⟨1, 0, 0, cisternBase⟩, ⟨2, 0, 0, hbmBase⟩, ⟨5, 5, 0, 0⟩] }
    lookupId t 7000123 = .here 1000123 ∧ homeOf 1000123 = 9 ∧ lookupId t 5500000 = .remote 2500000 5 ∧ homeOf 2500000 = 9
    ∧ lookupId t 0xFFFFFFFFFFFFFFFF = .dropped 0 ∧ lookupId { t with desc := { d with xlate := 0 } } 7000123 = .dropped 1 := by
  decide +kernel

/-- R146, 06: the vault and vault address of row 1,000,123. -/
theorem test_cistern_address : cisternLocate 640078720 = (0, 2544512) := by decide +kernel

/-- R155, 06: the channels of the blocks of rows 0 and 7. -/
theorem test_channels : [0, 256, 2240, 2304].map (fun h => (hbmLocate (hbmBase + h)).1) = [0, 1, 8, 9] := by decide +kernel

/-- R110, 05: the sets of two classes. -/
theorem test_basin_sets : ({ granules := 96, ways := 12, slotLog2 := 10 } : Geom).sets = 512
    ∧ ({ granules := 40, ways := 6, slotLog2 := 13 } : Geom).sets = 53 := by decide +kernel

/-- R122, 05: the victim of an 8-way set, and the tree bits after the fill. -/
theorem test_victim :
    let s := tabled []
    let b : BSet := { ways := [5, 1, 3, 7, 2, 2, 9, 4].map fun f => { st := .clean, copy := { table := 1, row := 2 }, freq := f } }
    chooseVictim s 0 b = some 1
      ∧ [1, 2, 4].map (fun n => (touch 8 1 0).testBit n) = [true, true, false] := by decide +kernel

/-- A use of a row under a pooling mode. -/
def useOf (pool : Nat) (x : F32) (p : Nat) : Terms := useTerms pool [x] 0x3F800000#32 p

/-- R88 to R90, 04: three uses over 16 leaves and over 4, and their mean. -/
theorem test_pooling_tree :
    let u := fun x => some (useOf 0 x 0)
    let a := u 0x4B800000#32
    let b := u 0x3F800000#32
    let c := u 0xCB800000#32
    let n : Option Terms := none
    let all := foldTerms [useOf 0 0x4B800000#32 0, useOf 0 0x3F800000#32 1, useOf 0 0xCB800000#32 2]
    (poolLeaves 0 1 3 [n, a, n, n, n, b, n, n, n, c, n, n, n, n, n, n]).1 = [0#32]
    ∧ (poolLeaves 0 1 3 [n, all, n, n]).1 = [0x3F800000#32]
    ∧ (poolLeaves 1 1 3 [n, all, n, n]).1 = [0x3EAAAAAB#32] := by decide +kernel

/-- R92 to R95, 04: max pooling of five uses, the fourth dropped. -/
theorem test_max_pooling :
    let row := fun (l : List F32) (p : Nat) => useTerms 3 l 0#32 p
    poolLeaves 3 4 4 [foldTerms [row [0x3F800000#32, 0x80000000#32, 0x40000000#32, 0x40400000#32] 0,
        row [0x3F800000#32, 0#32, 0x7FC00000#32, 0x40A00000#32] 1, row [0x3F000000#32, 0x80000000#32, 0xFFC00000#32, 0x40A00000#32] 2,
        row [0x3F800000#32, 0#32, 0x40E00000#32, 0xFF800000#32] 4]]
      = ([0x3F800000#32, 0#32, 0x7FC00000#32, 0x40A00000#32], [some 0, some 1, some 1, some 1]) := by decide +kernel

/-- R98, 04: NORM 1 of (3, 4, 0, …), with the eps of the reset. -/
theorem test_norm :
    let x : List F32 := [0x40400000#32, 0x40800000#32] ++ List.replicate 14 0#32
    let r := normalise 1 (BitVec.ofNat 32 (rd Reg.NORM_EPS_EPS 0 State.reset)) x
    r.1.take 3 = [0x3F19999A#32, 0x3F4CCCCD#32, 0#32] ∧ r.2 = (0#32, 0x3E4CCCCD#32) := by decide +kernel

/-- R153, 06: the partial of three FP32 rows is sent EXACT, as a significand and an exponent; as a leaf it rounds once. -/
theorem test_weir_partial :
    let t := foldTerms [useTerms 0 [0x4B800000#32, 0x3F000000#32] 0#32 0, useTerms 0 [0x3F800000#32, 0x3E800000#32] 0#32 2,
      useTerms 0 [0x40000000#32, 0x3E000000#32] 0#32 5]
    t.map (formOf 0) = some 2
    ∧ t.map (partialBytes 0 2 0) = some (exactBytes (some (16777219, 0), 0#32) ++ exactBytes (some (7, -3), 0#32))
    ∧ (poolLeaves 0 2 3 [t]).1 = [round32 (.fin false 16777220 0), 0x3F600000#32] := by decide +kernel

/-- R233, 09: a lane product over K = 16. -/
theorem test_lane_product :
    laneDot (List.replicate 16 0x3F800000#32) (0x4B800000#32 :: List.replicate 15 0x3F800000#32) = round32 (.fin false 16777230 0) := by
  decide +kernel

/-- 09: the pairs of a two-feature interaction, and the gradients of its inputs. -/
theorem test_interaction :
    let u : List (List F32) := [[0x3F800000#32, 0x40000000#32], [0x3F000000#32, 0xBF800000#32], [0x40400000#32, 0x3F800000#32]]
    let dz : List F32 := [0#32, 0x3F000000#32, 0x40000000#32]
    interaction u = [0xBFC00000#32, 0x40A00000#32, 0x3F000000#32]
    ∧ (List.range 3).map (interBack u dz) =
      [[0x3FC00000#32, 0x3F000000#32], [0x40C00000#32, 0x40000000#32], [0x3FC00000#32, 0xBF800000#32]] := by decide +kernel

/-- R77, 03: two elements of an adapter row. -/
theorem test_adapter_row :
    let d : Desc := { format := 6, adapter := true, rowLen := 16, rank := 2 }
    let b : List Word := [0x40000000#32, 0x40800000#32] ++ List.replicate 14 0#32 ++ [0x3F000000#32, 0x3F800000#32] ++ List.replicate 14 0#32
    let a : List F32 := [0x3E800000#32, 0xBF800000#32]
    adapterElem d b a 0x3FC00000#32 0 = 0x3FC00000#32 ∧ adapterElem d b a 0xBF800000#32 1 = 0xBF800000#32 := by decide +kernel

/-- R299, 11: the check value of the CRC-64. -/
theorem test_crc64 : crc64 ("123456789".toList.map fun c => BitVec.ofNat 8 c.toNat) = 0x995DC9BBDF1939FA := by decide +kernel

/-- R348, 13: the new, the aged and the failing capacitor. -/
theorem test_hold_up :
    let m := fun d => match exec (.holdTest d 3300) ready with
      | .next t => [rd Reg.SUP_HOLD_STAT_C_UF 0 t, rd Reg.SUP_HOLD_STAT_WEAK 0 t, rd Reg.SUP_HOLD_STAT_FAIL 0 t]
      | _ => []
    m 25000 = [4000, 0, 0] ∧ m 40000 = [2500, 1, 0] ∧ m 70000 = [1428, 1, 1] := by decide +kernel

/-- A queue of a weight that stays eligible, with its command. -/
def weighted (w : Nat) : Queue := { st := .active, enable := true, cfg := { depthLog2 := 6, ctx := 2, limit := 8, weight := w } }

/-- The queues of `n` grants in turn. -/
def grants : Nat → State → List Nat
  | 0, _ => []
  | n + 1, s => match nextGrant s with
    | none => []
    | some (q, t) => q :: grants n t

/-- R46, 02: queues 2, 5 and 9 of WEIGHT 3, 1 and 0 under LIMIT 2, over four rounds. -/
theorem test_arbiter :
    let s := wr Reg.ARB_AGE_LIMIT_LIMIT 0 2 { ready with
      queues := [(2, weighted 3), (5, weighted 1), (9, weighted 0)]
      cmds := [(2, 2), (3, 5), (4, 9)].map fun e => { mk e.1 2 .admitted (pkt16 []) with queue := e.2 } }
    grants 17 s = [2, 2, 2, 5, 2, 2, 2, 5, 9, 2, 2, 2, 5, 2, 2, 2, 5] := by decide +kernel

/-- The cistern pool filled to `pct` per cent with rows of 128 bytes, a threshold and a count of candidates. -/
def filled (pct h p : Nat) : State :=
  wr Reg.SKIM_THRESH_H 0 h (wr Reg.SKIM_CFG_BUDGET 0 4096 (wr Reg.PLACE_POOL_LEN_LEN 1 25600 { ready with
    tables := [(0, { serveTable with desc := { rows := 1000, format := 1, rowLen := 32 } })]
    place := { ready.place with
      candidates := p
      entries := (List.range (2 * pct)).map fun r => { table := 0, row := r, moving := false, src := true, curTier := 1,
                                                       cur := ⟨1, 0, cisternBase + 128 * r⟩, newTier := 0, new := ⟨0, 0, 0⟩, epoch := 0 } } }))

/-- R186, 07: the threshold over four windows. -/
theorem test_skimmer_threshold :
    [(40, 256, 1200), (55, 128, 3000), (78, 128, 2500), (76, 256, 900)].map (fun e => nextThreshold (filled e.1 e.2.1 e.2.2))
      = [128, 128, 256, 512] := by decide +kernel

/-- The state after a write of the aperture. -/
def write (o : Offset) (n : Nat) (v : Dword) (s : State) : State :=
  match exec (.registerWrite o n v) s with
  | .next t => t
  | _ => s

/-- R403, R404, 16: the driver creates queue 37, as the model answers each read. -/
theorem test_queue_37 :
    let s := { ready with ctxs := (9, { st := .opened, kind := 2, gen := 1, wins := allWins }) :: ready.ctxs, queues := [] }
    let t := write 0x84B4#16 4 1#64 (write 0x84B8#16 4 0x0403092A#64 (write 0x4258#16 8 0x8000000000210000#64
      (write 0x4250#16 8 0x8000000000200000#64 s)))
    (queue t 37).st = .active ∧ (queue t 37).base = 0x8000000000200000 ∧ (queue t 37).replyBase = 0x8000000000210000
      ∧ (queue t 37).cfg = { depthLog2 := 10, policy := 1, ctx := 9, weight := 3, limit := 64 }
      ∧ liveWord t 0x84B0 = 0x41 ∧ liveWord t 0x84AC = 64 ∧ mirrorAddr (queue t 37) = 0x8000000000218000 := by decide +kernel

/-! ### What well-formedness refuses -/

theorem test_wf_packet : (Instr.packetFetch 1#10 false (List.replicate 15 0#32)).wf = false := by decide
theorem test_wf_units : ([0x0000#16, 0x1011#16, 0x2009#16, 0x3121#16, 0x4011#16, 0x5011#16, 0x6104#16, 0x7100#16, 0x8024#16].any
    fun u => (Instr.unitScrubDone u).wf) = false := by decide
theorem test_wf_unit_lists : (Instr.memoryPhase [0x1011#16]).wf = false ∧ (Instr.coresPhase [0x2009#16]).wf = false
    ∧ (Instr.chipRestart [0x0001#16]).wf = false ∧ (Instr.coreImageCheck [9]).wf = false
    ∧ (Instr.selftestDone 0x1011#16 true).wf = false ∧ (Instr.dumpSkip 0x1011#16).wf = false
    ∧ (Instr.notResponding 0x9000#16 1#8).wf = false := by decide
theorem test_wf_vaults : (Instr.cisternScrub 260#9 []).wf = false ∧ (Instr.vaultOut 260#9 1#2).wf = false
    ∧ (Instr.cisternRefresh 260#9).wf = false ∧ (Instr.exerDone 0#1 260#9 ⟨[], 0⟩).wf = false
    ∧ (Instr.exerDone 1#1 256#9 ⟨[], 0⟩).wf = false ∧ (Instr.vaultOut 1#9 0#2).wf = false
    ∧ (Instr.exerDone 0#1 0#9 ⟨[(4#32, 1#32), (4#32, 2#32)], 0⟩).wf = false := by decide
theorem test_wf_slices : (Instr.droopEvent 17#5).wf = false ∧ (Instr.slicePark 17#5).wf = false ∧ (Instr.txbParityFail 17#5).wf = false
    ∧ (Instr.laneGroupFault 17#5 0#5).wf = false ∧ (Instr.laneGroupFault 0#5 17#5).wf = false
    ∧ (Instr.sramUe 17#5 0#4 0#24).wf = false ∧ (Instr.writebackComplete 17#5 0#12 0#40).wf = false := by decide
theorem test_wf_cores : (Instr.coreFault 9#4 1#4).wf = false ∧ (Instr.coreWatchdogExpiry 9#4).wf = false := by decide
theorem test_wf_findings : (Instr.cisternScrub 0#9 [⟨0#5, 0#15, 0, false⟩]).wf = false
    ∧ (Instr.fetchDataReturn 0 [] [⟨0, 0, false⟩]).wf = false := by decide
theorem test_wf_monitors : ([(0, 17), (1, 260), (2, 8), (3, 4), (4, 17), (5, 4), (6, 68), (7, 1), (8, 0)].any fun e =>
    (Instr.monitorSample [⟨BitVec.ofNat 4 e.1, BitVec.ofNat 9 e.2, none⟩]).wf) = false := by decide
theorem test_wf_translation : (Instr.atsTranslationCompletion ⟨0, 4096#64, 2048, true, true⟩).wf = false
    ∧ (Instr.atsTranslationCompletion ⟨0, 4096#64, 2 ^ 31, true, true⟩).wf = false
    ∧ (Instr.atsTranslationCompletion ⟨0, 8#64, 4096, true, true⟩).wf = false
    ∧ (Instr.atsTranslationCompletion ⟨2 ^ 20 + 1, 0#64, 4096, true, true⟩).wf = false
    ∧ (Instr.atsInvalidate 0 8#64 4096).wf = false ∧ (Instr.atsInvalidate 0 0#64 0).wf = false := by decide
theorem test_wf_messages : (Instr.lookupReq []).wf = false ∧ (Instr.gradientFrame 0#4 (List.replicate 15 0#8)).wf = false
    ∧ (Instr.i3cUnknownCode []).wf = false ∧ (Instr.memoryReadCompletion 0#8 0 0#64 []).wf = false := by decide
theorem test_wf_accesses : (Instr.registerWrite 0#16 9 0#64).wf = false ∧ (Instr.registerWrite 0#16 4 0x100000000#64).wf = false
    ∧ (Instr.rcRegisterRead 0#16 9).wf = false := by decide
theorem test_wf_others : (Instr.rimEyeCheck 0#2 9#4 0).wf = false ∧ (Instr.domainGate (.slice 17#5)).wf = false
    ∧ (Instr.domainRestart (.core 9#4)).wf = false ∧ (Instr.domainGate (.vault 260#9)).wf = false := by decide
theorem test_wf_accepts : (Instr.packetFetch 1#10 true []).wf = true ∧ (Instr.packetFetch 1#10 false (List.replicate 16 0#32)).wf = true ∧ (Instr.unitScrubDone 0x1010#16).wf = true
    ∧ (Instr.registerWrite 0#16 4 1#64).wf = true ∧ (Instr.vaultOut 259#9 1#2).wf = true := by decide

end Sys2Proof.Tests
end

section
/-! Proofs of the scope statements: offsets of the aperture that hold no register (R5). -/

namespace Sys2Proof.Machine

/-! ### Words that no register covers -/

/-- A word of the aperture that holds nothing: it lies below the queue arrays, no field has a bit in it, and it is no word of the key
hashes, the stream indices or the error log window, which read other state than fields. -/
def EmptyWord (k : Nat) : Prop :=
  k < 0x4000 ∧ fieldsOf k = [] ∧ ¬ (0x0300 ≤ k ∧ k < 0x03C0) ∧ ¬ (0x1C14 ≤ k ∧ k < 0x1C2C) ∧ ¬ (0x2020 ≤ k ∧ k < 0x2040)

/-- The offsets whose words start an action when written. -/
def actionOffsets : List Nat :=
  [0x0018, 0x0028, 0x0034, 0x0428, 0x0430, 0x0C08, 0x104C, 0x1438, 0x143C, 0x1450, 0x146C, 0x1830, 0x18C4, 0x1C5C, 0x1C60, 0x200C,
    0x2060, 0x2074, 0x2084, 0x20C8, 0x2418, 0x2434, 0x2444]

/-- A word at any other offset starts nothing. -/
theorem wordAction_of_notMem {o : Nat} (h : o ∉ actionOffsets) (v : Nat) (s : State) : wordAction o v s = s := by
  unfold wordAction
  split
  case h_24 => rfl
  all_goals exact absurd (by decide) h

/-- Every word that starts an action belongs to a register. -/
theorem fieldsOf_ne_nil_of_mem_actionOffsets : ∀ o ∈ actionOffsets, fieldsOf o ≠ [] := by decide +kernel

/-- The two words that show the dump and the critical-state record belong to registers. -/
theorem fieldsOf_ne_nil_of_window : ∀ o ∈ [0x20A4, 0x2484], fieldsOf o ≠ [] := by decide +kernel

/-- The lowest word of every clear-on-read register has a field. -/
theorem fieldsOf_ne_nil_of_rc : ∀ f ∈ Reg.all, f.acc = .rc → fieldsOf f.off ≠ [] := by decide +kernel

/-! ### What such a word reads and what a write of it does -/

theorem EmptyWord.liveWord {o : Nat} (h : EmptyWord o) (s : State) : liveWord s o = 0 := by
  obtain ⟨hlow, hnil, hkeys, hidx, hlog⟩ := h
  have hq : ¬ o ≥ 0x8000 := by omega
  have hb : ¬ o ≥ 0x4000 := by omega
  simp only [Machine.liveWord, hq, hb, hkeys, hidx, hlog, if_false, regWord, hnil, List.map_nil]
  rfl

theorem EmptyWord.isHigh {o : Nat} (h : EmptyWord o) : isHigh o = false := by
  obtain ⟨-, hnil, hkeys, -, -⟩ := h
  simp [Machine.isHigh, hnil, hkeys]

theorem EmptyWord.highWords {o : Nat} (h : EmptyWord o) : highWords o = [] := by
  obtain ⟨-, hnil, hkeys, -, -⟩ := h
  simp [Machine.highWords, hnil, hkeys]

/-- Nothing is latched: the word begins no multi-word register. -/
theorem EmptyWord.latchHigh {o : Nat} (h : EmptyWord o) (s : State) : latchHigh o s = s := by
  simp [Machine.latchHigh, h.highWords]

/-- A read of the word has no side effect: nothing clears and no offset advances. -/
theorem EmptyWord.readEffect {o : Nat} (h : EmptyWord o) (s : State) : readEffect o s = s := by
  obtain ⟨hlow, hnil, -, -, -⟩ := h
  have hq : ¬ o ≥ 0x8000 := by omega
  have hdump : o ≠ 0x20A4 := fun e => fieldsOf_ne_nil_of_window _ (by simp) (e ▸ hnil)
  have hrec : o ≠ 0x2484 := fun e => fieldsOf_ne_nil_of_window _ (by simp) (e ▸ hnil)
  have hrc : (Reg.all.filter fun f => f.off == o && f.acc == .rc) = [] := by
    refine List.filter_eq_nil_iff.2 fun f hf hp => ?_
    obtain ⟨hoff, hacc⟩ := Bool.and_eq_true_iff.1 hp
    exact fieldsOf_ne_nil_of_rc f hf (eq_of_beq hacc) (eq_of_beq hoff ▸ hnil)
  simp only [Machine.readEffect, hq, hdump, hrec, if_false, hrc, List.foldl_nil]

theorem EmptyWord.writeWord {o : Nat} (h : EmptyWord o) (v : Nat) (s : State) : writeWord o v s = s := by
  obtain ⟨hlow, hnil, -, -, -⟩ := h
  have hq : ¬ o ≥ 0x8000 := by omega
  have hb : ¬ o ≥ 0x4000 := by omega
  simp only [Machine.writeWord, hq, hb, if_false, hnil, List.foldl_nil]
  exact wordAction_of_notMem (fun hm => fieldsOf_ne_nil_of_mem_actionOffsets o hm hnil) v s

theorem EmptyWord.readWord {o : Nat} (h : EmptyWord o) (s : State) : readWord o s = (0, s) := by
  simp [Machine.readWord, h.isHigh, h.liveWord, h.latchHigh, h.readEffect]

theorem EmptyWord.readPair {o : Nat} (h : EmptyWord o) (h' : EmptyWord (o + 4)) (s : State) : readPair o s = (0, s) := by
  simp [Machine.readPair, h.liveWord, h'.liveWord, h.readEffect, h'.readEffect]

theorem EmptyWord.writePair {o : Nat} (h : EmptyWord o) (h' : EmptyWord (o + 4)) (v : Nat) (s : State) : writePair o v s = s := by
  simp [Machine.writePair, h.writeWord, h'.writeWord]

/-! ### Served accesses -/

/-- An allowed access is of 4 bytes or of 8 (R368). -/
theorem size_of_accessOk {o size : Nat} (h : accessOk o size = true) : size = 4 ∨ size = 8 := by
  simp only [accessOk, Bool.or_eq_true, Bool.and_eq_true, beq_iff_eq] at h
  exact h.imp And.left And.left

/-- A register read that the aperture serves reads the awake engine. -/
theorem apReadWith_serves {o : Nat} {s : State} (f : State → Nat × State) (h : Serves s o) :
    apReadWith o s f = { (f (wakeUp s)).2 with bus := { (f (wakeUp s)).2.bus with rdata := (f (wakeUp s)).1, err := false } } := by
  simp [apReadWith, h.1]

/-- A served aligned write of empty words does what every served access does, and no more. -/
theorem apertureWrite_of_empty {o size : Nat} {s : State} (hs : Serves s o) (hok : accessOk o size = true) (he : EmptyWord o)
    (he' : size = 8 → EmptyWord (o + 4)) (v : Nat) : apertureWrite o size v s = s.accessed := by
  rcases size_of_accessOk hok with rfl | rfl
  · simp [apertureWrite, hok, apWrite_serves _ hs, he.writeWord]
  · simp [apertureWrite, hok, hs.1, apWrite_serves _ hs, he.writePair (he' rfl)]

/-- A served aligned read of empty words returns zero beside that. -/
theorem apertureRead_of_empty {o size : Nat} {s : State} (hs : Serves s o) (hok : accessOk o size = true) (he : EmptyWord o)
    (he' : size = 8 → EmptyWord (o + 4)) :
    apertureRead o size s = { s.accessed with bus := { s.accessed.bus with rdata := 0 } } := by
  rcases size_of_accessOk hok with rfl | rfl
  · simp [apertureRead, hok, apReadWith_serves _ hs, he.readWord, State.accessed]
  · simp [apertureRead, hok, hs.1, apReadWith_serves _ hs, he.readPair (he' rfl), State.accessed]

/-- A running engine answers with the state a command made of it, where the waiting commands are the same. -/
theorem done_of_pending_eq {s t : State} (hs : s.sup.halted = false) (ht : t.pending = s.pending) : done s t = .next t := by
  rw [done_running hs, ← ht]

theorem exec_registerWrite_eq (off : Offset) (size : Nat) (v : Dword) (s : State) :
    exec (.registerWrite off size v) s = done s (apertureWrite off.toNat size v.toNat s) := rfl

theorem exec_rcRegisterRead_eq (off : Offset) (size : Nat) (s : State) :
    exec (.rcRegisterRead off size) s = done s (apertureRead off.toNat size s) := rfl

theorem exec_multiwordLowRead_eq (off : Offset) (s : State) :
    exec (.multiwordLowRead off) s = done s (apertureRead off.toNat 4 s) := rfl

/-- Settles O49: an empty word reads zero and its writes find neither a field nor an action, so a served access leaves only the
wake and the low NT_ERR. -/
theorem emptyOffsets : Obligations.empty_offsets := by
  unfold Obligations.empty_offsets
  intro s off size v o empty hs hok he he'
  have hread := apertureRead_of_empty hs hok he he'
  refine ⟨?_, ?_, fun h4 => ?_⟩
  · rw [exec_registerWrite_eq, apertureWrite_of_empty hs hok he he']
    exact done_of_pending_eq hs.2 (accessed_pending s)
  · rw [exec_rcRegisterRead_eq, hread]
    exact done_of_pending_eq hs.2 (accessed_pending s)
  · rw [exec_multiwordLowRead_eq, ← h4, hread]
    exact done_of_pending_eq hs.2 (accessed_pending s)

end Sys2Proof.Machine
end

section
/-! Proofs of the queue statements of 02: the reset of a queue's rings (R44, R404), and the setup that only a DISABLED queue takes
(R27). -/

namespace Sys2Proof.Machine

/-! ### Queues of a changed state -/

/-- An access changes no queue. -/
@[simp] theorem queue_accessed (s : State) (q : Nat) : queue s.accessed q = queue s q := by simp [queue]

/-- Replacing queue `q` once more leaves the other queues as they were. -/
theorem OtherQueues.replace {s t : State} {q : Nat} (h : OtherQueues s t q) (v : Queue) : OtherQueues s (setQueue q v t) q :=
  fun k hk => (queue_setQueue_other v t hk).trans (h k hk)

theorem otherQueues_accessed (s : State) (q : Nat) : OtherQueues s s.accessed q := fun k _ => queue_accessed s k

/-- A command that changes no queue changes none when it is done, whether a save has halted the engine or not. -/
theorem done_queues {s t : State} (h : t.queues = s.queues) : ∃ u, done s t = .next u ∧ u.queues = s.queues := by
  refine ⟨_, rfl, ?_⟩
  cases s.sup.halted
  · exact h
  · rfl

/-! ### The reset of the rings -/

/-- A queue whose ring reset was refused (R44). -/
def Queue.resetDenied (v : Queue) : Queue := { v with flags := { v.flags with resetRefused := true } }

/-- A queue with CFG_ERR at `c`. -/
def Queue.withCfgErr (v : Queue) (c : Bool) : Queue := { v with flags := { v.flags with cfgErr := c } }

theorem resetRings_of_disabled {s : State} {q : Nat} (h : (queue s q).st = .disabled) :
    resetRings q s = setQueue q (queue s q).ringReset s := by
  simp [resetRings, h]

theorem resetRings_of_not_disabled {s : State} {q : Nat} (h : (queue s q).st ≠ .disabled) :
    resetRings q s = setQueue q (queue s q).resetDenied s := by
  simp [resetRings, h, Queue.resetDenied]

/-- ENABLE reads 0 in DISABLED, so a write of 0 is no change of it. -/
theorem replyResetWrite_of_disabled {s : State} {q : Nat} (h : (queue s q).st = .disabled) :
    replyResetWrite q false s = setQueue q (queue s q).ringReset s := by
  simp [replyResetWrite, enableReads, h, resetRings_of_disabled h]

/-- Outside DISABLED the reset is refused, whether the write would change ENABLE or not. -/
theorem replyResetWrite_of_not_disabled {s : State} {q : Nat} (h : (queue s q).st ≠ .disabled) :
    replyResetWrite q false s = setQueue q (queue s q).resetDenied s := by
  simp only [replyResetWrite, Bool.false_eq_true, if_false, resetRings_of_not_disabled h]
  exact ite_self _

/-- A write of 1 to ENABLE of a queue that is not DISABLED sets at most CFG_ERR (R407). -/
theorem enableQueue_of_not_disabled {s : State} {q : Nat} (h : (queue s q).st ≠ .disabled) :
    enableQueue q s = s ∨ enableQueue q s = setCfgErr q s := by
  simp only [enableQueue]
  split
  case h_1 hd => exact absurd hd h
  case h_2 => exact .inr rfl
  case h_3 => exact .inr rfl
  case h_4 =>
    split
    · exact .inl rfl
    · exact .inr rfl

/-- With ENABLE 1 as well the refusal comes first, and the enable then touches CFG_ERR at most (R404). -/
theorem replyResetWrite_enable_of_not_disabled {s : State} {q : Nat} (h : (queue s q).st ≠ .disabled) :
    ∃ c t, replyResetWrite q true s = t ∧ queue t q = (queue s q).resetDenied.withCfgErr c ∧ OtherQueues s t q
      ∧ t.mem = s.mem ∧ t.pending = s.pending := by
  let u := setQueue q (queue s q).resetDenied s
  have hwrite : replyResetWrite q true s = enableQueue q u := by simp [replyResetWrite, resetRings_of_not_disabled h, u]
  have hqueue : queue u q = (queue s q).resetDenied := queue_setQueue _ _ _
  have hother : OtherQueues s u q := fun k hk => queue_setQueue_other _ s hk
  have hu : (queue u q).st ≠ .disabled := by rw [hqueue]; exact h
  rcases enableQueue_of_not_disabled hu with hen | hen
  · exact ⟨_, u, hwrite.trans hen, hqueue, hother, rfl, rfl⟩
  · exact ⟨true, setCfgErr q u, hwrite.trans hen, by rw [setCfgErr, queue_setQueue, hqueue]; rfl, hother.replace _, rfl, rfl⟩

theorem exec_replyReset_served {s t : State} {q : QueueNo} {en : Bool} (hs : Serves s (qCtl q.toNat 0x14))
    (h : replyResetWrite q.toNat en s.accessed = t) (hp : t.pending = s.pending) : exec (.replyReset q en) s = .next t := by
  show done s (apWrite (qCtl q.toNat 0x14) s (replyResetWrite q.toNat en)) = _
  rw [apWrite_serves _ hs, h]
  exact done_of_pending_eq hs.2 hp

/-- A served REPLY_RESET that replaces its queue replaces nothing else. -/
theorem exec_replyReset_replaces {s : State} {q : QueueNo} {en : Bool} {w : Queue} (hs : Serves s (qCtl q.toNat 0x14))
    (h : replyResetWrite q.toNat en s.accessed = setQueue q.toNat w s.accessed) :
    ∃ t, exec (.replyReset q en) s = .next t ∧ queue t q.toNat = w ∧ OtherQueues s t q.toNat
      ∧ t = { s.accessed with queues := t.queues } :=
  ⟨_, exec_replyReset_served hs h (by simp), queue_setQueue _ _ _, (otherQueues_accessed s _).replace w, rfl⟩

/-- Settles O14: the write replaces its queue by the reset one in DISABLED and by the refused one elsewhere; an enable after a
refusal touches CFG_ERR alone. -/
theorem ringReset : Obligations.ring_reset := by
  unfold Obligations.ring_reset
  intro s q hs v
  have hv : queue s.accessed q.toNat = v := queue_accessed s q.toNat
  rw [← hv]
  refine ⟨fun hd => ?_, fun hd => ?_, fun hd => ?_⟩
  · obtain ⟨t, ht, hq, ho, hrest⟩ := exec_replyReset_replaces hs (replyResetWrite_of_disabled hd)
    have hmem : t.mem = s.mem := by rw [hrest]; exact accessed_mem s
    exact ⟨t, _, ht, hq, rfl, rfl, rfl, rfl, rfl, rfl, rfl, rfl, rfl, hd, rfl, rfl, rfl, rfl, hmem, ho, hrest⟩
  · exact exec_replyReset_replaces hs (replyResetWrite_of_not_disabled hd)
  · obtain ⟨c, t, ht, hq, ho, hmem, hp⟩ := replyResetWrite_enable_of_not_disabled hd
    refine ⟨t, exec_replyReset_served hs ht (hp.trans (accessed_pending s)), ?_⟩
    rw [hq]
    exact ⟨rfl, rfl, rfl, rfl, rfl, rfl, hmem.trans (accessed_mem s), fun k hk => (ho k hk).trans (queue_accessed s k)⟩

/-! ### Queue setup -/

/-- The words of queue `q` that only DISABLED takes: its base entry, UM_Q_CFG and the word behind it, which holds nothing. -/
def SetupWord (q : QueueNo) (o : Nat) : Prop :=
  0x4000 + 16 * q.toNat ≤ o ∧ o < 0x4010 + 16 * q.toNat ∨ 0x8018 + 32 * q.toNat ≤ o ∧ o < 0x8020 + 32 * q.toNat

/-- An aligned 8-byte access that begins in such a word ends in one. -/
theorem SetupWord.upper {q : QueueNo} {o : Nat} (h : SetupWord q o) (ha : o % 8 = 0) : SetupWord q (o + 4) := by
  unfold SetupWord at *
  omega

theorem writeBase_of_not_disabled {s : State} {q : Nat} (h : (queue s q).st ≠ .disabled) (k v : Nat) : writeBase q k v s = s := by
  simp [writeBase, h]

theorem writeCfg_of_not_disabled {s : State} {q : Nat} (h : (queue s q).st ≠ .disabled) (v : Nat) : writeCfg q v s = s := by
  simp [writeCfg, h]

/-- A queue that is not DISABLED ignores its setup words (R27). -/
theorem SetupWord.writeWord {q : QueueNo} {o : Nat} {s : State} (h : SetupWord q o) (hq : (queue s q.toNat).st ≠ .disabled) (v : Nat) :
    writeWord o v s = s := by
  have hlt := q.isLt
  rcases h with ⟨hlo, hhi⟩ | ⟨hlo, hhi⟩
  · have hno : (o - 0x4000) / 16 = q.toNat := by omega
    rw [Machine.writeWord, if_neg (by omega), if_pos (by omega), hno, writeBase_of_not_disabled hq]
  · have hno : (o - 0x8000) / 32 = q.toNat := by omega
    have hk : o % 32 / 4 = 6 ∨ o % 32 / 4 = 7 := by omega
    rw [Machine.writeWord, if_pos (by omega), hno]
    rcases hk with hk | hk <;> rw [hk]
    · exact writeCfg_of_not_disabled hq v
    · rfl

theorem SetupWord.writePair {q : QueueNo} {o : Nat} {s : State} (h : SetupWord q o) (ha : o % 8 = 0)
    (hq : (queue s q.toNat).st ≠ .disabled) (v : Nat) : writePair o v s = s := by
  simp [Machine.writePair, h.writeWord hq, (h.upper ha).writeWord hq]

/-- An access that the aperture does not serve changes no queue either. -/
theorem apWrite_queues {o : Nat} {s : State} {f : State → State} (h : f s.accessed = s.accessed) :
    (apWrite o s f).queues = s.queues := by
  unfold apWrite
  split
  · exact (congrArg State.queues h).trans (accessed_queues s)
  · split
    · rfl
    · split <;> rfl

/-- An 8-byte access is aligned to 8 bytes (R368). -/
theorem mod_eight_of_accessOk {o : Nat} (h : accessOk o 8 = true) : o % 8 = 0 := by simpa [accessOk] using h

section
variable {q : QueueNo} {o size : Nat} {s : State}

theorem SetupWord.apertureWrite_served (h : SetupWord q o) (hq : (queue s q.toNat).st ≠ .disabled) (hs : Serves s o)
    (hok : accessOk o size = true) (v : Nat) : apertureWrite o size v s = s.accessed := by
  rw [← queue_accessed s] at hq
  rcases size_of_accessOk hok with rfl | rfl
  · simp [apertureWrite, hok, apWrite_serves _ hs, h.writeWord hq]
  · simp [apertureWrite, hok, hs.1, apWrite_serves _ hs, h.writePair (mod_eight_of_accessOk hok) hq]

/-- Of any size and alignment, served or not, the write changes no queue. -/
theorem SetupWord.apertureWrite_queues (h : SetupWord q o) (hq : (queue s q.toNat).st ≠ .disabled) (v : Nat) :
    (apertureWrite o size v s).queues = s.queues := by
  rw [← queue_accessed s] at hq
  by_cases hok : accessOk o size = true
  · rcases size_of_accessOk hok with rfl | rfl
    · simpa [apertureWrite, hok] using apWrite_queues (h.writeWord hq _)
    · simpa [apertureWrite, hok] using apWrite_queues (h.writePair (mod_eight_of_accessOk hok) hq _)
  · simp [apertureWrite, hok, badAccess]

end

/-- Settles O48: every word of the setup is ignored while the queue is not DISABLED, so only the access itself has an effect. -/
theorem queueSetupLocked : Obligations.queue_setup_locked := by
  unfold Obligations.queue_setup_locked
  intro s q off size v o w hq ho
  have hw : SetupWord q o := ho.imp_right (And.imp_right fun h => by omega)
  constructor
  · obtain ⟨t, ht, hqueues⟩ := done_queues (hw.apertureWrite_queues (size := size) hq v.toNat)
    have hsame : queue t q.toNat = w := by simp only [queue, hqueues, w]
    exact ⟨t, ht, by rw [hsame], by rw [hsame], by rw [hsame]⟩
  · intro hs hok
    rw [exec_registerWrite_eq, hw.apertureWrite_served hq hs hok]
    exact done_of_pending_eq hs.2 (accessed_pending s)

end Sys2Proof.Machine
end
